-- ==== Sys2Proof/Word.lean ====
section
/-! DEFINITION. The word types of the part: bytes, the 16- and 32-bit fields of its frames, and the
256-bit values (digests, secrets, scalars) it keeps. -/

namespace Sys2Proof

/-- One byte of a bus transaction, a frame or a memory. -/
abbrev Byte := BitVec 8

/-- A run of bytes in the order in which they are sent (00 section 5 (4)). -/
abbrev Bytes := List Byte

/-- A 2-byte field. -/
abbrev Word16 := BitVec 16

/-- A 4-byte field. -/
abbrev Word32 := BitVec 32

/-- A 32-byte value: a SHA-256 digest, a secret or a private scalar. -/
abbrev Digest := BitVec 256

/-- A 64-byte value: a public key `X‖Y` or a signature `r‖s`. -/
abbrev Pair := BitVec 512

end Sys2Proof
end

