-- ==== Sys2Proof/Syntax.lean ====
section
/-! DEFINITION. The commands of the part: one constructor for each row of spec/opcode_table.json, in
the table's order. The table gives no row an operand: the operands are the model's (log entry 1). -/

namespace Sys2Proof

/-- Bytes of the physical flash by address: where the chip outside the part departs from its contents
(a byte read wrongly, a byte that did not take a program or erase, a byte left torn). Log entry 5. -/
abbrev FlashCells := List Host.Cell

/-- A transaction of a class that has neither address nor data: its opcode byte and how many bytes the SoC clocks
after it before SSEL rises (01 R1). -/
structure BareTransaction where
  opcode : Byte
  n : Nat
  deriving DecidableEq, Repr

/-- The operations and events of the part (95, opcode_table.json).

* `opcode` is the byte the SoC sends; `received` the bytes it sends after it; `n` how many bytes it clocks
  after it; `bare` both of these, for a class that takes effect when SSEL rises.
* `misread` are bytes the flash chip returns otherwise than it holds them; `failed` bytes an operation
  leaves otherwise than it should; `torn` bytes the loss of supply leaves in what an operation was changing.
* `id` is a credential id.

A window command has no operand: its body stands in the request buffer (03 R46). -/
inductive Instr where
  | powerOn
  | uptimeTick
  | transactionStart
  | suspendComplete
  | transactionEnd
  | read (opcode : Byte) (received : Bytes)
  | fastRead (opcode : Byte) (received : Bytes)
  | readDataByte (misread : FlashCells)
  | program (opcode : Byte) (received : Bytes)
  | erase4k (opcode : Byte) (received : Bytes)
  | erase64k (opcode : Byte) (received : Bytes)
  | eraseChip (bare : BareTransaction)
  | writeEnable (bare : BareTransaction)
  | writeDisable (bare : BareTransaction)
  | statusRead (opcode : Byte) (n : Nat)
  | idRead (opcode : Byte) (n : Nat)
  | refusedOpcode (opcode : Byte) (n : Nat)
  | internalGrant
  | readChunkComplete (misread : FlashCells)
  | storeReadChunkComplete (misread : FlashCells)
  | flashOperationComplete (failed : FlashCells)
  | storeRequestTaken
  | signatureUnitComplete
  | rstReqAsserted
  | rstReqDeasserted
  | pulseEnd
  | ownerClrAsserted
  | ownerClrDeasserted
  | ownerReset
  | trialTimerExpiry
  | grantExpiry
  | delayExpiry (id : Nat)
  | decayExpiry (id : Nat)
  | status
  | events
  | resetSoc
  | causeClear
  | stageAdvance
  | measureExtend
  | measureRead
  | logRead
  | attest
  | keyCreate
  | keyPublic
  | keySign
  | keyDerive
  | keyDestroy
  | keyList
  | credStore
  | credRelease
  | credVerify
  | credErase
  | credList
  | grantDrop
  | updateOpen
  | updateVerify
  | updateStatus
  | updateCommit
  | updateAbort
  | updateConfirm
  | violationRead
  | layoutRead
  | provisionLayout
  | provisionAuthority
  | provisionBank
  | provisionFinish
  | anchorMemoryWriteComplete
  | lossOfSupply (torn : FlashCells)
  deriving DecidableEq, Repr

end Sys2Proof
end

