-- ==== Sys2Proof/Decode.lean ====
section
/-! DEFINITION. The command a word spells. The table gives no row any bits (its fields are empty), so no
word spells a command. -/

namespace Sys2Proof

/-- The command that the `nbits` bits of `w` spell: none, for no row of the table gives bits. -/
def decodeTableWord (nbits w : Nat) : Option Instr :=
  match nbits, w with
  | _, _ => none

end Sys2Proof
end

