-- ==== Sys2Proof/Config.lean ====
section
/-! DEFINITION. What one part fixes and the manual leaves open: constants without a body, so that no
proof can see their value. -/

namespace Sys2Proof

/-- The 256-bit device secret of this part (06 R86): each part has its own and the manual gives no
value. DESIGN CHOICE, log entry 6. -/
opaque Config.deviceSecret : Digest

/-- The Signature Unit's random generator (07 R107, R110; 08 R123): the value of its n-th draw, free.
`State.fresh` counts the draws. DESIGN CHOICE, log entry 3. -/
opaque Config.random : Nat → Digest

/-- The scalar used when no value of the one-byte counter of 07 R102 gives a number in range: the rule
states no result there. DESIGN CHOICE, log entry 3. -/
opaque Config.identityWithoutScalar : Digest

/-- The signature of a scalar and a digest when none of the values set aside for it serves: the rules state
no result there. DESIGN CHOICE, log entry 3. -/
opaque Config.signatureWithoutNonce : Digest → Digest → Pair

end Sys2Proof
end

