-- ==== Sys2Proof/Machine/Bytes.lean ====
section
/-! DEFINITION. Byte order and fields: multi-byte fields go most significant byte first (00 section
5 (4), 03 section 3.9). -/

namespace Sys2Proof.Machine

/-- The `n`-byte field of value `v`, most significant byte first. -/
def beBytes : Nat → Nat → Bytes
  | 0, _ => []
  | n + 1, v => BitVec.ofNat 8 (v / 256 ^ n) :: beBytes n v

/-- The number a field of bytes stands for, most significant byte first. -/
def beNat (bs : Bytes) : Nat :=
  bs.foldl (fun a b => a * 256 + b.toNat) 0

/-- The `len` bytes from offset `off`. -/
def slice (bs : Bytes) (off len : Nat) : Bytes :=
  (bs.drop off).take len

/-- The number in the field of `len` bytes at offset `off`. -/
def field (bs : Bytes) (off len : Nat) : Nat :=
  beNat (slice bs off len)

/-- The byte at offset `off`; a frame too short for it reads 0, and every caller has checked the length. -/
def byteAt (bs : Bytes) (off : Nat) : Byte :=
  bs.getD off 0

def bytes1 (n : Nat) : Bytes := [BitVec.ofNat 8 n]
def bytes16 (w : Word16) : Bytes := beBytes 2 w.toNat
def bytes32 (w : Word32) : Bytes := beBytes 4 w.toNat
def digestBytes (d : Digest) : Bytes := beBytes 32 d.toNat
def pairBytes (p : Pair) : Bytes := beBytes 64 p.toNat

def digestAt (bs : Bytes) (off : Nat) : Digest := BitVec.ofNat 256 (field bs off 32)
def pairAt (bs : Bytes) (off : Nat) : Pair := BitVec.ofNat 512 (field bs off 64)
def word32At (bs : Bytes) (off : Nat) : Word32 := BitVec.ofNat 32 (field bs off 4)
def word16At (bs : Bytes) (off : Nat) : Word16 := BitVec.ofNat 16 (field bs off 2)

/-- 01h when set, 00h when clear. -/
def flagByte (b : Bool) : Byte := if b then 1 else 0

/-- The bytes with 00h added up to the next multiple of 16 (06 R88). -/
def pad16 (bs : Bytes) : Bytes :=
  bs ++ List.replicate ((16 - bs.length % 16) % 16) 0

/-- A set of indices held as bits: is `n` in it? -/
def inSet {w : Nat} (s : BitVec w) (n : Nat) : Bool := s.getLsbD n

/-- The set with `n` added. -/
def addTo {w : Nat} (s : BitVec w) (n : Nat) : BitVec w := s ||| BitVec.twoPow w n

/-- A 16-bit counter that saturates at 65535 (02 R38, 04 R56, 05 R71, 09 R158). -/
def bump (c : Word16) : Word16 := if c = 65535 then c else c + 1

end Sys2Proof.Machine
end

