-- ==== Sys2Proof/Machine/Memory.lean ====
section
/-! DEFINITION. The two addressed memories, the physical flash and the request buffer, as lists of
(address, byte) in one canonical form: addresses strictly rising and no byte FFh listed. -/

namespace Sys2Proof.Machine

/-- A memory: the bytes that are not FFh, by rising address. -/
abbrev Memory := List Host.Cell

/-- What an address that is not listed reads as. The private area "reads FFh throughout" as the part
leaves its maker (06 R86), an erased flash reads FFh (09 R146) and the cleared request buffer is FFh in
every byte (03 R48). For the rest of a new flash chip: DESIGN CHOICE, log entry 5. -/
def blankByte : Byte := 0xFF

/-- The byte at an address. -/
def Memory.read : Memory → Nat → Byte
  | [], _ => blankByte
  | (b, x) :: rest, a => if b = a then x else Memory.read rest a

/-- The memory with one byte written, in canonical form. -/
def Memory.write : Memory → Nat → Byte → Memory
  | [], a, v => if v = blankByte then [] else [(a, v)]
  | (b, x) :: rest, a, v =>
    if a < b then (if v = blankByte then (b, x) :: rest else (a, v) :: (b, x) :: rest)
    else if a = b then (if v = blankByte then rest else (a, v) :: rest)
    else (b, x) :: Memory.write rest a v

/-- Every listed address is `lo` or above, addresses rise strictly and no byte is FFh. -/
def Memory.wfFrom : Nat → Memory → Bool
  | _, [] => true
  | lo, (a, x) :: rest => decide (lo ≤ a) && decide (x ≠ blankByte) && Memory.wfFrom (a + 1) rest

/-- The canonical form. -/
def Memory.wf (m : Memory) : Bool := Memory.wfFrom 0 m

/-- `len` bytes from address `a`. -/
def Memory.readBytes (m : Memory) (a len : Nat) : Bytes :=
  (List.range len).map (fun k => m.read (a + k))

/-- A run of bytes written from address `a` onward. -/
def Memory.writeBytes : Memory → Nat → Bytes → Memory
  | m, _, [] => m
  | m, a, v :: vs => Memory.writeBytes (m.write a v) (a + 1) vs

/-- The memory without the bytes of `[lo, lo + len)`: they read FFh (a flash erase). -/
def Memory.erase (m : Memory) (lo len : Nat) : Memory :=
  m.filter (fun c => decide (c.1 < lo) || decide (lo + len ≤ c.1))

/-- The memory with the bytes of `cells` that lie in addresses `P` says, each written as given. -/
def Memory.patch (within : Nat → Bool) : Memory → List Host.Cell → Memory
  | m, [] => m
  | m, (a, v) :: rest => Memory.patch within (if within a then m.write a v else m) rest

/-- The byte the flash chip returns at an address: what it holds, but for a cell that departs from it. -/
def Memory.readThrough (m : Memory) (misread : List Host.Cell) (a : Nat) : Byte :=
  match misread.find? (fun c => c.1 == a) with
  | some c => c.2
  | none => m.read a

/-- `len` bytes as the flash chip returns them. -/
def Memory.readBytesThrough (m : Memory) (misread : List Host.Cell) (a len : Nat) : Bytes :=
  (List.range len).map (fun k => m.readThrough misread (a + k))

end Sys2Proof.Machine
end

