-- ==== Sys2Proof/Machine/Types.lean ====
section
/-! DEFINITION. The types of the state: the names the manual enumerates and the records each block
keeps, block by block. -/

namespace Sys2Proof.Machine

/-! ### SoC Port and Opcode Class Table (01) -/

/-- The thirteen classes of the Opcode Class Table (01 section 1.2). -/
inductive OpClass where
  | read | fastRead | program | erase4k | erase64k | eraseChip | writeEnable | writeDisable
  | statusRead | idRead | suspend | resume | refuse
  deriving DecidableEq, Repr

/-- An entry of the Opcode Class Table. -/
structure OpcodeEntry where
  opcode : Byte
  cls : OpClass
  flashOp : Byte
  dummy : Nat
  deriving DecidableEq, Repr

/-- Where the transaction in progress stands (01 R1). `ended` is a transaction whose row has been judged
and which waits only for SSEL to rise. -/
inductive Phase where
  | opcode | address | dummy | data | ended
  deriving DecidableEq, Repr

/-- A run of flash bytes of a read (01 R12): the region it lies in, whether it is the recovery image, and
the physical address of its next byte. -/
structure FlashRun where
  region : Option Nat
  substituted : Bool
  next : Nat
  deriving DecidableEq, Repr

/-- The decode record of the transaction in progress (01 section 1.1). -/
structure Decode where
  phase : Phase
  opcode : Byte
  /-- The entry that classified the opcode; absent before the opcode and for an opcode held by no entry. -/
  entry : Option OpcodeEntry
  addressBytes : Bytes
  dummyLeft : Nat
  dataCount : Nat
  /-- The page image of a PROGRAM (02 R27): 256 positions, each empty or holding a byte. -/
  page : List (Option Byte)
  /-- The read has recorded its violation (02 R26). -/
  violated : Bool
  run : Option FlashRun
  deriving DecidableEq, Repr

/-- The SoC Port. -/
structure Port where
  decode : Option Decode
  wel : Bool
  waitHigh : Bool
  sdout : Bytes
  deriving DecidableEq, Repr

/-- The input pins as levels; `true` is asserted (low). -/
structure Lines where
  ssel : Bool
  rstReq : Bool
  ownerClr : Bool
  deriving DecidableEq, Repr

/-! ### Flash Port Arbiter (01) -/

/-- The internal agents that use the Flash Port. -/
inductive Requester where
  | journal | measure | update
  deriving DecidableEq, Repr

/-- One unit of work at the flash: a read chunk, a program (bytes from an address on, wrapping in its
page) or an erase of the 4 KiB or 64 KiB unit at an address. -/
inductive FlashOp where
  | read (address length : Nat)
  | program (address : Nat) (data : Bytes)
  | erase4k (address : Nat)
  | erase64k (address : Nat)
  deriving DecidableEq, Repr

/-- A SoC program or erase that passed the Region Checker (01 R16). -/
structure SocWrite where
  cls : OpClass
  flashOp : Byte
  address : Nat
  data : Bytes
  deriving DecidableEq, Repr

/-- The current grant (01 section 1.8). INTERNAL is `internal`, and `internalWithdrawn` where its requester has
withdrawn the read chunk in progress (01 R17; 05 R78, R81; 09 R143, R150). -/
inductive Grant where
  | free
  | socRead
  | socWrite (w : SocWrite)
  | internal (r : Requester) (op : FlashOp)
  | internalWithdrawn (r : Requester) (base length : Nat)
  deriving DecidableEq, Repr

structure Arbiter where
  grant : Grant
  suspended : Option (Requester × FlashOp)
  suspendDone : Bool
  deferred : Option SocWrite
  journal : Option FlashOp
  measure : Option FlashOp
  update : Option FlashOp
  /-- The flash-side transactions sent last, each from its opcode on. -/
  bus : List Bytes
  deriving DecidableEq, Repr

/-! ### Layout and Region Checker (02) -/

inductive RegionKind where
  | banked | stage | plain | recovery
  deriving DecidableEq, Repr

inductive MeasureAt where
  | none | stage (s : Nat) | reset
  deriving DecidableEq, Repr

inductive OnMismatch where
  | record | fallback | contain
  deriving DecidableEq, Repr

inductive Bank where
  | a | b
  deriving DecidableEq, Repr

/-- An entry of the Region Table (02 section 2.1). -/
structure Region where
  index : Nat
  kind : RegionKind
  boot : Bool
  parent : Option Nat
  base : Option Nat
  length : Nat
  physA : Option Nat
  physB : Option Nat
  readMask : Byte
  programMask : Byte
  eraseMask : Byte
  measureAt : MeasureAt
  slot : Option Nat
  onMismatch : Option OnMismatch
  deriving DecidableEq, Repr

/-- The sources of counted changes (11 section 11.3). -/
inductive Source where
  | region (r : Nat) | all | unmapped | failures (id : Nat) | mismatches | fallbacks
  deriving DecidableEq, Repr

/-- The actions of the Response Table (11 R170, R171). -/
inductive Action where
  | alert | hideRegion (r : Nat) | disableSlot (n : Nat) | contain | eraseCredential (id : Nat) | revokeGrant
  deriving DecidableEq, Repr

structure ResponseEntry where
  source : Source
  threshold : Nat
  action : Action
  deriving DecidableEq, Repr

/-- The physical capacity. -/
inductive Capacity where
  | mib16 | mib32
  deriving DecidableEq, Repr

/-- A layout (02 section 2.3), with the layout block it was read from, which is what is stored, reported
and hashed. -/
structure Layout where
  block : Bytes
  capacity : Capacity
  presentedId : Bytes
  confirmStage : Nat
  trialCount : Nat
  timeoutCode : Nat
  grantTime : Nat
  updateMask : Byte
  extendMasks : Bytes
  opcodes : List OpcodeEntry
  regions : List Region
  responses : List ResponseEntry
  deriving DecidableEq, Repr

inductive ViolationKind where
  | readDenied | programDenied | eraseDenied | frozen | straddle | unmapped | opcode | writeWhileBusy | window
  deriving DecidableEq, Repr

/-- A violation record (02 R36). -/
structure Violation where
  sequence : Word32
  kind : ViolationKind
  cls : OpClass
  address : Nat
  region : Option Nat
  stage : BitVec 3
  uptime : Word32
  deriving DecidableEq, Repr

inductive LayoutSource where
  | current | trial
  deriving DecidableEq, Repr

structure Checker where
  layout : Option Layout
  source : LayoutSource
  openMapping : Bool
  freezeSet : BitVec 16
  hideSet : BitVec 16
  ring : List Violation
  sequence : Word32
  regionCounters : Vector Word16 16
  unmappedCounter : Word16
  allCounter : Word16
  deriving DecidableEq, Repr

/-! ### Window Controller (03) -/

inductive EngineState where
  | idle | busy | done
  deriving DecidableEq, Repr

/-- The commands of the control window (03 section 3.9). -/
inductive Command where
  | status | events | resetSoc | causeClear | stageAdvance | measureExtend | measureRead | logRead
  | attest | keyCreate | keyPublic | keySign | keyDerive | keyDestroy | keyList
  | credStore | credRelease | credVerify | credErase | credList | grantDrop
  | updateOpen | updateVerify | updateStatus | updateCommit | updateAbort | updateConfirm
  | violationRead | layoutRead | provisionLayout | provisionAuthority | provisionBank | provisionFinish
  deriving DecidableEq, Repr

/-- The result codes (03 section 3.5). -/
inductive Result where
  | ok | match_ | mismatch | started | malformed | unknown | lifecycle | stage | stageOrder | contained
  | notFound | wrongKind | grant | throttled | signature | version | layout | session | trialPending
  | digest | staleClear | storeFault | slotState
  deriving DecidableEq, Repr

/-- The command in progress: handed to its owning block with its body (R46), and whether the owner has
taken it and waits (for its measurement, the Signature Unit, the Journal Store or anchor memory). -/
structure Running where
  command : Command
  body : Bytes
  taken : Bool
  deriving DecidableEq, Repr

/-- The eight event kinds (03 section 3.6). -/
inductive Event where
  | done | violation | mismatch | contain | response | update | trial | owner
  deriving DecidableEq, Repr

structure Window where
  engine : EngineState
  request : Memory
  tag : Byte
  result : Byte
  body : Bytes
  overrun : Bool
  command : Option Running
  pendingEvents : Byte
  mask : Byte
  deriving DecidableEq, Repr

/-! ### Time Base and Reset Controller (04) -/

/-- A timer measured from the event that starts it (04 R54): its start and its span in milliseconds of
the model's clock. -/
structure Timer where
  start : Nat
  span : Nat
  deriving DecidableEq, Repr

structure TimeBase where
  uptime : Word32
  /-- MODEL's own: milliseconds since power-on. Log entry 2. -/
  clock : Nat
  deriving DecidableEq, Repr

inductive ResetState where
  | start | check | run | request | pulse | halt
  deriving DecidableEq, Repr

inductive ResetCause where
  | powerOn | request | command | trialExpiry | ownerReset | containHalt
  deriving DecidableEq, Repr

/-- A pass of the boot check (05 R74): first or second, the regions still to measure, and whether a
mismatch so far calls for a fallback or for containment. -/
structure Pass where
  second : Bool
  todo : List Nat
  needFallback : Bool
  needContain : Bool
  deriving DecidableEq, Repr

/-- How far the boot check is (04 R58): no check, waiting for the store queue (step 1 and 09 R142),
waiting for a trial entry (step 3), measuring a pass (step 4), waiting for a fallback entry (05 R76),
measuring the recovery image (05 R77). -/
inductive BootCheck where
  | idle | waitStore | waitEntry | measuring (p : Pass) | waitFallback | recovery
  deriving DecidableEq, Repr

structure ResetController where
  state : ResetState
  lastCause : ResetCause
  counts : Vector Word16 6
  bootCounter : Word32
  hold : Option Timer
  pulse : Option Timer
  pulseWait : Bool
  check : BootCheck
  deriving DecidableEq, Repr

/-! ### Measurement Unit (05) -/

/-- The source kind of an extend (05 R67). -/
inductive ExtendKind where
  | region | soc | recovery
  deriving DecidableEq, Repr

/-- A log entry (05 R68); its index is its position. -/
structure LogEntry where
  slot : Nat
  kind : ExtendKind
  index : Nat
  stage : Nat
  digest : Digest
  deriving DecidableEq, Repr

/-- A stage history entry (05 R69). -/
structure HistoryEntry where
  stage : Nat
  uptime : Word32
  logLength : Nat
  deriving DecidableEq, Repr

/-- The advance record (05 R79). -/
structure Advance where
  target : Nat
  todo : List Nat
  done : List Nat
  mismatched : BitVec 16
  deriving DecidableEq, Repr

/-- The region measurement in progress (05 R70): the region, its physical range and the bytes hashed so
far, which are what the measurement context of the Digest Unit has been fed. -/
structure Measuring where
  region : Nat
  base : Nat
  length : Nat
  fed : Bytes
  deriving DecidableEq, Repr

structure Measure where
  stage : BitVec 3
  slots : Vector Digest 8
  log : List LogEntry
  truncated : Bool
  history : List HistoryEntry
  mismatches : Word16
  advance : Option Advance
  current : Option Measuring
  deriving DecidableEq, Repr

/-! ### Key Store (07) -/

inductive KeyClass where
  | platform | owner
  deriving DecidableEq, Repr

/-- The usage of a general slot with what its key needs: SIGN keeps its public key, DERIVE may be bound
to a measurement slot. -/
inductive KeyUsage where
  | sign (publicKey : Pair)
  | derive (bind : Option Nat)
  deriving DecidableEq, Repr

/-- A general slot record that holds a key (07 section 7). -/
structure KeyRecord where
  cls : KeyClass
  usage : KeyUsage
  stageMask : Byte
  needsGrant : Bool
  containedOk : Bool
  epoch : Word32
  secret : Digest
  deriving DecidableEq, Repr

structure Identity where
  scalar : Digest
  publicKey : Pair
  deriving DecidableEq, Repr

structure Keys where
  identity : Identity
  authority : Option Pair
  /-- By slot number; only 2 ~ 15 are general slots. -/
  slots : Vector (Option KeyRecord) 16
  disabled : BitVec 16
  deriving DecidableEq, Repr

/-! ### Credential Store (08) -/

/-- A VERIFIER record (08 R117). -/
structure Verifier where
  ownerGate : Bool
  verifyMask : Byte
  label : Bytes
  salt : BitVec 128
  verifier : Digest
  free : Nat
  delay : Nat
  ceiling : Nat
  decay : Nat
  deriving DecidableEq, Repr

/-- A SECRET record (08 R117). -/
structure Secret where
  needsGrant : Bool
  releaseMask : Byte
  label : Bytes
  value : Bytes
  deriving DecidableEq, Repr

inductive Credential where
  | verifier (v : Verifier)
  | secret (v : Secret)
  deriving DecidableEq, Repr

/-- A credential record with its owner epoch and, for a VERIFIER, its volatile count and timers. -/
structure CredRecord where
  content : Credential
  epoch : Word32
  count : Byte
  delayTimer : Option Timer
  decayTimer : Option Timer
  /-- The count restored at start-up, which R169's start-up offer needs; 0 for a record stored since. -/
  restored : Byte
  deriving DecidableEq, Repr

structure Creds where
  records : Vector (Option CredRecord) 32
  grant : Option Timer
  deriving DecidableEq, Repr

/-! ### Update Controller (09) -/

inductive BankState where
  | empty | staged | trial | good | rejected | retired
  deriving DecidableEq, Repr

/-- The image length and reference digest of one BANKED region in one bank. -/
structure Image where
  length : Nat
  digest : Digest
  deriving DecidableEq, Repr

/-- One bank of the bank record; `images` in index order of the BANKED regions. -/
structure BankInfo where
  state : BankState
  version : Word32
  images : List Image
  deriving DecidableEq, Repr

inductive TrialOutcome where
  | none | confirmed | fellBackTimeout | fellBackMismatch
  deriving DecidableEq, Repr

/-- The bank record (09 R140). -/
structure BankRecord where
  active : Bank
  bankA : BankInfo
  bankB : BankInfo
  trialPending : Bool
  attempts : Nat
  trialLayout : Bool
  raiseFloor : Bool
  outcome : TrialOutcome
  floor : Word32
  layoutDigest : Digest
  recoveryDigest : Digest
  deriving DecidableEq, Repr

/-- A target of a manifest. -/
structure Target where
  region : Nat
  length : Nat
  digest : Digest
  deriving DecidableEq, Repr

/-- The fields an accepted manifest gives (09 section 9.2). -/
structure Manifest where
  version : Word32
  raiseFloor : Bool
  targets : List Target
  layout : Option Layout
  deriving DecidableEq, Repr

/-- The verification in progress (09 R147): targets still to hash, the one being hashed first, and the
bytes fed to the update verification context for it. -/
structure Verifying where
  todo : List Target
  fed : Bytes
  deriving DecidableEq, Repr

/-- The update session (09 R143). -/
inductive Session where
  | idle
  | staging (m : Manifest)
  | verifying (m : Manifest) (v : Verifying) (hashed : Nat)
  | verified (m : Manifest)
  deriving DecidableEq, Repr

inductive Verification where
  | none | verified | rejected (region : Nat)
  deriving DecidableEq, Repr

structure Update where
  record : BankRecord
  layout : Option Layout
  trialLayout : Option Layout
  presented : Bank
  trialBoot : Bool
  running : Bool
  timer : Option Timer
  session : Session
  verification : Verification
  fallbacks : Word16
  deriving DecidableEq, Repr

/-! ### Journal Store (06) -/

inductive LifeCycle where
  | factory | field
  deriving DecidableEq, Repr

/-- A write to anchor memory begun and not complete (12 R176, R178; 06 R91). -/
inductive AnchorWrite where
  | field
  /-- The writes of the request in progress: a floor raise, an authority key hash. -/
  | request (floor : Option Word32) (hash : Option Digest)
  deriving DecidableEq, Repr

structure Anchor where
  lifeCycle : LifeCycle
  deviceSecret : Digest
  authorityHash : Digest
  floor : Word32
  generation : Word32
  haltCount : Word16
  writes : List AnchorWrite
  deriving DecidableEq, Repr

inductive ObjectKind where
  | bank | layout | layoutTrial | key | cred | count | ownerEpoch | checkpoint
  deriving DecidableEq, Repr

inductive Half where
  | zero | one
  deriving DecidableEq, Repr

/-- A record of the object index (06 section 6), with the entry's owner epoch, which R95 needs. -/
structure IndexRecord where
  kind : ObjectKind
  id : Nat
  half : Half
  offset : Nat
  length : Nat
  generation : Word32
  epoch : Word32
  deriving DecidableEq, Repr

/-- An entry of a store request, before it has a generation and a tag (06 section 6.4). -/
structure StoreEntry where
  kind : ObjectKind
  id : Nat
  epoch : Word32
  secret : Bool
  payload : Bytes
  deriving DecidableEq, Repr

/-- The sources of store requests (06 R90). -/
inductive StoreSource where
  | engine | resetController | updateController | responseUnit
  deriving DecidableEq, Repr

/-- What a store request is for, with what its answer needs. -/
inductive Purpose where
  | keyCreate (slot : Nat) (record : KeyRecord)
  | keyDestroy (slot : Nat)
  | credStore (id : Nat) (content : Credential) (epoch : Word32)
  | credCount (id : Nat) (count : Byte) (epoch : Word32) (candidate : Bytes)
  | credMatch (id : Nat) (epoch : Word32)
  | credErase (id : Nat) (epoch : Word32)
  | updateOpen (m : Manifest)
  | updateAbort
  | sessionAbandon
  | updateCommit (m : Manifest)
  | updateConfirm
  | trialAttempt
  | trialTimeout
  | bootFallback
  | ownerEpoch
  | responseErase (id : Nat) (epoch : Word32)
  | provisionLayout (l : Layout)
  | provisionAuthority (key : Pair)
  | provisionBank (record : BankRecord)
  deriving DecidableEq, Repr

/-- A request a source holds: its purpose, and whether the command or check that made it still waits. -/
structure HeldRequest where
  purpose : Purpose
  live : Bool
  deriving DecidableEq, Repr

/-- A store request in the queue (06 R90): its entries in order, the raise of the version floor and the
authority key hash it may hold, and the bank record its BANK entry makes. -/
structure StoreRequest where
  purpose : Purpose
  live : Bool
  entries : List StoreEntry
  floorRaise : Option Word32
  authorityHash : Option Digest
  record : Option BankRecord
  deriving DecidableEq, Repr

/-- Bytes being written to a half of the private area and read back. -/
structure Writing where
  half : Half
  offset : Nat
  bytes : Bytes
  deriving DecidableEq, Repr

/-- What is being written: the request's entry, a copy of a live object's entry (with the records still
to copy and those copied), or the CHECKPOINT that ends a compaction. -/
inductive WriteKind where
  | entry (generation : Word32)
  | copy (source : IndexRecord) (rest copied : List IndexRecord)
  | checkpoint (copied : List IndexRecord)
  deriving DecidableEq, Repr

/-- The step of the request in progress (06 R91 ~ R94). -/
inductive JobStep where
  | programming (k : WriteKind) (w : Writing) (pages : List (Nat × Bytes))
  | readingBack (k : WriteKind) (w : Writing) (got : Bytes)
  | spoiling (w : Writing) (final : Bool)
  | spoilReading (w : Writing) (final : Bool)
  | erasing (second : Bool)
  | copyReading (source : IndexRecord) (rest copied : List IndexRecord) (got : Bytes)
  | anchorWriting
  deriving DecidableEq, Repr

/-- The request in progress: its entries still to write, whether it has met its one failure, its step. -/
structure Job where
  request : StoreRequest
  todo : List StoreEntry
  failed : Bool
  step : JobStep
  deriving DecidableEq, Repr

inductive StoreState where
  | scanning | ready | stale | fault
  deriving DecidableEq, Repr

/-- The start-up scan (06 R96 ~ R99, 12 R174): reading the halves of an area, or handing the live objects
to their owners. `outcome` is the store state the scan ends in. -/
inductive Scan where
  | probing (area : Capacity) (half0 half1 : Memory) (at_ : Nat)
  | handing (outcome : StoreState) (todo : List IndexRecord) (got : Bytes)
  deriving DecidableEq, Repr

structure Journal where
  state : StoreState
  active : Option Half
  appendPoint : Nat
  index : List IndexRecord
  epoch : Word32
  tagKey : Digest
  storageKey : Digest
  queue : List StoreRequest
  held : List HeldRequest
  job : Option Job
  scan : Option Scan
  provisioning : Option Capacity
  deriving DecidableEq, Repr

/-! ### Signature Unit and Response Unit (07, 11) -/

/-- The operation the Signature Unit carries out for the command in the engine, with what its result is made of:
a use holds the key it was taken with, so that its result is held back until the completion whatever becomes of
the slot (07 R106). -/
inductive SignatureJob where
  | createKey (slot : Nat) (cls : KeyClass) (sign : Bool) (stageMask : Byte) (needsGrant containedOk : Bool) (bind : Option Nat)
  | sign (slot : Nat) (key : KeyRecord) (digest : Digest)
  | derive (slot : Nat) (key : KeyRecord) (message : Bytes)
  | salt (id : Nat) (content : Verifier) (value : Bytes)
  | attest (report : Bytes)
  | manifest (body : Bytes)
  deriving DecidableEq, Repr

structure Response where
  causes : Byte
  table : List ResponseEntry
  fired : Byte
  armed : Bool
  offered : Bool
  eraseList : List Nat
  deriving DecidableEq, Repr

/-- The causes of containment (11 section 11.1). -/
inductive ContainCause where
  | bootMismatch | regionMismatch | storeStale | storeFault | response
  deriving DecidableEq, Repr

end Sys2Proof.Machine
end

