-- ==== Sys2Proof/Machine/Codes.lean ====
section
/-! DEFINITION. The codes of the enumerated fields (03 section 3.9). -/

namespace Sys2Proof.Machine

/-- Opcode class codes (03 section 3.9). -/
def OpClass.code : OpClass → Byte
  | .read => 0x00
  | .fastRead => 0x01
  | .program => 0x02
  | .erase4k => 0x03
  | .erase64k => 0x04
  | .eraseChip => 0x05
  | .writeEnable => 0x06
  | .writeDisable => 0x07
  | .statusRead => 0x08
  | .idRead => 0x09
  | .suspend => 0x0a
  | .resume => 0x0b
  | .refuse => 0x0c

/-- The inverse of `OpClass.code`; `none` for a value that is no code. -/
def OpClass.ofCode (b : Byte) : Option OpClass :=
  match b.toNat with
  | 0 => some .read
  | 1 => some .fastRead
  | 2 => some .program
  | 3 => some .erase4k
  | 4 => some .erase64k
  | 5 => some .eraseChip
  | 6 => some .writeEnable
  | 7 => some .writeDisable
  | 8 => some .statusRead
  | 9 => some .idRead
  | 10 => some .suspend
  | 11 => some .resume
  | 12 => some .refuse
  | _ => none

/-- Region kind codes. -/
def RegionKind.code : RegionKind → Byte
  | .banked => 0x00
  | .stage => 0x01
  | .plain => 0x02
  | .recovery => 0x03

/-- The inverse of `RegionKind.code`; `none` for a value that is no code. -/
def RegionKind.ofCode (b : Byte) : Option RegionKind :=
  match b.toNat with
  | 0 => some .banked
  | 1 => some .stage
  | 2 => some .plain
  | 3 => some .recovery
  | _ => none

/-- On-mismatch codes. -/
def OnMismatch.code : OnMismatch → Byte
  | .record => 0x00
  | .fallback => 0x01
  | .contain => 0x02

/-- The inverse of `OnMismatch.code`; `none` for a value that is no code. -/
def OnMismatch.ofCode (b : Byte) : Option OnMismatch :=
  match b.toNat with
  | 0 => some .record
  | 1 => some .fallback
  | 2 => some .contain
  | _ => none

/-- Violation kind codes. -/
def ViolationKind.code : ViolationKind → Byte
  | .readDenied => 0x00
  | .programDenied => 0x01
  | .eraseDenied => 0x02
  | .frozen => 0x03
  | .straddle => 0x04
  | .unmapped => 0x05
  | .opcode => 0x06
  | .writeWhileBusy => 0x07
  | .window => 0x08

/-- The inverse of `ViolationKind.code`; `none` for a value that is no code. -/
def ViolationKind.ofCode (b : Byte) : Option ViolationKind :=
  match b.toNat with
  | 0 => some .readDenied
  | 1 => some .programDenied
  | 2 => some .eraseDenied
  | 3 => some .frozen
  | 4 => some .straddle
  | 5 => some .unmapped
  | 6 => some .opcode
  | 7 => some .writeWhileBusy
  | 8 => some .window
  | _ => none

/-- Life cycle codes. -/
def LifeCycle.code : LifeCycle → Byte
  | .factory => 0x00
  | .field => 0x01

/-- The inverse of `LifeCycle.code`; `none` for a value that is no code. -/
def LifeCycle.ofCode (b : Byte) : Option LifeCycle :=
  match b.toNat with
  | 0 => some .factory
  | 1 => some .field
  | _ => none

/-- Bank codes. -/
def Bank.code : Bank → Byte
  | .a => 0x00
  | .b => 0x01

/-- The inverse of `Bank.code`; `none` for a value that is no code. -/
def Bank.ofCode (b : Byte) : Option Bank :=
  match b.toNat with
  | 0 => some .a
  | 1 => some .b
  | _ => none

/-- Bank state codes. -/
def BankState.code : BankState → Byte
  | .empty => 0x00
  | .staged => 0x01
  | .trial => 0x02
  | .good => 0x03
  | .rejected => 0x04
  | .retired => 0x05

/-- The inverse of `BankState.code`; `none` for a value that is no code. -/
def BankState.ofCode (b : Byte) : Option BankState :=
  match b.toNat with
  | 0 => some .empty
  | 1 => some .staged
  | 2 => some .trial
  | 3 => some .good
  | 4 => some .rejected
  | 5 => some .retired
  | _ => none

/-- Trial outcome codes. -/
def TrialOutcome.code : TrialOutcome → Byte
  | .none => 0x00
  | .confirmed => 0x01
  | .fellBackTimeout => 0x02
  | .fellBackMismatch => 0x03

/-- The inverse of `TrialOutcome.code`; `none` for a value that is no code. -/
def TrialOutcome.ofCode (b : Byte) : Option TrialOutcome :=
  match b.toNat with
  | 0 => some .none
  | 1 => some .confirmed
  | 2 => some .fellBackTimeout
  | 3 => some .fellBackMismatch
  | _ => none

/-- Reset cause codes. -/
def ResetCause.code : ResetCause → Byte
  | .powerOn => 0x00
  | .request => 0x01
  | .command => 0x02
  | .trialExpiry => 0x03
  | .ownerReset => 0x04
  | .containHalt => 0x05

/-- The inverse of `ResetCause.code`; `none` for a value that is no code. -/
def ResetCause.ofCode (b : Byte) : Option ResetCause :=
  match b.toNat with
  | 0 => some .powerOn
  | 1 => some .request
  | 2 => some .command
  | 3 => some .trialExpiry
  | 4 => some .ownerReset
  | 5 => some .containHalt
  | _ => none

/-- Capacity codes of the layout block. -/
def Capacity.code : Capacity → Byte
  | .mib16 => 0x00
  | .mib32 => 0x01

/-- The inverse of `Capacity.code`; `none` for a value that is no code. -/
def Capacity.ofCode (b : Byte) : Option Capacity :=
  match b.toNat with
  | 0 => some .mib16
  | 1 => some .mib32
  | _ => none

/-- Source kinds of the extend tag (05 R67). -/
def ExtendKind.code : ExtendKind → Byte
  | .region => 0x00
  | .soc => 0x01
  | .recovery => 0x02

/-- The inverse of `ExtendKind.code`; `none` for a value that is no code. -/
def ExtendKind.ofCode (b : Byte) : Option ExtendKind :=
  match b.toNat with
  | 0 => some .region
  | 1 => some .soc
  | 2 => some .recovery
  | _ => none

/-- Key class codes (07 R107, R113). -/
def KeyClass.code : KeyClass → Byte
  | .platform => 0x00
  | .owner => 0x01

/-- The inverse of `KeyClass.code`; `none` for a value that is no code. -/
def KeyClass.ofCode (b : Byte) : Option KeyClass :=
  match b.toNat with
  | 0 => some .platform
  | 1 => some .owner
  | _ => none

/-- Engine state codes (03 section 3.9). -/
def EngineState.code : EngineState → Byte
  | .idle => 0x00
  | .busy => 0x01
  | .done => 0x02

/-- The inverse of `EngineState.code`; `none` for a value that is no code. -/
def EngineState.ofCode (b : Byte) : Option EngineState :=
  match b.toNat with
  | 0 => some .idle
  | 1 => some .busy
  | 2 => some .done
  | _ => none

/-- Byte codes of the journal's object kinds. 06 R88 lists the kinds and gives no codes: DESIGN CHOICE, log entry 8. -/
def ObjectKind.code : ObjectKind → Byte
  | .bank => 0x00
  | .layout => 0x01
  | .layoutTrial => 0x02
  | .key => 0x03
  | .cred => 0x04
  | .count => 0x05
  | .ownerEpoch => 0x06
  | .checkpoint => 0x07

/-- The inverse of `ObjectKind.code`; `none` for a value that is no code. -/
def ObjectKind.ofCode (b : Byte) : Option ObjectKind :=
  match b.toNat with
  | 0 => some .bank
  | 1 => some .layout
  | 2 => some .layoutTrial
  | 3 => some .key
  | 4 => some .cred
  | 5 => some .count
  | 6 => some .ownerEpoch
  | 7 => some .checkpoint
  | _ => none

/-- Command codes (03 section 3.9). -/
def Command.code : Command → Byte
  | .status => 0x01
  | .events => 0x02
  | .resetSoc => 0x03
  | .causeClear => 0x04
  | .stageAdvance => 0x10
  | .measureExtend => 0x11
  | .measureRead => 0x12
  | .logRead => 0x13
  | .attest => 0x20
  | .keyCreate => 0x30
  | .keyPublic => 0x31
  | .keySign => 0x32
  | .keyDerive => 0x33
  | .keyDestroy => 0x34
  | .keyList => 0x35
  | .credStore => 0x40
  | .credRelease => 0x41
  | .credVerify => 0x42
  | .credErase => 0x43
  | .credList => 0x44
  | .grantDrop => 0x45
  | .updateOpen => 0x50
  | .updateVerify => 0x51
  | .updateStatus => 0x52
  | .updateCommit => 0x53
  | .updateAbort => 0x54
  | .updateConfirm => 0x55
  | .violationRead => 0x60
  | .layoutRead => 0x61
  | .provisionLayout => 0x70
  | .provisionAuthority => 0x71
  | .provisionBank => 0x72
  | .provisionFinish => 0x73

/-- The inverse of `Command.code`; `none` for a value that is no code. -/
def Command.ofCode (b : Byte) : Option Command :=
  match b.toNat with
  | 1 => some .status
  | 2 => some .events
  | 3 => some .resetSoc
  | 4 => some .causeClear
  | 16 => some .stageAdvance
  | 17 => some .measureExtend
  | 18 => some .measureRead
  | 19 => some .logRead
  | 32 => some .attest
  | 48 => some .keyCreate
  | 49 => some .keyPublic
  | 50 => some .keySign
  | 51 => some .keyDerive
  | 52 => some .keyDestroy
  | 53 => some .keyList
  | 64 => some .credStore
  | 65 => some .credRelease
  | 66 => some .credVerify
  | 67 => some .credErase
  | 68 => some .credList
  | 69 => some .grantDrop
  | 80 => some .updateOpen
  | 81 => some .updateVerify
  | 82 => some .updateStatus
  | 83 => some .updateCommit
  | 84 => some .updateAbort
  | 85 => some .updateConfirm
  | 96 => some .violationRead
  | 97 => some .layoutRead
  | 112 => some .provisionLayout
  | 113 => some .provisionAuthority
  | 114 => some .provisionBank
  | 115 => some .provisionFinish
  | _ => none

/-- Result codes (03 section 3.9). -/
def Result.code : Result → Byte
  | .ok => 0x00
  | .match_ => 0x01
  | .mismatch => 0x02
  | .started => 0x03
  | .malformed => 0x10
  | .unknown => 0x11
  | .lifecycle => 0x12
  | .stage => 0x13
  | .stageOrder => 0x14
  | .contained => 0x15
  | .notFound => 0x16
  | .wrongKind => 0x17
  | .grant => 0x18
  | .throttled => 0x19
  | .signature => 0x1a
  | .version => 0x1b
  | .layout => 0x1c
  | .session => 0x1d
  | .trialPending => 0x1e
  | .digest => 0x1f
  | .staleClear => 0x20
  | .storeFault => 0x21
  | .slotState => 0x22

/-- The bit of an event kind in the pending event set and the mask (03 section 3.9). -/
def Event.bit : Event → Nat
  | .done => 0
  | .violation => 1
  | .mismatch => 2
  | .contain => 3
  | .response => 4
  | .update => 5
  | .trial => 6
  | .owner => 7

/-- The bit of a cause in the containment cause set (03 section 3.9). -/
def ContainCause.bit : ContainCause → Nat
  | .bootMismatch => 0
  | .regionMismatch => 1
  | .storeStale => 2
  | .storeFault => 3
  | .response => 4

/-- Session state codes. -/
def Session.code : Session → Byte
  | .idle => 0
  | .staging _ => 1
  | .verifying _ _ _ => 2
  | .verified _ => 3

/-- Verification result codes (09 R149). -/
def Verification.code : Verification → Byte
  | .none => 0
  | .verified => 1
  | .rejected _ => 2

/-- Measure-at codes: 00h NONE, 01h ~ 07h stage, 08h RESET. -/
def MeasureAt.ofCode (b : Byte) : Option MeasureAt :=
  if b = 0 then some .none
  else if b.toNat ≤ 7 then some (.stage b.toNat)
  else if b = 8 then some .reset
  else none

/-- Key usage codes (07 R107, R113). -/
def KeyUsage.code : KeyUsage → Byte
  | .sign _ => 0
  | .derive _ => 1

/-- Byte 00h or 01h of a flag; `none` for any other. -/
def flagOfByte (b : Byte) : Option Bool :=
  if b = 0 then some false else if b = 1 then some true else none

end Sys2Proof.Machine
end

