-- ==== Sys2Proof/Machine/Layout.lean ====
section
/-! DEFINITION. The layout: the default Opcode Class Table (01 R3), the layout block (03 section 3.9) and
its validation (02 R21, R22). -/

namespace Sys2Proof.Machine

/-- The default Opcode Class Table (01 section 1.2). -/
def defaultOpcodes : List OpcodeEntry :=
  [⟨0x03, .read, 0x13, 0⟩, ⟨0x0B, .fastRead, 0x0C, 1⟩, ⟨0x02, .program, 0x12, 0⟩,
   ⟨0x20, .erase4k, 0x21, 0⟩, ⟨0xD8, .erase64k, 0xDC, 0⟩, ⟨0x06, .writeEnable, 0x06, 0⟩,
   ⟨0x04, .writeDisable, 0x04, 0⟩, ⟨0x05, .statusRead, 0x05, 0⟩, ⟨0x9F, .idRead, 0x9F, 0⟩,
   ⟨0xC7, .eraseChip, 0x00, 0⟩, ⟨0x60, .eraseChip, 0x00, 0⟩, ⟨0x75, .suspend, 0x75, 0⟩,
   ⟨0x7A, .resume, 0x7A, 0⟩, ⟨0xB9, .refuse, 0x00, 0⟩, ⟨0x66, .refuse, 0x00, 0⟩, ⟨0x99, .refuse, 0x00, 0⟩]

/-- The presented ID while no layout has been provisioned (01 R9). -/
def defaultId : Bytes := [0x4A, 0x56, 0x18]

/-- The capacity in bytes. -/
def Capacity.bytes : Capacity → Nat
  | .mib16 => 16777216
  | .mib32 => 33554432

/-- The base of the private area, the top 256 KiB (06 section 6.2). -/
def Capacity.privateBase (c : Capacity) : Nat := c.bytes - 262144

/-- The first presented address of the control window. -/
def windowBase : Nat := 0xFFF000

/-- The first presented address of the response area. -/
def responseBase : Nat := 0xFFF800

/-! ### Reading the block -/

/-- A field whose absence is carried as all FFh bytes. -/
def optField (bs : Bytes) (off len : Nat) : Option Nat :=
  let v := field bs off len
  if v = 256 ^ len - 1 then none else some v

/-- One entry of the Opcode Class Table: SoC opcode, class, flash-side opcode, dummy bytes. -/
def OpcodeEntry.parse (bs : Bytes) : Option OpcodeEntry := do
  let cls ← OpClass.ofCode (byteAt bs 1)
  return ⟨byteAt bs 0, cls, byteAt bs 2, (byteAt bs 3).toNat⟩

/-- One region entry of 25 bytes. `none` where a coded field holds no code of its table. -/
def Region.parse (bs : Bytes) : Option Region := do
  let kind ← RegionKind.ofCode (byteAt bs 1)
  let boot ← flagOfByte (byteAt bs 2)
  let measureAt ← MeasureAt.ofCode (byteAt bs 22)
  let onMismatch ← if byteAt bs 24 = 0xFF then some none else (OnMismatch.ofCode (byteAt bs 24)).map some
  return {
    index := (byteAt bs 0).toNat
    kind := kind
    boot := boot
    parent := optField bs 3 1
    base := optField bs 4 3
    length := field bs 7 4
    physA := optField bs 11 4
    physB := optField bs 15 4
    readMask := byteAt bs 19
    programMask := byteAt bs 20
    eraseMask := byteAt bs 21
    measureAt := measureAt
    slot := optField bs 23 1
    onMismatch := onMismatch }

/-- The source of a Response Table entry (03 section 3.9): an argument where the source has one, FFh where it has none.
That a layout with any other argument byte there is refused is DESIGN CHOICE, log entry 49. -/
def Source.parse (kind arg : Byte) : Option Source :=
  match kind.toNat with
  | 0 => if arg = 0xFF then none else some (.region arg.toNat)
  | 1 => if arg = 0xFF then some .all else none
  | 2 => if arg = 0xFF then some .unmapped else none
  | 3 => if arg = 0xFF then none else some (.failures arg.toNat)
  | 4 => if arg = 0xFF then some .mismatches else none
  | 5 => if arg = 0xFF then some .fallbacks else none
  | _ => none

/-- The action of a Response Table entry, with its target where it has one (02 R22 (3)). -/
def Action.parse (act target : Byte) : Option Action :=
  match act.toNat with
  | 0 => if target = 0xFF then some .alert else none
  | 1 => if target = 0xFF then none else some (.hideRegion target.toNat)
  | 2 => if target = 0xFF then none else some (.disableSlot target.toNat)
  | 3 => if target = 0xFF then some .contain else none
  | 4 => if target = 0xFF then none else some (.eraseCredential target.toNat)
  | 5 => if target = 0xFF then some .revokeGrant else none
  | _ => none

/-- One Response Table entry of 6 bytes. -/
def ResponseEntry.parse (bs : Bytes) : Option ResponseEntry := do
  let source ← Source.parse (byteAt bs 0) (byteAt bs 1)
  let action ← Action.parse (byteAt bs 4) (byteAt bs 5)
  return ⟨source, field bs 2 2, action⟩

/-- `n` entries of `size` bytes from offset `off`, each read by `f`. -/
def parseEntries {α : Type} (f : Bytes → Option α) (size : Nat) (bs : Bytes) : Nat → Nat → Option (List α)
  | _, 0 => some []
  | off, n + 1 => do
    let x ← f (slice bs off size)
    let rest ← parseEntries f size bs (off + size) n
    return x :: rest

/-- The region count and the Response Table count a block gives. -/
def blockRegions (bs : Bytes) : Nat := (byteAt bs 19).toNat
def blockResponses (bs : Bytes) : Nat := (byteAt bs 20).toNat

/-- The form of a layout block: format 01h and the length its counts give (09 R144 (1), 12 R175 (1)). -/
def blockFormOk (bs : Bytes) : Bool :=
  decide (byteAt bs 0 = 1) && decide (bs.length = 85 + 25 * blockRegions bs + 6 * blockResponses bs)

/-- The layout a block of good form holds; `none` where a coded field holds no code of its table. -/
def Layout.parse (bs : Bytes) : Option Layout := do
  let capacity ← Capacity.ofCode (byteAt bs 1)
  let opcodes ← parseEntries OpcodeEntry.parse 4 bs 21 16
  let regions ← parseEntries Region.parse 25 bs 85 (blockRegions bs)
  let responses ← parseEntries ResponseEntry.parse 6 bs (85 + 25 * blockRegions bs) (blockResponses bs)
  return {
    block := bs
    capacity := capacity
    presentedId := slice bs 2 3
    confirmStage := (byteAt bs 5).toNat
    trialCount := (byteAt bs 6).toNat
    timeoutCode := (byteAt bs 7).toNat
    grantTime := field bs 8 2
    updateMask := byteAt bs 10
    extendMasks := slice bs 11 8
    opcodes := opcodes
    regions := regions
    responses := responses }

/-! ### Looking things up -/

/-- The region of an index. -/
def Layout.region? (l : Layout) (i : Nat) : Option Region := l.regions.find? (fun r => r.index == i)

/-- The indices of the layout's regions, increasing, that satisfy `p`. -/
def Layout.indices (l : Layout) (p : Region → Bool) : List Nat :=
  (List.range 16).filter (fun i => match l.region? i with
    | some r => p r
    | none => false)

/-- The BANKED region indices, increasing. -/
def Layout.banked (l : Layout) : List Nat := l.indices (fun r => r.kind == .banked)

/-- The set of STAGE region indices. -/
def Layout.stageSet (l : Layout) : BitVec 16 :=
  (l.indices (fun r => r.kind == .stage)).foldl addTo 0

/-- The boot-flagged region. -/
def Layout.bootRegion (l : Layout) : Option Region := l.regions.find? (fun r => r.boot)

/-- The RECOVERY region. -/
def Layout.recovery (l : Layout) : Option Region := l.regions.find? (fun r => r.kind == .recovery)

/-- The physical base of a BANKED region's bank. -/
def Region.bankBase (r : Region) : Bank → Nat
  | .a => r.physA.getD 0
  | .b => r.physB.getD 0

/-- The entry of a table that holds an opcode (01 R3). -/
def lookupOpcode (table : List OpcodeEntry) (op : Byte) : Option OpcodeEntry :=
  table.find? (fun e => e.opcode == op)

/-- The flash-side opcode of a class: that of the entry of the lowest index (02 R22 (1)). -/
def flashOpcode (table : List OpcodeEntry) (c : OpClass) : Byte :=
  match table.find? (fun e => e.cls == c) with
  | some e => e.flashOp
  | none => 0

/-! ### Validation (R21) -/

def multipleOf4k (n : Nat) : Bool := n % 4096 == 0

/-- R21 (1): each field of an entry is present or absent as its kind asks, and within its range. -/
def Region.fieldsOk (r : Region) : Bool :=
  decide (r.index ≤ 15) && decide (4096 ≤ r.length) &&
  (match r.kind with
    | .banked => r.base.isSome && r.physA.isSome && r.physB.isSome && r.parent.isNone
    | .stage => r.base.isSome && r.physA.isNone && r.physB.isNone && r.parent.isSome
    | .plain => r.base.isSome && r.physA.isSome && r.physB.isNone && r.parent.isNone
    | .recovery => r.base.isNone && r.physA.isSome && r.physB.isNone && r.parent.isNone &&
        decide (r.readMask = 0) && decide (r.programMask = 0) && decide (r.eraseMask = 0)) &&
  (match r.base with
    | some b => decide (b ≤ 0xFFEFFF)
    | none => true) &&
  (match r.measureAt with
    | .none => r.slot.isNone && r.onMismatch.isNone
    | _ => (match r.slot with
        | some n => decide (n ≤ 7)
        | none => false) && r.onMismatch.isSome)

/-- R21 (2). -/
def Region.alignedOk (r : Region) : Bool :=
  multipleOf4k r.length && multipleOf4k (r.base.getD 0) && multipleOf4k (r.physA.getD 0) &&
  multipleOf4k (r.physB.getD 0)

/-- The physical bases that R21 (3) asks to be congruent to the presented base. -/
def Layout.congruentBases (l : Layout) (r : Region) : List Nat :=
  match r.kind with
  | .banked => [r.bankBase .a, r.bankBase .b]
  | .plain => [r.physA.getD 0]
  | .stage => match (r.parent.bind l.region?) with
    | some p => [p.bankBase .a, p.bankBase .b]
    | none => []
  | .recovery => []

/-- R21 (3). -/
def Layout.congruentOk (l : Layout) (r : Region) : Bool :=
  (l.congruentBases r).all (fun b => b % 65536 == r.base.getD 0 % 65536)

/-- Two ranges `[base, base + length)` that share no address. -/
def disjointRanges (x y : Nat × Nat) : Bool := decide (x.1 + x.2 ≤ y.1) || decide (y.1 + y.2 ≤ x.1)

/-- No two ranges of a list share an address. -/
def allDisjoint : List (Nat × Nat) → Bool
  | [] => true
  | x :: rest => rest.all (disjointRanges x) && allDisjoint rest

/-- The presented ranges. -/
def Layout.presentedRanges (l : Layout) : List (Nat × Nat) :=
  l.regions.filterMap (fun r => r.base.map (fun b => (b, r.length)))

/-- The physical ranges of R21 (5). -/
def Layout.physicalRanges (l : Layout) : List (Nat × Nat) :=
  l.regions.flatMap (fun r => match r.kind with
    | .banked => [(r.bankBase .a, r.length), (r.bankBase .b, r.length)]
    | .plain | .recovery => [(r.physA.getD 0, r.length)]
    | .stage => [])

/-- R21 (6): a STAGE entry's parent. -/
def Layout.stageOk (l : Layout) (r : Region) : Bool :=
  match r.kind with
  | .stage => match r.parent.bind l.region? with
    | some p => (p.kind == .banked) && (p.length == r.length) &&
        decide ((l.regions.filter (fun q => q.kind == .stage && q.parent == r.parent)).length = 1)
    | none => false
  | _ => true

def Layout.countKind (l : Layout) (k : RegionKind) : Nat := (l.regions.filter (fun r => r.kind == k)).length

/-- R21 (8): the boot flag. -/
def Layout.bootOk (l : Layout) : Bool :=
  match l.regions.filter (fun r => r.boot) with
  | [r] => (r.kind == .banked) && (r.measureAt == .reset) &&
      (r.onMismatch == some .fallback || r.onMismatch == some .contain)
  | _ => false

/-- R21 (9). -/
def Region.measureOk (r : Region) : Bool :=
  (match r.kind with
    | .stage | .recovery => r.measureAt == .none
    | _ => true) &&
  (if r.onMismatch = some .fallback then r.kind == .banked && r.measureAt == .reset else true)

/-- The Region Table passes R21. -/
def Layout.regionsOk (l : Layout) : Bool :=
  decide (1 ≤ l.regions.length) && decide (l.regions.length ≤ 16) &&
  l.regions.all Region.fieldsOk && decide ((l.regions.map Region.index).Nodup) &&
  l.regions.all Region.alignedOk && l.regions.all l.congruentOk &&
  l.presentedRanges.all (fun x => decide (x.1 + x.2 ≤ windowBase)) && allDisjoint l.presentedRanges &&
  l.physicalRanges.all (fun x => decide (x.1 + x.2 ≤ l.capacity.privateBase)) && allDisjoint l.physicalRanges &&
  l.regions.all l.stageOk &&
  decide (1 ≤ l.countKind .banked) && decide (l.countKind .banked ≤ 4) && decide (l.countKind .stage ≤ 4) &&
  decide (l.countKind .recovery = 1) &&
  l.bootOk && l.regions.all Region.measureOk

/-! ### Validation (R22) -/

/-- R22 (1). -/
def Layout.opcodesOk (l : Layout) : Bool :=
  l.opcodes.all (fun e => decide (e.dummy ≤ 4)) &&
  decide ((l.opcodes.map OpcodeEntry.opcode).Nodup) &&
  [OpClass.read, .program, .erase4k, .erase64k, .writeEnable, .statusRead, .suspend, .resume].all
    (fun c => l.opcodes.any (fun e => e.cls == c))

/-- R22 (2). -/
def Layout.parametersOk (l : Layout) : Bool :=
  decide (1 ≤ l.confirmStage) && decide (l.confirmStage ≤ 7) &&
  decide (1 ≤ l.trialCount) && decide (l.trialCount ≤ 7) &&
  decide (l.timeoutCode ≤ 7) && decide (30 ≤ l.grantTime) && decide (l.grantTime ≤ 3600)

/-- R22 (3): one Response Table entry. -/
def Layout.responseOk (l : Layout) (e : ResponseEntry) : Bool :=
  decide (1 ≤ e.threshold) && decide (e.threshold ≤ 65535) &&
  (match e.source with
    | .region r => (l.region? r).isSome
    | .failures id => decide (id ≤ 31)
    | _ => true) &&
  (match e.action with
    | .hideRegion r => (l.region? r).isSome
    | .disableSlot n => decide (2 ≤ n) && decide (n ≤ 15)
    | .eraseCredential id => decide (id ≤ 31)
    | _ => true)

/-- The layout passes R21 and R22 (1) ~ (3). -/
def Layout.valid (l : Layout) : Bool :=
  l.regionsOk && l.opcodesOk && l.parametersOk &&
  decide (l.responses.length ≤ 8) && l.responses.all l.responseOk

/-- The layout holds the same BANKED region indices as another, each with the same presented base,
length and physical bases (09 R144 (8), 12 R175 (2)). -/
def Layout.sameBanked (l m : Layout) : Bool :=
  l.banked == m.banked &&
  l.banked.all (fun i => match l.region? i, m.region? i with
    | some r, some q => r.base == q.base && r.length == q.length && r.physA == q.physA && r.physB == q.physB
    | _, _ => false)

end Sys2Proof.Machine
end

