-- ==== Sys2Proof/Machine/Sha256.lean ====
section
/-! DEFINITION. SHA-256 and HMAC-SHA-256. The manual uses both "as their names say" and leaves their
construction outside it (00 section 4): it is taken from FIPS 180-4 and FIPS 198-1. PRESUMED, log
entry 9. The definitions are irreducible: a claim treats them as functions of their input. -/

namespace Sys2Proof.Machine

/-- The round constants of SHA-256. -/
def shaConstants : List Word32 :=
  [0x428a2f98, 0x71374491, 0xb5c0fbcf, 0xe9b5dba5, 0x3956c25b, 0x59f111f1, 0x923f82a4, 0xab1c5ed5] ++
  [0xd807aa98, 0x12835b01, 0x243185be, 0x550c7dc3, 0x72be5d74, 0x80deb1fe, 0x9bdc06a7, 0xc19bf174] ++
  [0xe49b69c1, 0xefbe4786, 0x0fc19dc6, 0x240ca1cc, 0x2de92c6f, 0x4a7484aa, 0x5cb0a9dc, 0x76f988da] ++
  [0x983e5152, 0xa831c66d, 0xb00327c8, 0xbf597fc7, 0xc6e00bf3, 0xd5a79147, 0x06ca6351, 0x14292967] ++
  [0x27b70a85, 0x2e1b2138, 0x4d2c6dfc, 0x53380d13, 0x650a7354, 0x766a0abb, 0x81c2c92e, 0x92722c85] ++
  [0xa2bfe8a1, 0xa81a664b, 0xc24b8b70, 0xc76c51a3, 0xd192e819, 0xd6990624, 0xf40e3585, 0x106aa070] ++
  [0x19a4c116, 0x1e376c08, 0x2748774c, 0x34b0bcb5, 0x391c0cb3, 0x4ed8aa4a, 0x5b9cca4f, 0x682e6ff3] ++
  [0x748f82ee, 0x78a5636f, 0x84c87814, 0x8cc70208, 0x90befffa, 0xa4506ceb, 0xbef9a3f7, 0xc67178f2]

/-- The eight working words of SHA-256. -/
structure ShaWords where
  a : Word32
  b : Word32
  c : Word32
  d : Word32
  e : Word32
  f : Word32
  g : Word32
  h : Word32
  deriving DecidableEq, Repr

def shaInitial : ShaWords :=
  ⟨0x6a09e667, 0xbb67ae85, 0x3c6ef372, 0xa54ff53a, 0x510e527f, 0x9b05688c, 0x1f83d9ab, 0x5be0cd19⟩

/-- One round: the next working words from the round's constant and schedule word. -/
def shaRound (v : ShaWords) (k w : Word32) : ShaWords :=
  let s1 := v.e.rotateRight 6 ^^^ v.e.rotateRight 11 ^^^ v.e.rotateRight 25
  let ch := (v.e &&& v.f) ^^^ (~~~v.e &&& v.g)
  let t1 := v.h + s1 + ch + k + w
  let s0 := v.a.rotateRight 2 ^^^ v.a.rotateRight 13 ^^^ v.a.rotateRight 22
  let maj := (v.a &&& v.b) ^^^ (v.a &&& v.c) ^^^ (v.b &&& v.c)
  ⟨t1 + (s0 + maj), v.a, v.b, v.c, v.d + t1, v.e, v.f, v.g⟩

/-- The schedule's window of sixteen words, moved on by one. -/
def shaSchedule (w : List Word32) : List Word32 :=
  let x := w.getD 1 0
  let y := w.getD 14 0
  let s0 := x.rotateRight 7 ^^^ x.rotateRight 18 ^^^ (x >>> 3)
  let s1 := y.rotateRight 17 ^^^ y.rotateRight 19 ^^^ (y >>> 10)
  w.tail ++ [w.headD 0 + s0 + w.getD 9 0 + s1]

/-- The block's words: sixteen big-endian words. -/
def shaWords : Nat → Bytes → List Word32
  | 0, _ => []
  | n + 1, bs => BitVec.ofNat 32 (beNat (bs.take 4)) :: shaWords n (bs.drop 4)

/-- The compression of one 64-byte block into the chaining value. -/
def shaCompress (h : ShaWords) (block : Bytes) : ShaWords :=
  let r := shaConstants.foldl
    (fun (vw : ShaWords × List Word32) k => (shaRound vw.1 k (vw.2.headD 0), shaSchedule vw.2))
    (h, shaWords 16 block)
  let v := r.1
  ⟨h.a + v.a, h.b + v.b, h.c + v.c, h.d + v.d, h.e + v.e, h.f + v.f, h.g + v.g, h.h + v.h⟩

/-- The chaining value after `n` blocks of `bs`. -/
def shaBlocks : Nat → ShaWords → Bytes → ShaWords
  | 0, h, _ => h
  | n + 1, h, bs => shaBlocks n (shaCompress h (bs.take 64)) (bs.drop 64)

/-- The message with its padding: 80h, zeros and the length in bits, to a whole number of blocks. -/
def shaPad (msg : Bytes) : Bytes :=
  msg ++ [0x80] ++ List.replicate ((119 - msg.length % 64) % 64) 0 ++ beBytes 8 (8 * msg.length)

/-- SHA-256 of a byte string. -/
@[irreducible] def sha256 (msg : Bytes) : Digest :=
  let p := shaPad msg
  let v := shaBlocks (p.length / 64) shaInitial p
  BitVec.ofNat 256 (beNat ([v.a, v.b, v.c, v.d, v.e, v.f, v.g, v.h].flatMap (fun w => beBytes 4 w.toNat)))

/-- HMAC-SHA-256 of a message under a key of at most 64 bytes; every key of the manual is 32 bytes. -/
@[irreducible] def hmac (key : Bytes) (msg : Bytes) : Digest :=
  let k := key ++ List.replicate (64 - key.length) 0
  sha256 (k.map (· ^^^ 0x5c) ++ digestBytes (sha256 (k.map (· ^^^ 0x36) ++ msg)))

/-- HMAC-SHA-256 under a 32-byte key. -/
def hmacKey (key : Digest) (msg : Bytes) : Digest := hmac (digestBytes key) msg

end Sys2Proof.Machine
end

