-- ==== Sys2Proof/Machine/P256.lean ====
section
/-! DEFINITION. ECDSA over the P-256 curve: key generation, signing, verification. The manual uses it
"as its name says" and leaves its construction outside (00 section 4): the curve and the scheme are
taken from FIPS 186-4. PRESUMED, log entry 9. Signatures are `r‖s`, public keys `X‖Y`. -/

namespace Sys2Proof.Machine

def p256Prime : Nat := 0xffffffff00000001000000000000000000000000ffffffffffffffffffffffff
def p256B : Nat := 0x5ac635d8aa3a93e7b3ebbd55769886bc651d06b0cc53b0f63bce3c3e27d2604b

/-- The order of the P-256 curve (07 R102, R107). -/
def p256Order : Nat := 0xffffffff00000000ffffffffffffffffbce6faada7179e84f3b9cac2fc632551

/-- A point of the curve; `none` is the point at infinity. -/
abbrev CurvePoint := Option (Nat × Nat)

def p256Base : CurvePoint :=
  some (0x6b17d1f2e12c4247f8bce6e563a440f277037d812deb33a0f4a13945d898c296,
        0x4fe342e2fe1a7f9b8ee7eb4a7c0f9e162bce33576b315ececbb6406837bf51f5)

/-- `b ^ e` modulo `m` over the low `n` bits of `e`. -/
def powMod (m : Nat) : Nat → Nat → Nat → Nat
  | 0, _, _ => 1
  | n + 1, b, e =>
    let r := powMod m n (b * b % m) (e / 2)
    if e % 2 = 1 then b * r % m else r

/-- The inverse modulo a prime of at most 256 bits. -/
def invMod (m a : Nat) : Nat := powMod m 256 a (m - 2)

/-- The sum of two points. -/
def pointAdd : CurvePoint → CurvePoint → CurvePoint
  | none, q => q
  | p, none => p
  | some (x1, y1), some (x2, y2) =>
    let m := p256Prime
    if x1 = x2 then
      if (y1 + y2) % m = 0 then none
      else
        let l := (3 * x1 * x1 + (m - 3)) * invMod m (2 * y1 % m) % m
        let x := (l * l + 2 * (m - x1)) % m
        some (x, (l * (x1 + (m - x)) + (m - y1)) % m)
    else
      let l := (y2 + (m - y1)) * invMod m ((x2 + (m - x1)) % m) % m
      let x := (l * l + (m - x1) + (m - x2)) % m
      some (x, (l * (x1 + (m - x)) + (m - y1)) % m)

/-- `k` times a point, over the low `n` bits of `k`. -/
def pointMul : Nat → Nat → CurvePoint → CurvePoint
  | 0, _, _ => none
  | n + 1, k, p =>
    let r := pointMul n (k / 2) (pointAdd p p)
    if k % 2 = 1 then pointAdd p r else r

/-- Is `X‖Y` a point on the P-256 curve (12 R176)? -/
@[irreducible] def onCurve (key : Pair) : Bool :=
  let x := key.toNat / 2 ^ 256
  let y := key.toNat % 2 ^ 256
  decide (x < p256Prime) && decide (y < p256Prime) &&
    decide (y * y % p256Prime = (x * x * x + (p256Prime - 3) * x + p256B) % p256Prime)

/-- The public key `X‖Y` of a private scalar. -/
@[irreducible] def publicKey (scalar : Digest) : Pair :=
  match pointMul 256 scalar.toNat p256Base with
  | some (x, y) => BitVec.ofNat 512 (x * 2 ^ 256 + y)
  | none => 0

/-- A scalar in the range 1 up to the curve order less 1, from a random value (07 R107). -/
def scalarOf (r : Digest) : Digest := BitVec.ofNat 256 (1 + r.toNat % (p256Order - 1))

/-- One ECDSA signature of a digest with a per-signature value `k`; `none` where the scheme asks for
another `k`. -/
def signWith (scalar digest k : Digest) : Option Pair :=
  match pointMul 256 k.toNat p256Base with
  | none => none
  | some (x, _) =>
    let r := x % p256Order
    let s := invMod p256Order k.toNat * (digest.toNat + r * scalar.toNat) % p256Order
    if r = 0 ∨ s = 0 then none else some (BitVec.ofNat 512 (r * 2 ^ 256 + s))

/-- A signature over a digest, drawing per-signature values from the random generator at `fresh` and
onward until one serves. -/
def signFrom (scalar digest : Digest) : Nat → Nat → Pair
  | 0, _ => Config.signatureWithoutNonce scalar digest
  | n + 1, fresh =>
    match signWith scalar digest (scalarOf (Config.random fresh)) with
    | some sig => sig
    | none => signFrom scalar digest n (fresh + 1)

/-- How many values of the random generator are set aside for one signature. -/
def signDraws : Nat := 8

/-- The signature of a digest by a private scalar with fresh random values from `fresh` (07 R110). -/
@[irreducible] def ecdsaSign (scalar digest : Digest) (fresh : Nat) : Pair :=
  signFrom scalar digest signDraws fresh

/-- Does a signature `r‖s` over a digest verify under a public key `X‖Y`? -/
@[irreducible] def ecdsaVerify (key : Pair) (digest : Digest) (sig : Pair) : Bool :=
  let n := p256Order
  let r := sig.toNat / 2 ^ 256
  let s := sig.toNat % 2 ^ 256
  if !onCurve key || decide (r = 0) || decide (n ≤ r) || decide (s = 0) || decide (n ≤ s) then false
  else
    let w := invMod n s
    let p := some (key.toNat / 2 ^ 256, key.toNat % 2 ^ 256)
    match pointAdd (pointMul 256 (digest.toNat * w % n) p256Base) (pointMul 256 (r * w % n) p) with
    | none => false
    | some (x, _) => decide (x % n = r)

/-- The identity scalar (07 R102): HMAC, keyed with the device secret, of "IDENTITY" and a one-byte
counter from 00h, for the first counter that gives a number from 1 to the curve order less 1. -/
def identityScalar (secret : Digest) : Nat → Nat → Digest
  | 0, _ => Config.identityWithoutScalar
  | n + 1, counter =>
    let d := hmacKey secret ([0x49, 0x44, 0x45, 0x4e, 0x54, 0x49, 0x54, 0x59] ++ [BitVec.ofNat 8 counter])
    if d.toNat = 0 ∨ p256Order ≤ d.toNat then identityScalar secret n (counter + 1) else d

end Sys2Proof.Machine
end

