-- ==== Sys2Proof/Machine/Initial.lean ====
section
/-! DEFINITION. The values each block's state takes at power-on (01 R17, 02 R41, 03 R48, 04 R56, 05 R85,
06 R101, 07 R116, 08 R138, 09 R158, 11 R172), and anchor memory as a part leaves its maker (06 R86). -/

namespace Sys2Proof.Machine

/-- 01 R17. -/
def Port.initial : Port := { decode := none, wel := false, waitHigh := false, sdout := [] }

/-- The length of a read chunk of the scan (06 section 6.8). -/
def chunkLength : Nat := 256

/-- 01 R17; the Journal Store's first scan read is outstanding (04 R57, 12 R174). -/
def Arbiter.initial : Arbiter :=
  { grant := .free, suspended := none, suspendDone := false, deferred := none,
    journal := some (.read Capacity.mib16.privateBase chunkLength), measure := none, update := none, bus := [] }

/-- 02 R41. -/
def Checker.initial (lc : LifeCycle) : Checker :=
  { layout := none, source := .current, openMapping := lc == .factory, freezeSet := 0, hideSet := 0,
    ring := [], sequence := 0, regionCounters := Vector.replicate 16 0, unmappedCounter := 0, allCounter := 0 }

/-- 03 R48. -/
def Window.initial : Window :=
  { engine := .idle, request := [], tag := 0, result := 0xFF, body := [], overrun := false,
    command := none, pendingEvents := 0, mask := 0xFF }

/-- 04 R54. -/
def TimeBase.initial : TimeBase := { uptime := 0, clock := 0 }

/-- 04 R56, R57: START with POWER_ON recorded and the halt count of anchor memory. -/
def ResetController.initial (halts : Word16) : ResetController :=
  { state := .start, lastCause := .powerOn, counts := (Vector.replicate 6 0).set 0 1 |>.set 5 halts,
    bootCounter := 0, hold := none, pulse := none, pulseWait := false, check := .idle }

/-- 05 R85. -/
def Measure.initial : Measure :=
  { stage := 0, slots := Vector.replicate 8 0, log := [], truncated := false, history := [],
    mismatches := 0, advance := none, current := none }

/-- The identity key of a device secret (07 R102). -/
def identityOf (secret : Digest) : Identity :=
  let k := identityScalar secret 256 0
  { scalar := k, publicKey := publicKey k }

/-- 07 R116. -/
def Keys.initial (secret : Digest) : Keys :=
  { identity := identityOf secret, authority := none, slots := Vector.replicate 16 none, disabled := 0 }

/-- 08 R137. -/
def Creds.initial : Creds := { records := Vector.replicate 32 none, grant := none }

/-- A bank record entry for an EMPTY bank: version, lengths and digests read 0 (09 R141). -/
def BankInfo.emptied (n : Nat) : BankInfo :=
  { state := .empty, version := 0, images := List.replicate n ⟨0, 0⟩ }

/-- The bank record copy with no live BANK object: R140 gives the banks, the active bank, the trial and the
digests; attempts remaining, the two flags, the last outcome and the journal floor are the model's (DESIGN
CHOICE, log entry 38). -/
def BankRecord.absent : BankRecord :=
  { active := .a, bankA := BankInfo.emptied 0, bankB := BankInfo.emptied 0, trialPending := false,
    attempts := 0, trialLayout := false, raiseFloor := false, outcome := .none, floor := 0,
    layoutDigest := 0, recoveryDigest := 0 }

/-- 09 R158. The presented bank before the first entry into CHECK, which R41 and R152 leave open, is A (DESIGN
CHOICE, log entry 4). -/
def Update.initial : Update :=
  { record := BankRecord.absent, layout := none, trialLayout := none, presented := .a, trialBoot := false,
    running := false, timer := none, session := .idle, verification := .none, fallbacks := 0 }

/-- The tag key: HMAC, keyed with the device secret, of "STORETAG" (06 R86). -/
def tagKeyOf (secret : Digest) : Digest := hmacKey secret [0x53, 0x54, 0x4f, 0x52, 0x45, 0x54, 0x41, 0x47]

/-- The storage key: HMAC, keyed with the device secret, of "STOREKEY" (06 R86). -/
def storageKeyOf (secret : Digest) : Digest := hmacKey secret [0x53, 0x54, 0x4f, 0x52, 0x45, 0x4b, 0x45, 0x59]

/-- 06 R101: SCANNING, at the first byte of the 16 MiB area (12 R174). Until the scan finds them there is no
active half, the append point is 0, the index empty and the owner epoch 1 (DESIGN CHOICE, log entry 4). -/
def Journal.initial (secret : Digest) : Journal :=
  { state := .scanning, active := none, appendPoint := 0, index := [], epoch := 1,
    tagKey := tagKeyOf secret, storageKey := storageKeyOf secret, queue := [], held := [], job := none,
    scan := some (.probing .mib16 [] [] 0), provisioning := none }

/-- 11 R172. -/
def Response.initial : Response :=
  { causes := 0, table := [], fired := 0, armed := false, offered := false, eraseList := [] }

/-- Anchor memory as the part leaves its maker (06 R86). -/
def Anchor.factory (secret : Digest) : Anchor :=
  { lifeCycle := .factory, deviceSecret := secret, authorityHash := 0, floor := 0, generation := 0,
    haltCount := 0, writes := [] }

end Sys2Proof.Machine
end

