-- ==== Sys2Proof/Machine/State.lean ====
section
/-! DEFINITION. The state of the part, block by block, its faults and refusals, and the state after
reset. -/

namespace Sys2Proof.Machine

/-- The state: plain data. -/
structure State where
  /-- The commands that wait, first in first out. -/
  pending : List Instr
  /-- The supply is up. -/
  powered : Bool
  lines : Lines
  port : Port
  arbiter : Arbiter
  flash : Memory
  checker : Checker
  window : Window
  time : TimeBase
  rst : ResetController
  measure : Measure
  anchor : Anchor
  journal : Journal
  keys : Keys
  signature : Option SignatureJob
  /-- MODEL's own: the random values drawn so far (log entry 3). -/
  fresh : Nat
  creds : Creds
  update : Update
  response : Response
  deriving DecidableEq, Repr

/-- The part stops nowhere: a command refused is a result code (R49), a transaction refused is a
violation (R36), and HALT is a state in which the part goes on (R63). There is no fault. Safe. -/
inductive Fault where
  deriving DecidableEq, Repr

/-- Why a command has no meaning. -/
inductive Refusal where
  /-- A command whose meaning the model has not reached: raised by `exec`'s arm of that command alone,
  naming its row. Safe: the model stops where the hardware goes on. -/
  | notModelled (mnemonic : String)
  deriving DecidableEq, Repr

/-- Right after power-on of a part as it leaves its maker (06 R86, 12): START, SOC_RST asserted, the scan
at its first read, the lines deasserted, no command waiting. -/
def State.reset : State :=
  { pending := []
    powered := true
    lines := { ssel := false, rstReq := false, ownerClr := false }
    port := Port.initial
    arbiter := Arbiter.initial
    flash := []
    checker := Checker.initial .factory
    window := Window.initial
    time := TimeBase.initial
    rst := ResetController.initial 0
    measure := Measure.initial
    anchor := Anchor.factory Config.deviceSecret
    journal := Journal.initial Config.deviceSecret
    keys := Keys.initial Config.deviceSecret
    signature := none
    fresh := 0
    creds := Creds.initial
    update := Update.initial
    response := Response.initial }

end Sys2Proof.Machine
end

