-- ==== Sys2Proof/Machine/Codec.lean ====
section
/-! DEFINITION. The bytes of the journal: entries with their encryption and tags (06 R88), and the payload
of each object kind (06 R88's table). -/

namespace Sys2Proof.Machine

/-! ### Entries -/

/-- The bytes in one half of the private area. -/
def halfSize : Nat := 131072

/-- The offset of a half in the private area (06 section 6.2). -/
def Half.offset : Half → Nat
  | .zero => 0
  | .one => halfSize

def Half.other : Half → Half
  | .zero => .one
  | .one => .zero

/-- A number rounded up to a multiple of 16. -/
def roundUp16 (n : Nat) : Nat := (n + 15) / 16 * 16

/-- The length of an entry with a payload of `n` bytes. -/
def entryLength (n : Nat) : Nat := 32 + roundUp16 n

/-- The largest payload. -/
def maxPayload : Nat := 992

/-- The key stream for a payload of `n` bytes (06 R88): blocks from block number `b` on. -/
def keyStream (storageKey : Digest) (kind : ObjectKind) (id : Nat) (gen : Word32) : Nat → Nat → Bytes
  | 0, _ => []
  | n + 1, b =>
    digestBytes (hmacKey storageKey ([kind.code, BitVec.ofNat 8 id] ++ bytes32 gen ++ bytes1 b)) ++
      keyStream storageKey kind id gen n (b + 1)

/-- Encryption of a secret payload under the storage key; decryption is the same operation (06 R88). -/
def crypt (storageKey : Digest) (kind : ObjectKind) (id : Nat) (gen : Word32) (payload : Bytes) : Bytes :=
  List.zipWith (· ^^^ ·) payload (keyStream storageKey kind id gen ((payload.length + 31) / 32) 0)

/-- The tag over the bytes of an entry before it: the first 16 bytes of their HMAC under the tag key. -/
def entryTag (tagKey : Digest) (body : Bytes) : Bytes := (digestBytes (hmacKey tagKey body)).take 16

/-- The bytes of an entry before its tag. -/
def entryBody (storageKey : Digest) (e : StoreEntry) (gen : Word32) : Bytes :=
  [e.kind.code, BitVec.ofNat 8 e.id] ++ bytes32 gen ++ bytes32 e.epoch ++ beBytes 2 e.payload.length ++
    [flagByte e.secret, 0, 0, 0] ++
    pad16 (if e.secret then crypt storageKey e.kind e.id gen e.payload else e.payload)

/-- A whole entry (06 R88). -/
def encodeEntry (tagKey storageKey : Digest) (e : StoreEntry) (gen : Word32) : Bytes :=
  let body := entryBody storageKey e gen
  body ++ entryTag tagKey body

/-- Is the tag of these entry bytes correct? A tag of sixteen 00h or sixteen FFh bytes never is (06 R88). -/
def tagCorrect (tagKey : Digest) (bs : Bytes) : Bool :=
  let stored := bs.drop (bs.length - 16)
  decide (stored = entryTag tagKey (bs.take (bs.length - 16))) &&
  decide (stored ≠ List.replicate 16 0) && decide (stored ≠ List.replicate 16 0xFF)

/-- An entry as its bytes give it. -/
structure FoundEntry where
  kind : ObjectKind
  id : Nat
  generation : Word32
  epoch : Word32
  secret : Bool
  payload : Bytes
  offset : Nat
  length : Nat
  deriving DecidableEq, Repr

/-- The entry that whole entry bytes at an offset hold, decrypted; `none` where the tag is incorrect or
the kind is no kind of R88. -/
def decodeEntry (tagKey storageKey : Digest) (offset : Nat) (bs : Bytes) : Option FoundEntry := do
  let kind ← ObjectKind.ofCode (byteAt bs 0)
  let n := field bs 10 2
  let id := (byteAt bs 1).toNat
  let gen := word32At bs 2
  let secret := byteAt bs 12 != 0
  let raw := slice bs 16 n
  if tagCorrect tagKey bs then
    return {
      kind := kind, id := id, generation := gen, epoch := word32At bs 6, secret := secret
      payload := if secret then crypt storageKey kind id gen raw else raw
      offset := offset, length := bs.length }
  else none

/-- The entry that begins at an offset of a half with a correct tag and a length that stays within the
half (06 R96, R97). -/
def entryAt (tagKey storageKey : Digest) (half : Memory) (offset : Nat) : Option FoundEntry :=
  let n := field (half.readBytes (offset + 10) 2) 0 2
  if decide (n ≤ maxPayload) && decide (offset + entryLength n ≤ halfSize) &&
      (ObjectKind.ofCode (half.read offset)).isSome then
    decodeEntry tagKey storageKey offset (half.readBytes offset (entryLength n))
  else none

/-! ### Payloads -/

/-- The images of a bank as `n` length and digest pairs. -/
def imageBytes (images : List Image) (n : Nat) : Bytes :=
  (List.range n).flatMap (fun k =>
    let i := images.getD k ⟨0, 0⟩
    beBytes 4 i.length ++ digestBytes i.digest)

def BankInfo.bytes (b : BankInfo) (n : Nat) : Bytes :=
  [b.state.code] ++ bytes32 b.version ++ imageBytes b.images n

/-- The number T of BANKED regions a bank record holds values for. -/
def BankRecord.count (r : BankRecord) : Nat := max r.bankA.images.length r.bankB.images.length

/-- The payload of BANK. -/
def BankRecord.payload (r : BankRecord) : Bytes :=
  let n := r.count
  bytes1 n ++ [r.active.code] ++ r.bankA.bytes n ++ r.bankB.bytes n ++
    [flagByte r.trialPending, BitVec.ofNat 8 r.attempts,
     flagByte r.trialLayout ||| (flagByte r.raiseFloor <<< 1), r.outcome.code] ++
    bytes32 r.floor ++ digestBytes r.layoutDigest ++ digestBytes r.recoveryDigest

/-- `n` image length and digest pairs from an offset. -/
def imagesAt (bs : Bytes) (off n : Nat) : List Image :=
  (List.range n).map (fun k => ⟨field bs (off + 36 * k) 4, digestAt bs (off + 36 * k + 4)⟩)

/-- One bank of `n` images from an offset. -/
def bankInfoAt (bs : Bytes) (off n : Nat) : Option BankInfo := do
  let st ← BankState.ofCode (byteAt bs off)
  return { state := st, version := word32At bs (off + 1), images := imagesAt bs (off + 5) n }

/-- The bank record of a BANK payload. -/
def BankRecord.parse (bs : Bytes) : Option BankRecord := do
  let n := (byteAt bs 0).toNat
  let active ← Bank.ofCode (byteAt bs 1)
  let bankA ← bankInfoAt bs 2 n
  let bankB ← bankInfoAt bs (7 + 36 * n) n
  let off := 12 + 72 * n
  let pending ← flagOfByte (byteAt bs off)
  let outcome ← TrialOutcome.ofCode (byteAt bs (off + 3))
  if bs.length = 84 + 72 * n then
    return {
      active := active, bankA := bankA, bankB := bankB, trialPending := pending
      attempts := (byteAt bs (off + 1)).toNat
      trialLayout := (byteAt bs (off + 2)).getLsbD 0
      raiseFloor := (byteAt bs (off + 2)).getLsbD 1
      outcome := outcome, floor := word32At bs (off + 4)
      layoutDigest := digestAt bs (off + 8), recoveryDigest := digestAt bs (off + 40) }
  else none

/-- The flags byte of a key: bit 0 needs-grant, bit 1 contained-ok (07 R107). -/
def KeyRecord.flags (k : KeyRecord) : Byte := flagByte k.needsGrant ||| (flagByte k.containedOk <<< 1)

/-- The bind slot byte of a key, FFh for absent. -/
def KeyUsage.bindByte : KeyUsage → Byte
  | .sign _ => 0xFF
  | .derive b => BitVec.ofNat 8 (b.getD 255)

/-- The payload of KEY(n), n = 2 ~ 15. -/
def KeyRecord.payload (k : KeyRecord) : Bytes :=
  [k.cls.code, k.usage.code, k.stageMask, k.flags, k.usage.bindByte] ++ digestBytes k.secret ++
    (match k.usage with
      | .sign pub => pairBytes pub
      | .derive _ => [])

/-- The usage that the usage and bind bytes give: a SIGN key has no bind slot (07 R104, R107). -/
def keyUsageOf (usage bind : Byte) (pub : Pair) : Option KeyUsage :=
  if usage = 0 then (if bind = 0xFF then some (.sign pub) else none)
  else if usage = 1 then
    (if bind = 0xFF then some (.derive none)
     else if bind.toNat ≤ 7 then some (.derive (some bind.toNat)) else none)
  else none

/-- The key of a KEY(n) payload handed over with its entry's epoch; `none` for one the Key Store cannot
take (07 R104). -/
def KeyRecord.parse (bs : Bytes) (epoch : Word32) : Option KeyRecord := do
  let cls ← KeyClass.ofCode (byteAt bs 0)
  let usage ← keyUsageOf (byteAt bs 1) (byteAt bs 4) (pairAt bs 37)
  let lengthOk := match usage with
    | .sign _ => bs.length == 101
    | .derive _ => bs.length == 37
  if lengthOk then
    return {
      cls := cls, usage := usage, stageMask := byteAt bs 2
      needsGrant := (byteAt bs 3).getLsbD 0, containedOk := (byteAt bs 3).getLsbD 1
      epoch := epoch, secret := digestAt bs 5 }
  else none

/-- The kind, flags and stage mask bytes of a record (08 R122, R135). -/
def Credential.kindCode : Credential → Byte
  | .verifier _ => 0
  | .secret _ => 1

def Credential.flags : Credential → Byte
  | .verifier v => flagByte v.ownerGate
  | .secret v => flagByte v.needsGrant <<< 1

def Credential.stageMask : Credential → Byte
  | .verifier v => v.verifyMask
  | .secret v => v.releaseMask

def Credential.label : Credential → Bytes
  | .verifier v => v.label
  | .secret v => v.label

/-- The payload of CRED(n). -/
def Credential.payload (c : Credential) : Bytes :=
  [c.kindCode, c.flags, c.stageMask] ++ c.label ++
    (match c with
      | .verifier v => beBytes 16 v.salt.toNat ++ digestBytes v.verifier ++ bytes1 v.free ++ bytes1 v.delay ++
          beBytes 4 v.ceiling ++ beBytes 2 v.decay
      | .secret v => bytes1 v.value.length ++ v.value)

/-- The credential of a CRED(n) payload; `none` for one the Credential Store cannot take: a kind, flag or
length outside its range (08 R137). -/
def Credential.parse (bs : Bytes) : Option Credential :=
  if byteAt bs 0 = 0 then
    if decide (bs.length = 67) && decide ((byteAt bs 1).toNat ≤ 1) then
      some (.verifier {
        ownerGate := (byteAt bs 1).getLsbD 0, verifyMask := byteAt bs 2, label := slice bs 3 8
        salt := BitVec.ofNat 128 (field bs 11 16), verifier := digestAt bs 27
        free := (byteAt bs 59).toNat, delay := (byteAt bs 60).toNat
        ceiling := field bs 61 4, decay := field bs 65 2 })
    else none
  else if byteAt bs 0 = 1 then
    let n := (byteAt bs 11).toNat
    if decide (bs.length = 12 + n) && decide (1 ≤ n) && decide (n ≤ 64) &&
        (byteAt bs 1 == 0 || byteAt bs 1 == 2) then
      some (.secret {
        needsGrant := (byteAt bs 1).getLsbD 1, releaseMask := byteAt bs 2, label := slice bs 3 8
        value := slice bs 12 n })
    else none
  else none

end Sys2Proof.Machine
end

