-- ==== Sys2Proof/Machine/Flags.lean ====
section
/-! DEFINITION. The indications and output lines the part computes from its state: busy indication,
status byte, containment latch, ALERT, SOC_RST, ownership, trial state, and the remaining time of timers. -/

namespace Sys2Proof.Machine

/-- The busy indication: a forwarded SoC write is in progress or one is deferred (01 R8). -/
def Arbiter.busy (a : Arbiter) : Bool :=
  (match a.grant with
    | .socWrite _ => true
    | _ => false) || a.deferred.isSome

/-- The status byte: bit 0 busy, bit 1 WEL, bits 2 ~ 7 zero (01 R8). -/
def State.statusByte (s : State) : Byte := flagByte s.arbiter.busy ||| (flagByte s.port.wel <<< 1)

/-- The containment latch: set exactly when the cause set is not empty (11 R165). -/
def Response.latch (r : Response) : Bool := r.causes != 0

def State.contained (s : State) : Bool := s.response.latch

/-- ALERT is asserted while a kind is both pending and in the mask (03 R51). -/
def Window.alert (w : Window) : Bool := (w.pendingEvents &&& w.mask) != 0

/-- SOC_RST is asserted in every state but RUN (04 R55). -/
def State.socRst (s : State) : Bool := s.rst.state != .run

/-- The 16-bit pending-event summary (03 section 3.9). -/
def Window.summary (w : Window) : Word16 := w.pendingEvents.setWidth 16

/-- The record under a credential id. -/
def Creds.get (c : Creds) (id : Nat) : Option CredRecord := (c.records[id]?).join

/-- The state with the record under an id set or removed. -/
def Creds.put (c : Creds) (id : Nat) (r : Option CredRecord) : Creds :=
  { c with records := c.records.setIfInBounds id r }

/-- A VERIFIER with the owner-gate flag. -/
def Credential.isOwnerGate : Credential → Bool
  | .verifier v => v.ownerGate
  | .secret _ => false

/-- CLAIMED exactly when an owner-gate VERIFIER of the current owner epoch exists (08 R118). -/
def State.claimed (s : State) : Bool :=
  s.creds.records.toList.any (fun r => match r with
    | some c => c.content.isOwnerGate && c.epoch == s.journal.epoch
    | none => false)

/-- The owner grant is held (08 R119). -/
def State.granted (s : State) : Bool := s.creds.grant.isSome

/-- The trial state (09 R155): 00h NONE, 01h PENDING, 02h RUNNING. -/
def State.trialCode (s : State) : Byte :=
  if s.update.running then 2 else if s.update.record.trialPending then 1 else 0

/-! ### Timers (04 R54) -/

/-- The time of a timer has passed. -/
def Timer.due (t : Timer) (clock : Nat) : Bool := decide (t.start + t.span ≤ clock)

/-- The unexpired part of a running timer, rounded up to a whole second; a timer whose time has passed
and whose expiry has not been taken reports 1 (08 R125). -/
def Timer.remaining (t : Timer) (clock : Nat) : Nat := max 1 ((t.start + t.span - clock + 999) / 1000)

/-- What is reported for a timer: 0 for one that is stopped or expired. -/
def remainingSeconds (t : Option Timer) (clock : Nat) : Nat :=
  match t with
  | some t => t.remaining clock
  | none => 0

/-- A timer running from now for a span of milliseconds. -/
def State.timer (s : State) (span : Nat) : Timer := { start := s.time.clock, span := span }

/-- A timer of whole seconds. -/
def State.seconds (s : State) (n : Nat) : Timer := s.timer (1000 * n)

/-! ### Tables in force -/

/-- The Opcode Class Table in force (01 R3): the default table while no layout is in force. -/
def State.opcodes (s : State) : List OpcodeEntry :=
  match s.checker.layout with
  | some l => l.opcodes
  | none => defaultOpcodes

/-- The flash-side opcode of a class in the table in force. -/
def State.flashOp (s : State) (c : OpClass) : Byte := flashOpcode s.opcodes c

/-- The presented ID in force (01 R9). -/
def State.presentedId (s : State) : Bytes :=
  match s.checker.layout with
  | some l => l.presentedId
  | none => defaultId

/-- The life cycle is FIELD. -/
def State.isField (s : State) : Bool := s.anchor.lifeCycle == .field

/-- The grant time of the layout in force. -/
def State.grantTime (s : State) : Nat :=
  match s.checker.layout with
  | some l => l.grantTime
  | none => 0

/-- Bit s of a stage mask, for the current stage. -/
def State.stageIn (s : State) (mask : Byte) : Bool := inSet mask s.measure.stage.toNat

end Sys2Proof.Machine
end

