-- ==== Sys2Proof/Machine/Ops.lean ====
section
/-! DEFINITION. The shared operations: events, containment and the owner grant, the flash's operations,
the Flash Port Arbiter, command completion, store requests, the Response Unit's offers, violations. Each
leaves the fields of the blocks it does not name as they are. -/

namespace Sys2Proof.Machine

/-! ### Events, command completion, containment -/

/-- The pending event set with a kind added (03 R50). -/
def Window.raise (w : Window) (e : Event) : Window := { w with pendingEvents := addTo w.pendingEvents e.bit }

/-- A block raises an event. -/
def State.raise (s : State) (e : Event) : State := { s with window := s.window.raise e }

/-- A command completes (03 R47): body, result, DONE; DONE is raised unless the command is EVENTS. -/
def Window.complete (w : Window) (r : Result) (body : Bytes) : Window :=
  let isEvents : Bool := match w.command with
    | some c => c.command == .events
    | none => false
  let w' := { w with engine := .done, result := r.code, body := body, command := none }
  if isEvents then w' else w'.raise .done

/-- An owning block hands its result and body. -/
def State.finish (s : State) (r : Result) (body : Bytes) : State :=
  { s with window := s.window.complete r body }

/-- A command refused by one of its checks: its result, nothing else changed (03 R49). The body is empty; where no
rule gives the body of a refusal or of a STORE_FAULT, that is DESIGN CHOICE, log entry 42. -/
def State.refuse (s : State) (r : Result) : State := s.finish r []

/-- The owner takes the command and waits (03 R47). -/
def State.wait (s : State) : State :=
  { s with window := { s.window with command := s.window.command.map (fun c => { c with taken := true }) } }

/-- The owner grant is cleared (08 R120). -/
def State.clearGrant (s : State) : State := { s with creds := { s.creds with grant := none } }

/-- The cause set with a cause added. -/
def Response.addCause (r : Response) (c : ContainCause) : Response := { r with causes := addTo r.causes c.bit }

/-- A block asks for containment with a cause (11 R165): a cause already in the set changes nothing;
otherwise it joins and CONTAIN is raised, and where the latch was clear the owner grant is cleared. -/
def State.contain (s : State) (c : ContainCause) : State :=
  { s with
    response := s.response.addCause c
    creds := if s.response.latch then s.creds else { s.creds with grant := none }
    window := if inSet s.response.causes c.bit then s.window else s.window.raise .contain }

/-! ### The flash -/

/-- The page of an address. -/
def pageBase (a : Nat) : Nat := a / 256 * 256

/-- The addresses a flash operation changes. -/
def FlashOp.touches (op : FlashOp) (a : Nat) : Bool :=
  match op with
  | .read _ _ => false
  | .program base data => decide (pageBase a = pageBase base) && decide ((a + 256 - base % 256) % 256 < data.length)
  | .erase4k base => decide (a / 4096 = base / 4096)
  | .erase64k base => decide (a / 65536 = base / 65536)

/-- The flash after a program of bytes from position `k` of the page on, wrapping within the page: each
byte clears bits only (09 R146). -/
def programBytes (page : Nat) : Memory → Nat → Bytes → Memory
  | m, _, [] => m
  | m, k, v :: vs =>
    let a := page + k % 256
    programBytes page (m.write a (m.read a &&& v)) (k + 1) vs

/-- The flash after an operation that completed (01 R11). -/
def FlashOp.apply (op : FlashOp) (m : Memory) : Memory :=
  match op with
  | .read _ _ => m
  | .program base data => programBytes (pageBase base) m (base % 256) data
  | .erase4k base => m.erase (base / 4096 * 4096) 4096
  | .erase64k base => m.erase (base / 65536 * 65536) 65536

/-- The flash operation of a SoC write. -/
def SocWrite.op (w : SocWrite) : FlashOp :=
  match w.cls with
  | .erase4k => .erase4k w.address
  | .erase64k => .erase64k w.address
  | _ => .program w.address w.data

/-- The class whose table entry gives a flash operation's opcode (01 note 2 of 1.2, 06 R87). -/
def FlashOp.cls : FlashOp → OpClass
  | .read _ _ => .read
  | .program _ _ => .program
  | .erase4k _ => .erase4k
  | .erase64k _ => .erase64k

/-- The bytes sent after an operation's opcode: the 4-byte address and a program's data. -/
def FlashOp.tail : FlashOp → Bytes
  | .read a _ => beBytes 4 a
  | .program a data => beBytes 4 a ++ data
  | .erase4k a => beBytes 4 a
  | .erase64k a => beBytes 4 a

/-- The flash-side transactions of an operation with a given opcode (01 R11, R12): a read is one
transaction; a program or erase is write-enable, the operation and polling. -/
def State.operationFrames (s : State) (flashOp : Byte) (op : FlashOp) : List Bytes :=
  match op with
  | .read _ _ => [flashOp :: op.tail]
  | _ => [[s.flashOp .writeEnable], flashOp :: op.tail, [s.flashOp .statusRead]]

/-! ### Flash Port Arbiter -/

/-- The outstanding request of a requester. -/
def Arbiter.request (a : Arbiter) : Requester → Option FlashOp
  | .journal => a.journal
  | .measure => a.measure
  | .update => a.update

/-- The outstanding request of a requester set or withdrawn. -/
def Arbiter.setRequest (a : Arbiter) (r : Requester) (op : Option FlashOp) : Arbiter :=
  match r with
  | .journal => { a with journal := op }
  | .measure => { a with measure := op }
  | .update => { a with update := op }

/-- An internal agent asks for the Flash Port. -/
def State.askFlash (s : State) (r : Requester) (op : FlashOp) : State :=
  { s with arbiter := s.arbiter.setRequest r (some op) }

/-- An INTERNAL grant with a requester's read chunk, once the requester has withdrawn it: INTERNAL is kept (01 R17) and
nobody waits for the chunk's bytes any more (DEDUCED, log entry 44). Any other grant is as it was. -/
def Grant.withdrawn (g : Grant) (r : Requester) : Grant :=
  match g with
  | .internal r' (.read base n) => if r' = r then .internalWithdrawn r base n else g
  | _ => g

/-- An agent withdraws its outstanding read chunk (05 R78, R81; 09 R143, R150); the grant stays what it was (01 R17). -/
def Arbiter.withdraw (a : Arbiter) (r : Requester) : Arbiter :=
  { a.setRequest r none with grant := a.grant.withdrawn r }

def State.withdraw (s : State) (r : Requester) : State := { s with arbiter := s.arbiter.withdraw r }

/-- A SoC write is forwarded (01 R11): the grant is SOC_WRITE and the three steps are sent. -/
def State.forward (s : State) (w : SocWrite) : State :=
  { s with arbiter := { s.arbiter with
      grant := .socWrite w, bus := s.operationFrames w.flashOp w.op } }

/-- The SoC Port goes idle (01 R14, R15, R16): SOC_READ returns to the suspended operation, which is
resumed, or to the deferred write, which is forwarded, or to FREE; other grants stay. The resume is sent at once,
also where the suspend's polls have not read 0 yet (DESIGN CHOICE, log entry 41). -/
def Arbiter.portIdle (a : Arbiter) (resume poll : Byte) (frames : SocWrite → List Bytes) : Arbiter :=
  match a.grant with
  | .socRead =>
    match a.suspended with
    | some (r, op) =>
      { a with grant := .internal r op, suspended := none, suspendDone := false, bus := [[resume], [poll]] }
    | none =>
      match a.deferred with
      | some w => { a with grant := .socWrite w, deferred := none, bus := frames w }
      | none => { a with grant := .free }
  | _ => a

def State.portIdle (s : State) : State :=
  let frames := fun (w : SocWrite) => s.operationFrames w.flashOp w.op
  { s with arbiter := s.arbiter.portIdle (s.flashOp .resume) (s.flashOp .statusRead) frames }

/-! ### Store requests -/

/-- The source of a request (06 R90). -/
def Purpose.source : Purpose → StoreSource
  | .keyCreate _ _ | .keyDestroy _ | .credStore _ _ _ | .credCount _ _ _ _ | .credMatch _ _ | .credErase _ _ => .engine
  | .updateCommit _ | .updateConfirm => .engine
  | .provisionLayout _ | .provisionAuthority _ | .provisionBank _ => .engine
  | .updateOpen _ | .updateAbort | .sessionAbandon => .updateController
  | .trialAttempt | .trialTimeout | .bootFallback | .ownerEpoch => .resetController
  | .responseErase _ _ => .responseUnit

/-- Does a request of this purpose carry a BANK, LAYOUT or LAYOUT-TRIAL entry (09 R142)? -/
def Purpose.changesBanks : Purpose → Bool
  | .updateOpen _ | .updateAbort | .sessionAbandon | .updateCommit _ | .updateConfirm => true
  | .trialAttempt | .trialTimeout | .bootFallback => true
  | .provisionLayout _ | .provisionBank _ => true
  | .keyCreate _ _ | .keyDestroy _ | .credStore _ _ _ | .credCount _ _ _ _ | .credMatch _ _ | .credErase _ _ => false
  | .ownerEpoch | .responseErase _ _ | .provisionAuthority _ => false

/-- The bank that is not the one given. -/
def Bank.other : Bank → Bank
  | .a => .b
  | .b => .a

/-- The entry of a bank in the bank record. -/
def BankRecord.bank (r : BankRecord) : Bank → BankInfo
  | .a => r.bankA
  | .b => r.bankB

/-- The bank record with one bank changed. -/
def BankRecord.setBank (r : BankRecord) (which : Bank) (i : BankInfo) : BankRecord :=
  match which with
  | .a => { r with bankA := i }
  | .b => { r with bankB := i }

/-- The trial bank: the bank that is not active (09 R140). -/
def BankRecord.trialBank (r : BankRecord) : Bank := r.active.other

/-- The bank record with the state of one bank changed. -/
def BankRecord.setState (r : BankRecord) (which : Bank) (st : BankState) : BankRecord :=
  r.setBank which { r.bank which with state := st }

/-- The inactive bank: the one not presented in the current boot (09 R145). -/
def State.inactiveBank (s : State) : Bank := s.update.presented.other

/-- The bank record with the inactive bank EMPTY: version, lengths and digests 0 (09 R143, R145, R150). -/
def State.emptiedRecord (s : State) : BankRecord :=
  s.update.record.setBank s.inactiveBank (BankInfo.emptied s.update.record.count)

/-- The bank record of a commit (09 R151 (3)). -/
def State.committedRecord (s : State) (m : Manifest) : BankRecord :=
  { s.update.record.setBank s.inactiveBank
      { state := .staged, version := m.version, images := m.targets.map (fun t => ⟨t.length, t.digest⟩) } with
    trialPending := true
    attempts := (s.checker.layout.map Layout.trialCount).getD 0
    raiseFloor := m.raiseFloor
    trialLayout := m.layout.isSome }

/-- The version floor a confirm leaves: with raise-floor the larger of the floor and the trial bank's
version (09 R156). -/
def State.confirmedFloor (s : State) : Word32 :=
  let r := s.update.record
  let v := (r.bank r.trialBank).version
  if r.raiseFloor then (if s.anchor.floor.toNat ≤ v.toNat then v else s.anchor.floor) else s.anchor.floor

/-- The bank record of a confirm (09 R156 (1)). -/
def State.confirmedRecord (s : State) : BankRecord :=
  let r := s.update.record
  let old := r.bank r.active
  let oldState := if r.raiseFloor && decide (old.version.toNat < s.confirmedFloor.toNat) then .retired else old.state
  { (r.setState r.trialBank .good).setState r.active oldState with
    active := r.trialBank
    trialPending := false, attempts := 0, trialLayout := false, raiseFloor := false, outcome := .confirmed
    floor := if r.raiseFloor then s.confirmedFloor else r.floor
    layoutDigest := if r.trialLayout then
        (match s.update.trialLayout with
          | some l => sha256 l.block
          | none => r.layoutDigest)
      else r.layoutDigest }

/-- The bank record of an attempt consumed (09 R153). -/
def BankRecord.attempted (r : BankRecord) : BankRecord :=
  let t := r.bank r.trialBank
  { r.setState r.trialBank (if t.state = .staged then .trial else t.state) with attempts := r.attempts - 1 }

/-- The bank record of a trial that falls back (09 R153, R154). -/
def BankRecord.trialEnded (r : BankRecord) (o : TrialOutcome) : BankRecord :=
  { r.setState r.trialBank .rejected with
    trialPending := false, trialLayout := false, raiseFloor := false, outcome := o }

/-- The bank record of a boot check fallback (09 R154): in a trial boot the trial bank is REJECTED and the
trial ends; outside, the other bank becomes active and the one that mismatched REJECTED. -/
def State.fallbackRecord (s : State) : BankRecord :=
  let r := s.update.record
  if s.update.trialBoot then r.trialEnded .fellBackMismatch
  else { r.setState s.update.presented .rejected with active := s.update.presented.other }

/-- The current layout is held in the LAYOUT-TRIAL object (09 R152). -/
def State.currentInTrialObject (s : State) : Bool :=
  let d := s.update.record.layoutDigest
  match s.update.layout, s.update.trialLayout with
  | some l, some t => sha256 l.block != d && sha256 t.block == d
  | none, some t => sha256 t.block == d
  | _, none => false

/-- A BANK object is live (12 R175, R178). -/
def Journal.hasBank (j : Journal) : Bool := j.index.any (fun r => r.kind == .bank)

def bankEntry (r : BankRecord) : StoreEntry := ⟨.bank, 0, 0, false, r.payload⟩
def layoutEntry (l : Layout) : StoreEntry := ⟨.layout, 0, 0, false, l.block⟩
def trialLayoutEntry (l : Layout) : StoreEntry := ⟨.layoutTrial, 0, 0, false, l.block⟩

/-- A request with the entries and the bank record its purpose gives, formed when it is placed (09 R142). -/
def bankRequest (p : Purpose) (live : Bool) (before : List StoreEntry) (r : BankRecord) (after : List StoreEntry)
    (floor : Option Word32) : StoreRequest :=
  { purpose := p, live := live, entries := before ++ [bankEntry r] ++ after, floorRaise := floor,
    authorityHash := none, record := some r }

def plainRequest (p : Purpose) (live : Bool) (e : StoreEntry) : StoreRequest :=
  { purpose := p, live := live, entries := [e], floorRaise := none, authorityHash := none, record := none }

/-- The store request of a purpose (06 section 6.4; the entries are those of the rule named). That a removal entry has
its secret flag clear is DESIGN CHOICE, log entry 52. -/
def State.makeRequest (s : State) (p : Purpose) (live : Bool) : StoreRequest :=
  match p with
  | .keyCreate slot k => plainRequest p live ⟨.key, slot, k.epoch, true, k.payload⟩                       -- R107
  | .keyDestroy slot => plainRequest p live ⟨.key, slot, 0, false, []⟩                                    -- R112
  | .credStore id c epoch =>                                                                               -- R123
    plainRequest p live ⟨.cred, id, epoch, (match c with
      | .secret _ => true
      | .verifier _ => false), c.payload⟩
  | .credCount id count epoch _ => plainRequest p live ⟨.count, id, epoch, false, [count]⟩                -- R126
  | .credMatch id epoch => plainRequest p live ⟨.count, id, epoch, false, [0]⟩                            -- R127
  | .credErase id epoch => plainRequest p live ⟨.cred, id, epoch, false, []⟩                              -- R133
  | .responseErase id epoch => plainRequest p live ⟨.cred, id, epoch, false, []⟩                          -- R171
  | .ownerEpoch => plainRequest p live ⟨.ownerEpoch, 0, 0, false, []⟩                                     -- R95
  | .updateOpen _ | .updateAbort | .sessionAbandon => bankRequest p live [] s.emptiedRecord [] none        -- R145
  | .updateCommit m =>                                                                                     -- R151
    bankRequest p live
      ((if s.currentInTrialObject then (s.update.trialLayout.map layoutEntry).toList else []) ++
        (m.layout.map trialLayoutEntry).toList)
      (s.committedRecord m) [] none
  | .updateConfirm =>                                                                                      -- R156
    bankRequest p live [] s.confirmedRecord
      (if s.update.record.trialLayout then (s.update.trialLayout.map layoutEntry).toList else [])
      (if s.update.record.raiseFloor then some (s.update.record.bank s.update.record.trialBank).version else none)
  | .trialAttempt => bankRequest p live [] s.update.record.attempted [] none                               -- R153
  | .trialTimeout => bankRequest p live [] (s.update.record.trialEnded .fellBackTimeout) [] none           -- R153
  | .bootFallback => bankRequest p live [] s.fallbackRecord [] none                                        -- R154
  | .provisionLayout l =>                                                                                  -- R175
    if s.journal.hasBank then
      bankRequest p live [layoutEntry l] { s.update.record with layoutDigest := sha256 l.block } [] none
    else plainRequest p live (layoutEntry l)
  | .provisionAuthority key =>                                                                             -- R176
    { plainRequest p live ⟨.key, 1, 0, false, pairBytes key⟩ with authorityHash := some (sha256 (pairBytes key)) }
  | .provisionBank r => bankRequest p live [] r [] (some r.floor)                                          -- R177

/-- A source has a request in the queue or in progress (06 R90). -/
def Journal.outstanding (j : Journal) (src : StoreSource) : Bool :=
  j.queue.any (fun q => q.purpose.source == src) ||
  (match j.job with
    | some job => job.request.purpose.source == src
    | none => false)

/-- A request of this purpose is held, queued or in progress. -/
def Journal.anyRequest (j : Journal) (p : Purpose → Bool) : Bool :=
  j.held.any (fun h => p h.purpose) || j.queue.any (fun q => p q.purpose) ||
  (match j.job with
    | some job => p job.request.purpose
    | none => false)

/-- The held requests whose source has none outstanding are placed, oldest first (06 R90). -/
def State.placeHeld (s : State) : List HeldRequest → State
  | [] => s
  | h :: rest =>
    State.placeHeld
      { s with journal :=
          if s.journal.outstanding h.purpose.source || s.journal.held.any (fun x => x.purpose.source == h.purpose.source) then
            { s.journal with held := s.journal.held ++ [h] }
          else { s.journal with queue := s.journal.queue ++ [s.makeRequest h.purpose h.live] } }
      rest

/-- Every request that can be placed is placed. -/
def State.pumpRequests (s : State) : State :=
  State.placeHeld { s with journal := { s.journal with held := [] } } s.journal.held

/-- A block hands the Journal Store a store request; it is held while an earlier one of its source is
outstanding (06 R90). -/
def State.place (s : State) (p : Purpose) (live : Bool) : State :=
  State.pumpRequests { s with journal := { s.journal with held := s.journal.held ++ [⟨p, live⟩] } }

/-- The next id of the erase list under which a record exists, with the ids after it (11 R171). -/
def Creds.nextErase (c : Creds) : List Nat → Option (Nat × CredRecord × List Nat)
  | [] => none
  | id :: rest => match c.get id with
    | some r => some (id, r, rest)
    | none => Creds.nextErase c rest

/-- While the Response Unit has no request outstanding, it takes the oldest id of its erase list under
which a record exists and places the removal (11 R171). -/
def State.pumpErase (s : State) : State :=
  if s.journal.outstanding .responseUnit then s
  else match s.creds.nextErase s.response.eraseList with
    | some (id, r, rest) =>
      ({ s with response := { s.response with eraseList := rest } }).place (.responseErase id r.epoch) false
    | none => { s with response := { s.response with eraseList := [] } }

/-! ### The Response Unit -/

/-- An action is carried out (11 R170, R171). -/
def State.act (s : State) (a : Action) : State :=
  match a with
  | .alert => s
  | .hideRegion r => { s with checker := { s.checker with hideSet := addTo s.checker.hideSet r } }          -- R32
  | .disableSlot n => { s with keys := { s.keys with disabled := addTo s.keys.disabled n } }                -- R114
  | .contain => s.contain .response
  | .revokeGrant => s.clearGrant
  | .eraseCredential id =>
    State.pumpErase { s with response := { s.response with
      eraseList := if s.response.eraseList.contains id then s.response.eraseList else s.response.eraseList ++ [id] } }

/-- Entry `i` judged on an offer: it fires when its flag is clear and the change crosses its threshold
(11 R169). -/
def State.judge (src : Source) (before after : Nat) (s : State) (e : ResponseEntry × Nat) : State :=
  if e.1.source = src ∧ inSet s.response.fired e.2 = false ∧ before < e.1.threshold ∧ e.1.threshold ≤ after then
    (State.act { s with response := { s.response with fired := addTo s.response.fired e.2 } } e.1.action).raise .response
  else s

/-- A counter change is offered: every entry of its source is judged, in increasing index (11 R169). In
FACTORY and until the next entry into CHECK after PROVISION FINISH nothing fires (R168, 12 R178). -/
def State.offer (s : State) (src : Source) (before after : Nat) : State :=
  if s.response.armed then s.response.table.zipIdx.foldl (State.judge src before after) s else s

/-- A counter's change is offered where it changed (02 R38). -/
def State.offerChange (s : State) (src : Source) (before after : Word16) : State :=
  if before = after then s else s.offer src before.toNat after.toNat

/-! ### Violations -/

/-- The ring with a record appended: at most 16, the oldest removed (02 R37). -/
def pushViolation (ring : List Violation) (v : Violation) : List Violation :=
  if ring.length < 16 then ring ++ [v] else ring.drop (ring.length - 15) ++ [v]

/-- The counter of a region index. -/
def Checker.regionCounter (c : Checker) (r : Nat) : Word16 := (c.regionCounters[r]?).getD 0

/-- The checker with a violation recorded: sequence, ring and counters (02 R36 ~ R38). -/
def Checker.record (c : Checker) (kind : ViolationKind) (cls : OpClass) (address : Nat) (region : Option Nat)
    (stage : BitVec 3) (uptime : Word32) : Checker :=
  { c with
    sequence := c.sequence + 1
    ring := pushViolation c.ring ⟨c.sequence + 1, kind, cls, address, region, stage, uptime⟩
    regionCounters := match region with
      | some r => c.regionCounters.setIfInBounds r (bump (c.regionCounter r))
      | none => c.regionCounters
    unmappedCounter := match region with
      | some _ => c.unmappedCounter
      | none => bump c.unmappedCounter
    allCounter := bump c.allCounter }

/-- A violation is recorded (02 R36): record and counters, VIOLATION, then the offers, the region or
unmapped counter first (R38). -/
def State.violate (s : State) (kind : ViolationKind) (cls : OpClass) (address : Nat) (region : Option Nat) : State :=
  let c := s.checker
  let c' := c.record kind cls address region s.measure.stage s.time.uptime
  let s1 := State.raise { s with checker := c' } .violation
  let s2 := match region with
    | some r => s1.offerChange (.region r) (c.regionCounter r) (bump (c.regionCounter r))
    | none => s1.offerChange .unmapped c.unmappedCounter (bump c.unmappedCounter)
  s2.offerChange .all c.allCounter (bump c.allCounter)

/-! ### Reset causes -/

/-- The position of a cause among the six counts. -/
def ResetCause.index (c : ResetCause) : Nat := c.code.toNat

/-- The count of a cause. -/
def ResetController.count (r : ResetController) (c : ResetCause) : Word16 := (r.counts[c.index]?).getD 0

/-- A cause is recorded (04 R56). -/
def ResetController.recordCause (r : ResetController) (c : ResetCause) : ResetController :=
  { r with lastCause := c, counts := r.counts.setIfInBounds c.index (bump (r.count c)) }

def State.recordCause (s : State) (c : ResetCause) : State := { s with rst := s.rst.recordCause c }

/-- The update session is open (09 R143): not IDLE. -/
def Session.isOpen : Session → Bool
  | .idle => false
  | .staging _ => true
  | .verifying _ _ _ => true
  | .verified _ => true

/-! ### Taking a command -/

/-- The command has been handed to its owner and the owner has not taken it yet; its body. -/
def Window.handed (w : Window) (c : Command) : Option Bytes :=
  match w.command with
  | some r => if r.command = c ∧ r.taken = false then some r.body else none
  | none => none

/-- A window command is taken by its owning block: `f` is what the block does with the body. With no such
command in the engine there is nothing to take (log entry 7). -/
def State.take (s : State) (c : Command) (f : Bytes → State) : State :=
  if s.powered then
    match s.window.handed c with
    | some body => f body
    | none => s
  else s

/-- A command's effect while the supply is up; without supply nothing happens (log entry 7). -/
def State.whenPowered (s : State) (s' : State) : State := if s.powered then s' else s

end Sys2Proof.Machine
end

