-- ==== Sys2Proof/Machine/Creds.lean ====
section
/-! DEFINITION. The Credential Store (08): throttle and decay, removals, the owner grant, its timer events
and the commands CRED STORE, RELEASE, VERIFY, ERASE, LIST and GRANT DROP. -/

namespace Sys2Proof.Machine

/-! ### Ownership and records -/

/-- 00h UNCLAIMED, 01h CLAIMED. -/
def State.ownership (s : State) : Byte := flagByte s.claimed

/-- The ownership state is worked out again after a change of records: where it was CLAIMED and is not any
more, the grant is cleared (08 R118). -/
def State.settleOwnership (s : State) (before : Bool) : State :=
  if before && !s.claimed then s.clearGrant else s

/-- The record under an id set or removed. -/
def State.putCred (s : State) (id : Nat) (r : Option CredRecord) : State := { s with creds := s.creds.put id r }

/-- A change of the volatile count of a record is offered; one that changes nothing is not (08 R136). -/
def State.offerCount (s : State) (id : Nat) (before after : Byte) : State :=
  if before = after then s else s.offer (.failures id) before.toNat after.toNat

/-- The record of an id ceases to exist, its count offered as a lowering to 0 (08 R134). -/
def State.dropRecord (s : State) (id : Nat) : State :=
  match s.creds.get id with
  | some r => (s.putCred id none).offerCount id r.count 0
  | none => s

/-- A removal entry of CRED(n) is durable (08 R134). -/
def State.removeCred (s : State) (id : Nat) : State := (s.dropRecord id).settleOwnership s.claimed

/-- The Credential Store is told of a new owner epoch (08 R139): every record of another epoch goes, the
state is worked out again, OWNER is raised. -/
def State.credEpoch (s : State) (epoch : Word32) : State :=
  let s1 := (List.range 32).foldl (fun t id => match t.creds.get id with
    | some r => if r.epoch = epoch then t else t.dropRecord id
    | none => t) s
  (s1.clearGrant).raise .owner

/-! ### The throttle -/

/-- The delay in seconds at failure count f (08 R130). -/
def Verifier.delayAt (v : Verifier) (f : Nat) : Nat :=
  if f ≤ v.free then 0
  else
    let k := f - v.free - 1
    if 17 ≤ k then v.ceiling else min v.ceiling (v.delay * 2 ^ k)

/-- A CRED VERIFY of the record is between the placing of its count entry and its answer (08 R132). -/
def State.verifyOutstanding (s : State) (id : Nat) : Bool :=
  s.journal.anyRequest (fun p => match p with
    | .credCount i _ _ _ => i == id
    | .credMatch i _ => i == id
    | _ => false)

/-- The decay timer of a record starts where R132 lets it: Q and the count above 0, neither timer running,
no CRED VERIFY of the record under way. -/
def State.startDecay (s : State) (id : Nat) : State :=
  match s.creds.get id with
  | some r => match r.content with
    | .verifier v =>
      if v.decay ≠ 0 ∧ r.count ≠ 0 ∧ r.delayTimer = none ∧ r.decayTimer = none ∧ s.verifyOutstanding id = false then
        s.putCred id (some { r with decayTimer := some (s.seconds (60 * v.decay)) })
      else s
    | .secret _ => s
  | none => s

/-- The delay timer of a VERIFIER starts for its count; a delay of 0 starts none (08 R130), and then the
decay timer may start (R132). -/
def State.startDelay (s : State) (id : Nat) : State :=
  match s.creds.get id with
  | some r => match r.content with
    | .verifier v =>
      let d := v.delayAt r.count.toNat
      if d = 0 then s.startDecay id
      else s.putCred id (some { r with delayTimer := some (s.seconds d) })
    | .secret _ => s
  | none => s

/-- The seconds of a guess's delay: those of the record's count. -/
def CredRecord.delay (r : CredRecord) : Nat :=
  match r.content with
  | .verifier v => v.delayAt r.count.toNat
  | .secret _ => 0

/-- The verifier of a value under a salt: SHA-256 of the salt followed by the value (08 R117). -/
def saltedDigest (salt : BitVec 128) (value : Bytes) : Digest := sha256 (beBytes 16 salt.toNat ++ value)

/-- DELAY_EXPIRY (R130): the delay timer has run out; the decay timer may start. -/
def execDelayExpiry (id : Nat) (s : State) : Host.Outcome State Fault Refusal :=
  .next (s.whenPowered (match s.creds.get id with
    | some r => match r.delayTimer with
      | some t =>
        if t.due s.time.clock then (s.putCred id (some { r with delayTimer := none })).startDecay id else s
      | none => s
    | none => s))

/-- DECAY_EXPIRY (R132): the volatile count is lowered by 1 and offered; the timer starts again while it is
above 0. -/
def execDecayExpiry (id : Nat) (s : State) : Host.Outcome State Fault Refusal :=
  .next (s.whenPowered (match s.creds.get id with
    | some r => match r.decayTimer with
      | some t =>
        if t.due s.time.clock then
          let lower := if r.count = 0 then 0 else r.count - 1
          ((s.putCred id (some { r with count := lower, decayTimer := none })).offerCount id r.count lower).startDecay id
        else s
      | none => s
    | none => s))

/-! ### Commands -/

/-- The id of a one-byte body, 0 ~ 31. -/
def credId (body : Bytes) : Option Nat :=
  if body.length = 1 ∧ (byteAt body 0).toNat ≤ 31 then some (byteAt body 0).toNat else none

/-- The body of CRED STORE has its form (08 R122 (1)). -/
def credStoreFormOk (body : Bytes) : Bool :=
  let kind := byteAt body 1
  let flags := byteAt body 2
  let n := (byteAt body 20).toNat
  decide ((byteAt body 0).toNat ≤ 31) && decide (kind.toNat ≤ 1) &&
  (if kind = 0 then flags == 0 || flags == 1 else flags == 0 || flags == 2) &&
  decide (1 ≤ n) && decide (n ≤ 64) && decide (body.length = 21 + n)

/-- The VERIFIER a CRED STORE body gives, its throttle fields clamped (08 R122), without salt and verifier. -/
def verifierOf (body : Bytes) : Verifier :=
  let d := max 1 (byteAt body 13).toNat
  { ownerGate := (byteAt body 2).getLsbD 0
    verifyMask := byteAt body 3
    label := slice body 4 8
    salt := 0
    verifier := 0
    free := min 15 (byteAt body 12).toNat
    delay := d
    ceiling := max d (min 86400 (field body 14 4))
    decay := min 1440 (field body 18 2) }

/-- The SECRET a CRED STORE body gives. -/
def secretOf (body : Bytes) : Secret :=
  { needsGrant := (byteAt body 2).getLsbD 1
    releaseMask := byteAt body 3
    label := slice body 4 8
    value := body.drop 21 }

/-- CRED STORE (08 R122, R123): a VERIFIER waits for its salt; a SECRET's entry is placed. -/
def State.credStore (s : State) (body : Bytes) : State :=
  if credStoreFormOk body then
    if s.claimed && !s.granted then s.refuse .grant
    else
      let id := (byteAt body 0).toNat
      if byteAt body 1 = 0 then
        { s.wait with signature := some (.salt id (verifierOf body) (body.drop 21)) }
      else s.wait.place (.credStore id (.secret (secretOf body)) s.journal.epoch) true
  else s.refuse .malformed

/-- CRED_STORE. -/
def execCredStore (s : State) : Host.Outcome State Fault Refusal := .next (s.take .credStore s.credStore)

/-- CRED RELEASE (08 R124). -/
def State.credRelease (s : State) (body : Bytes) : State :=
  match credId body with
  | none => s.refuse .malformed
  | some id => match s.creds.get id with
    | none => s.refuse .notFound
    | some r => match r.content with
      | .verifier _ => s.refuse .wrongKind
      | .secret v =>
        if !s.stageIn v.releaseMask then s.refuse .stage
        else if s.contained then s.refuse .contained
        else if v.needsGrant && !s.granted then s.refuse .grant
        else s.finish .ok (bytes1 id ++ bytes1 v.value.length ++ v.value)

/-- CRED_RELEASE. -/
def execCredRelease (s : State) : Host.Outcome State Fault Refusal := .next (s.take .credRelease s.credRelease)

/-- The raised count of a guess: the smaller of 255 and v + 1 (08 R126). -/
def raisedCount (v : Byte) : Byte := if v = 255 then 255 else v + 1

/-- CRED VERIFY (08 R125, R126): a guess that passes the tests stops the decay timer and places the raised
count. -/
def State.credVerify (s : State) (body : Bytes) : State :=
  let id := (byteAt body 0).toNat
  if decide (2 ≤ body.length) && decide (body.length ≤ 65) && decide (id ≤ 31) then
    match s.creds.get id with
    | none => s.refuse .notFound
    | some r => match r.content with
      | .secret _ => s.refuse .wrongKind
      | .verifier v =>
        if !s.stageIn v.verifyMask then s.refuse .stage
        else match r.delayTimer with
          | some t => s.finish .throttled (bytes1 id ++ [r.count] ++ beBytes 4 (t.remaining s.time.clock))
          | none =>
            (s.putCred id (some { r with decayTimer := none })).wait.place
              (.credCount id (raisedCount r.count) r.epoch (body.drop 1)) true
  else s.refuse .malformed

/-- CRED_VERIFY. -/
def execCredVerify (s : State) : Host.Outcome State Fault Refusal := .next (s.take .credVerify s.credVerify)

/-- CRED ERASE (08 R133). -/
def State.credErase (s : State) (body : Bytes) : State :=
  match credId body with
  | none => s.refuse .malformed
  | some id => match s.creds.get id with
    | none => s.refuse .notFound
    | some r =>
      if s.claimed && !s.granted then s.refuse .grant
      else s.wait.place (.credErase id r.epoch) true

/-- CRED_ERASE. -/
def execCredErase (s : State) : Host.Outcome State Fault Refusal := .next (s.take .credErase s.credErase)

/-- The seconds that remain of the owner grant (08 R119). -/
def State.grantSeconds (s : State) : Nat := remainingSeconds s.creds.grant s.time.clock

/-- A record as CRED LIST reports it (08 R135). -/
def CredRecord.listBytes (r : CredRecord) (id clock : Nat) : Bytes :=
  bytes1 id ++ [r.content.kindCode, r.content.flags, r.content.stageMask] ++ r.content.label ++
    (match r.content with
      | .verifier v => [r.count] ++ beBytes 4 (remainingSeconds r.delayTimer clock) ++ bytes1 v.free ++
          bytes1 v.delay ++ beBytes 4 v.ceiling ++ beBytes 2 v.decay
      | .secret _ => List.replicate 13 0)

/-- The records held, by increasing id. -/
def Creds.listed (c : Creds) : List (Nat × CredRecord) :=
  (List.range 32).filterMap (fun id => (c.get id).map (fun r => (id, r)))

/-- CRED LIST (08 R135). -/
def State.credList (s : State) (_ : Bytes) : State :=
  let records := s.creds.listed
  s.finish .ok ([s.ownership] ++ bytes32 s.journal.epoch ++ beBytes 2 s.grantSeconds ++ bytes1 records.length ++
    records.flatMap (fun x => x.2.listBytes x.1 s.time.clock))

/-- CRED_LIST. -/
def execCredList (s : State) : Host.Outcome State Fault Refusal := .next (s.take .credList s.credList)

/-- GRANT_DROP (08 R121). -/
def execGrantDrop (s : State) : Host.Outcome State Fault Refusal :=
  .next (s.take .grantDrop (fun _ => s.clearGrant.finish .ok []))

end Sys2Proof.Machine
end

