-- ==== Sys2Proof/Machine/Measure.lean ====
section
/-! DEFINITION. The Measurement Unit and the boot check (04 R57 ~ R59, R63; 05), the choice of bank and
layout (09 R152 ~ R154), and the commands STAGE ADVANCE, MEASURE EXTEND, MEASURE READ and LOG READ. -/

namespace Sys2Proof.Machine

/-! ### Slots, log and history -/

/-- The value of a measurement slot. -/
def Measure.slot (m : Measure) (n : Nat) : Digest := (m.slots[n]?).getD 0

/-- The extend tag (05 R67). -/
def extendTag (kind : ExtendKind) (index stage : Nat) : Bytes :=
  [kind.code, BitVec.ofNat 8 index, BitVec.ofNat 8 stage, 0]

/-- The value of a slot after an extend: SHA-256 of the old value, the tag and the digest (05 R67). -/
def extendValue (old : Digest) (kind : ExtendKind) (index stage : Nat) (d : Digest) : Digest :=
  sha256 (digestBytes old ++ extendTag kind index stage ++ digestBytes d)

/-- The number of entries the log holds at most (05 R68). -/
def logCapacity : Nat := 64

/-- A slot is extended and the log entry appended, or the truncated flag set (05 R67, R68). -/
def Measure.extend (m : Measure) (n : Nat) (kind : ExtendKind) (index stage : Nat) (d : Digest) : Measure :=
  { m with
    slots := m.slots.setIfInBounds n (extendValue (m.slot n) kind index stage d)
    log := if m.log.length < logCapacity then
        m.log ++ [{ slot := n, kind := kind, index := index, stage := stage, digest := d }]
      else m.log
    truncated := m.truncated || decide (logCapacity ≤ m.log.length) }

def State.extend (s : State) (n : Nat) (kind : ExtendKind) (index stage : Nat) (d : Digest) : State :=
  { s with measure := s.measure.extend n kind index stage d }

/-- The stage is entered: its history entry is appended (05 R69). -/
def State.enterStage (s : State) (t : Nat) : State :=
  { s with measure := { s.measure with
      stage := BitVec.ofNat 3 t
      history := s.measure.history ++ [{ stage := t, uptime := s.time.uptime, logLength := s.measure.log.length }] } }

/-! ### Measuring a region -/

/-- The position of a BANKED region among the layout's BANKED regions, the order of a bank's images. -/
def Layout.imageIndex (l : Layout) (r : Nat) : Nat := l.banked.idxOf r

/-- The length and reference digest that a bank holds for a region (09 R140). -/
def BankInfo.image (i : BankInfo) (l : Layout) (r : Nat) : Image := i.images.getD (l.imageIndex r) ⟨0, 0⟩

/-- The image of a region in the presented bank. -/
def State.presentedImage (s : State) (r : Region) : Image :=
  match s.checker.layout with
  | some l => (s.update.record.bank s.update.presented).image l r.index
  | none => ⟨0, 0⟩

/-- The physical base and the length that a measurement hashes (05 R70). -/
def State.measuredRange (s : State) (r : Region) : Nat × Nat :=
  match r.kind with
  | .banked => (r.bankBase s.update.presented, (s.presentedImage r).length)
  | _ => (r.physA.getD 0, r.length)

/-- The reference a measured digest is compared with (05 R71). -/
def State.reference (s : State) (r : Region) : Option Digest :=
  match r.kind with
  | .banked => some (s.presentedImage r).digest
  | .recovery => some s.update.record.recoveryDigest
  | _ => none

/-- The next read chunk of a run of bytes: at most 256 bytes. -/
def nextChunk (base length done : Nat) : FlashOp := .read (base + done) (min chunkLength (length - done))

/-- A region joins the freeze set (02 R31). -/
def State.freeze (s : State) (i : Nat) : State :=
  { s with checker := { s.checker with freezeSet := addTo s.checker.freezeSet i } }

/-- The measurement of a region begins: it joins the freeze set and its first chunk is asked for (05 R70). -/
def State.beginRegion (s : State) (r : Region) : State :=
  let range := s.measuredRange r
  let s1 := s.freeze r.index
  State.askFlash
    { s1 with measure := { s1.measure with
        current := some { region := r.index, base := range.1, length := range.2, fed := [] } } }
    .measure (nextChunk range.1 range.2 0)

/-- A mismatch: the counter, its offer, MISMATCH, in that order (05 R71). -/
def State.mismatch (s : State) : State :=
  let c := s.measure.mismatches
  let s1 := State.offerChange { s with measure := { s.measure with mismatches := bump c } } .mismatches c (bump c)
  s1.raise .mismatch

/-- A measured digest differs from its reference. -/
def State.differs (s : State) (r : Region) (d : Digest) : Bool :=
  match s.reference r with
  | some ref => ref != d
  | none => false

/-- A region's digest is taken: the extend with its log entry, then the comparison (05 R71). -/
def State.takeDigest (s : State) (r : Region) (n : Nat) (kind : ExtendKind) (stage : Nat) (d : Digest) : State :=
  let s1 := State.extend { s with measure := { s.measure with current := none } } n kind r.index stage d
  if s.differs r d then s1.mismatch else s1

/-! ### Layout into force -/

/-- The layout held under each object whose block has the current layout digest, else the LAYOUT object
(09 R152). -/
def State.currentLayout (s : State) : Option Layout :=
  if s.currentInTrialObject then s.update.trialLayout else s.update.layout

/-- The restored count of each VERIFIER record is offered from 0 (11 R169), by increasing id (DESIGN CHOICE, log
entry 46). -/
def State.offerRestored (s : State) : State :=
  (List.range 32).foldl (fun s id => match s.creds.get id with
    | some r => s.offer (.failures id) 0 r.restored.toNat
    | none => s) s

/-- A layout comes into force with its Response Table, every fired flag clear (02 R23, 11 R168); the first
time in FIELD since power-on the restored counts are offered (11 R169). -/
def State.installLayout (s : State) (l : Option Layout) (src : LayoutSource) : State :=
  let s1 : State := { s with
    checker := { s.checker with layout := l, source := src }
    response := { s.response with
      table := (l.map Layout.responses).getD [], fired := 0, armed := s.isField,
      offered := s.response.offered || s.isField } }
  if s.isField && !s.response.offered then s1.offerRestored else s1

/-- The presented bank, whether the boot is a trial boot, and the layout in force (09 R152, R153). -/
def State.present (s : State) (which : Bank) (trial : Bool) (l : Option Layout) (src : LayoutSource) : State :=
  State.installLayout { s with update := { s.update with presented := which, trialBoot := trial } } l src

/-- The active bank with the current layout. -/
def State.presentActive (s : State) : State := s.present s.update.record.active false s.currentLayout .current

/-- The trial bank, with the LAYOUT-TRIAL where the trial layout flag is set (09 R153). -/
def State.presentTrial (s : State) : State :=
  if s.update.record.trialLayout then s.present s.update.record.trialBank true s.update.trialLayout .trial
  else s.present s.update.record.trialBank true s.currentLayout .current

/-! ### Release and HALT -/

/-- 15 s × 2^n for the layout's trial timeout code n (09 R155). -/
def State.trialSeconds (s : State) : Nat := 15 * 2 ^ ((s.checker.layout.map Layout.timeoutCode).getD 0)

/-- The release of the SoC (04 R59): boot counter, RUN, stage 0 with its history entry, and in a trial boot
the trial timer (09 R155). An SSEL found low is waited out (01 R4). -/
def State.release (s : State) : State :=
  let s1 := s.enterStage 0
  { s1 with
    rst := { s.rst with state := .run, bootCounter := s.rst.bootCounter + 1, check := .idle }
    port := { s.port with waitHigh := s.lines.ssel }
    update := { s.update with
      running := s.update.trialBoot
      timer := if s.update.trialBoot then some (s.seconds s.trialSeconds) else none } }

/-- HALT is entered: CONTAIN_HALT is recorded and its count written to anchor memory (04 R56, R63). -/
def State.enterHalt (s : State) : State :=
  let r := ResetController.recordCause { s.rst with state := .halt, check := .idle } .containHalt
  { s with rst := r, anchor := { s.anchor with haltCount := r.count .containHalt } }

/-! ### The recovery image (05 R77) -/

/-- The slot of the boot-flagged region. -/
def State.bootSlot (s : State) : Nat := ((s.checker.layout.bind Layout.bootRegion).bind Region.slot).getD 0

/-- The recovery image's digest is taken: RELEASE_RECOVERY on a match, HALT on a mismatch. -/
def State.recoveryDone (s : State) (r : Region) (d : Digest) : State :=
  let s1 := s.takeDigest r s.bootSlot .recovery 0 d
  if s.differs r d then s1.enterHalt else s1.release

/-- The check reaches the recovery image. With no RECOVERY region the measurement counts as a mismatch
(12 R174). -/
def State.measureRecovery (s : State) : State :=
  match s.checker.layout.bind Layout.recovery with
  | none => s.mismatch.enterHalt
  | some r =>
    if r.length = 0 then (s.freeze r.index).recoveryDone r (sha256 [])
    else State.beginRegion { s with rst := { s.rst with check := .recovery } } r

/-- R75 step (4). -/
def State.checkOutcome (s : State) : State := if s.contained then s.measureRecovery else s.release

/-! ### The passes (05 R74 ~ R76) -/

/-- BOOT_MISMATCH leaves the cause set at a pass that passed (11 R166). -/
def State.passPassed (s : State) : State :=
  { s with response := { s.response with
      causes := s.response.causes &&& ~~~(BitVec.twoPow 8 ContainCause.bootMismatch.bit) } }

/-- The bank a fallback would present: outside a trial boot the bank not presented, in one the active bank
(09 R154). -/
def State.fallbackBank (s : State) : Bank :=
  if s.update.trialBoot then s.update.record.active else s.update.presented.other

/-- The fallback bank is GOOD with its version at or above the floor (09 R154). -/
def State.canFallBack (s : State) : Bool :=
  let i := s.update.record.bank s.fallbackBank
  i.state == .good && decide (s.anchor.floor.toNat ≤ i.version.toNat)

/-- R75 step (3). -/
def State.containBoot (s : State) : State := (s.contain .bootMismatch).checkOutcome

/-- The decision at the end of a pass (05 R75, R76). -/
def State.passEnd (s : State) (p : Pass) : State :=
  if !p.needFallback && !p.needContain then s.passPassed.checkOutcome
  else if !p.second && p.needFallback && !p.needContain && s.canFallBack then
    State.place { s with rst := { s.rst with check := .waitFallback } } .bootFallback true
  else s.containBoot

/-- What a mismatch of a region asks of the pass (05 R74). -/
def Pass.note (p : Pass) (r : Region) (mismatch trial : Bool) : Pass :=
  let acts := mismatch && (r.onMismatch == some .fallback || r.onMismatch == some .contain)
  let contains := mismatch && r.onMismatch == some .contain && !trial
  { p with needFallback := p.needFallback || (acts && !contains), needContain := p.needContain || contains }

/-- A region of a pass is done. -/
def State.passTake (s : State) (r : Region) (d : Digest) : State := s.takeDigest r (r.slot.getD 0) .region 0 d

/-- The pass goes on with its regions: one of measured length 0 is done at once (05 R70); the first other is
begun. With none left the pass ends. -/
def State.passRun (s : State) (p : Pass) : List Nat → State
  | [] => s.passEnd { p with todo := [] }
  | i :: rest =>
    match s.checker.layout.bind (fun l => l.region? i) with
    | none => s.passRun p rest
    | some r =>
      if (s.measuredRange r).2 = 0 then
        State.passRun ((s.freeze i).passTake r (sha256 []))
          (p.note r (s.differs r (sha256 [])) s.update.trialBoot) rest
      else State.beginRegion { s with rst := { s.rst with check := .measuring { p with todo := rest } } } r

/-- A pass begins over the regions of measure-at RESET, in increasing index (05 R74). -/
def State.startPass (s : State) (second : Bool) : State :=
  let todo := (s.checker.layout.map (fun l => l.indices (fun r => r.measureAt == .reset))).getD []
  s.passRun { second := second, todo := [], needFallback := false, needContain := false } todo

/-! ### The boot check (04 R58) -/

/-- The decision of R58 steps (2) and (3), when the waits are over. -/
def State.decideBoot (s : State) : State :=
  let s1 := { s with checker := { s.checker with openMapping := !s.isField } }
  if s.isField then
    if s.update.record.trialPending then
      State.place { s1 with rst := { s1.rst with check := .waitEntry } }
        (if s.update.record.attempts = 0 then .trialTimeout else .trialAttempt) true
    else s1.presentActive.startPass false
  else (s1.present .a false s.currentLayout .current).release

/-- The check waits: for a request of the Reset Controller (R58 step 1), or in FIELD for one that carries a
BANK, LAYOUT or LAYOUT-TRIAL entry (09 R142). -/
def State.checkMustWait (s : State) : Bool :=
  s.journal.anyRequest (fun p => p.source == .resetController || (s.isField && p.changesBanks))

/-- A check that waits for the store queue goes on as soon as it may. -/
def State.proceedCheck (s : State) : State :=
  if s.rst.check = .waitStore && !s.checkMustWait then s.decideBoot else s

/-- The STAGE regions of the layout in force. -/
def State.stageRegions (s : State) : BitVec 16 := (s.checker.layout.map Layout.stageSet).getD 0

/-- The freeze set loses every region that is not a STAGE region (02 R31). -/
def State.thawOthers (s : State) : State :=
  { s with checker := { s.checker with freezeSet := s.checker.freezeSet &&& s.stageRegions } }

/-- The STAGE regions leave the freeze set (02 R31). -/
def State.thawStages (s : State) : State :=
  { s with checker := { s.checker with freezeSet := s.checker.freezeSet &&& ~~~s.stageRegions } }

/-- An entry into CHECK (04 R58): slots, log and history are cleared (05 R67 ~ R69), the freeze set loses
its non-STAGE regions, fired flags clear (11 R172), and the boot check begins. -/
def State.enterCheck (s : State) : State :=
  let s1 := s.thawOthers
  State.proceedCheck { s1 with
    rst := { s1.rst with state := .check, pulse := none, pulseWait := false, check := .waitStore }
    measure := { s1.measure with slots := Vector.replicate 8 0, log := [], truncated := false, history := [] }
    response := { s1.response with fired := 0 } }

/-- Nothing waits any more for the requests made so far: a command or check was abandoned (03 R48, 04 R58). -/
def Journal.orphan (j : Journal) : Journal :=
  { j with
    held := j.held.map (fun h => { h with live := false })
    queue := j.queue.map (fun q => { q with live := false })
    job := j.job.map (fun job => { job with request := { job.request with live := false } }) }

/-- The boot check is abandoned (04 R58, 05 R78). -/
def State.abandonCheck (s : State) : State :=
  let s1 := s.withdraw .measure
  { s1 with
    rst := { s1.rst with check := .idle }
    measure := { s1.measure with current := none }
    journal := s1.journal.orphan }

/-! ### A stage advance (05 R79 ~ R81) -/

/-- The advance completes as one event (05 R80). -/
def State.advanceEnd (s : State) (a : Advance) : State :=
  let s1 := State.enterStage { s with measure := { s.measure with advance := none } } a.target
  s1.finish .ok (bytes1 a.target ++ bytes1 a.done.length ++ a.done.map (BitVec.ofNat 8) ++ bytes16 a.mismatched)

/-- The stage a region's extend carries: its measure-at stage (05 R67). -/
def Region.extendStage (r : Region) : Nat :=
  match r.measureAt with
  | .stage n => n
  | _ => 0

/-- A region of an advance is done: its digest, then its policy (05 R71, R73). -/
def State.advanceTake (s : State) (r : Region) (d : Digest) : State :=
  let s1 := s.takeDigest r (r.slot.getD 0) .region r.extendStage d
  if s.differs r d && r.onMismatch == some .contain then s1.contain .regionMismatch else s1

/-- The advance record with a region moved to the measured list. -/
def Advance.note (a : Advance) (i : Nat) (mismatch : Bool) : Advance :=
  { a with done := a.done ++ [i], mismatched := if mismatch then addTo a.mismatched i else a.mismatched }

/-- The advance goes on with its regions; with none left it completes. -/
def State.advanceRun (s : State) (a : Advance) : List Nat → State
  | [] => s.advanceEnd a
  | i :: rest =>
    match s.checker.layout.bind (fun l => l.region? i) with
    | none => s.advanceRun a rest
    | some r =>
      if (s.measuredRange r).2 = 0 then
        State.advanceRun (s.advanceTake r (sha256 [])) (a.note i (s.differs r (sha256 []))) rest
      else State.beginRegion { s with measure := { s.measure with advance := some { a with todo := rest } } } r

/-- A region's last chunk has completed (05 R70): its digest goes to the advance, to the pass or to the
recovery decision. -/
def State.regionDone (s : State) (m : Measuring) : State :=
  match s.checker.layout.bind (fun l => l.region? m.region) with
  | none => s
  | some r =>
    let d := sha256 m.fed
    match s.measure.advance with
    | some a => (s.advanceTake r d).advanceRun (a.note r.index (s.differs r d)) a.todo
    | none => match s.rst.check with
      | .measuring p => (s.passTake r d).passRun (p.note r (s.differs r d) s.update.trialBoot) p.todo
      | .recovery => s.recoveryDone r d
      | _ => s

/-- A chunk of the region being measured completes (05 R70). -/
def State.measureChunk (s : State) (bs : Bytes) : State :=
  match s.measure.current with
  | none => s
  | some m =>
    let m' := { m with fed := m.fed ++ bs }
    let s1 := { s with measure := { s.measure with current := some m' } }
    if m'.fed.length < m.length then s1.askFlash .measure (nextChunk m.base m.length m'.fed.length)
    else s1.regionDone m'

/-! ### The commands -/

/-- The regions a STAGE ADVANCE from stage `c` to `t` measures; none in FACTORY (05 R79). One that is taken after
FIELD was written, the factory open mapping still in force, lists them (DESIGN CHOICE, log entry 45). -/
def State.advanceList (s : State) (c t : Nat) : List Nat :=
  if s.isField then
    (s.checker.layout.map (fun l => l.indices (fun r => match r.measureAt with
      | .stage n => decide (c < n) && decide (n ≤ t)
      | _ => false))).getD []
  else []

/-- STAGE ADVANCE (05 R79). -/
def State.stageAdvance (s : State) (body : Bytes) : State :=
  if body.length = 1 then
    let t := (byteAt body 0).toNat
    let c := s.measure.stage.toNat
    if t ≤ c ∨ 7 < t then s.refuse .stageOrder
    else
      let todo := s.advanceList c t
      (todo.foldl State.freeze s.wait).advanceRun { target := t, todo := [], done := [], mismatched := 0 } todo
  else s.refuse .malformed

/-- STAGE ADVANCE. -/
def execStageAdvance (s : State) : Host.Outcome State Fault Refusal := .next (s.take .stageAdvance s.stageAdvance)

/-- The extend mask of a slot: FFh in FACTORY (05 R82). -/
def State.extendMask (s : State) (n : Nat) : Byte :=
  if s.isField then (s.checker.layout.map (fun l => byteAt l.extendMasks n)).getD 0 else 0xFF

/-- MEASURE EXTEND (05 R82). -/
def State.measureExtend (s : State) (body : Bytes) : State :=
  let n := (byteAt body 0).toNat
  if body.length = 33 ∧ n ≤ 7 then
    if s.stageIn (s.extendMask n) then
      let s1 := s.extend n .soc 0 s.measure.stage.toNat (digestAt body 1)
      let index := if s.measure.log.length < logCapacity then s.measure.log.length else 255
      s1.finish .ok (bytes1 n ++ digestBytes (s1.measure.slot n) ++ bytes1 index)
    else s.refuse .stage
  else s.refuse .malformed

/-- MEASURE EXTEND. -/
def execMeasureExtend (s : State) : Host.Outcome State Fault Refusal := .next (s.take .measureExtend s.measureExtend)

/-- The stage history: stage, uptime at entry and log length at entry of each entry. -/
def Measure.historyBytes (m : Measure) : Bytes :=
  m.history.flatMap (fun h => bytes1 h.stage ++ bytes32 h.uptime ++ bytes1 h.logLength)

/-- MEASURE READ (05 R83). -/
def State.measureRead (s : State) (body : Bytes) : State :=
  let m := s.measure
  if body = [] then
    s.finish .ok (bytes1 m.stage.toNat ++ bytes1 m.log.length ++ [flagByte m.truncated] ++ bytes1 m.history.length ++
      m.historyBytes ++ m.slots.toList.flatMap digestBytes)
  else s.refuse .malformed

/-- MEASURE READ. -/
def execMeasureRead (s : State) : Host.Outcome State Fault Refusal := .next (s.take .measureRead s.measureRead)

/-- A log entry as LOG READ returns it, with its index. -/
def LogEntry.bytes (e : LogEntry) (index : Nat) : Bytes :=
  bytes1 index ++ bytes1 e.slot ++ [e.kind.code] ++ bytes1 e.index ++ bytes1 e.stage ++ digestBytes e.digest

/-- LOG READ (05 R84). -/
def State.logRead (s : State) (body : Bytes) : State :=
  let i := (byteAt body 0).toNat
  if body.length = 1 ∧ i ≤ 63 then
    let m := s.measure
    let entries := (m.log.drop i).take 55
    s.finish .ok (bytes1 m.log.length ++ [flagByte m.truncated] ++ bytes1 i ++ bytes1 entries.length ++
      (entries.zipIdx i).flatMap (fun e => e.1.bytes e.2))
  else s.refuse .malformed

/-- LOG READ. -/
def execLogRead (s : State) : Host.Outcome State Fault Refusal := .next (s.take .logRead s.logRead)

end Sys2Proof.Machine
end

