-- ==== Sys2Proof/Machine/Keys.lean ====
section
/-! DEFINITION. The Key Store (07): conditions on use, and the commands KEY CREATE, PUBLIC, SIGN, DERIVE,
DESTROY and LIST. -/

namespace Sys2Proof.Machine

/-- The key a general slot holds. -/
def Keys.held (k : Keys) (n : Nat) : Option KeyRecord := (k.slots[n]?).join

/-- A slot's number is in the disabled set (07 R114). -/
def Keys.isDisabled (k : Keys) (n : Nat) : Bool := inSet k.disabled n

/-- The state with the key of a general slot set or removed. -/
def State.putKey (s : State) (n : Nat) (k : Option KeyRecord) : State :=
  { s with keys := { s.keys with slots := s.keys.slots.setIfInBounds n k } }

/-- The Key Store is told of a new owner epoch (07 R115): OWNER-class keys of other epochs are lost. -/
def State.keyEpoch (s : State) (epoch : Word32) : State :=
  { s with keys := { s.keys with slots := s.keys.slots.map (fun x => match x with
      | some k => if k.cls = .owner ∧ k.epoch ≠ epoch then none else some k
      | none => none) } }

/-- Containment keeps a key from use: OWNER class, or PLATFORM class with contained-ok clear (07 R105 test 7). -/
def KeyRecord.stoppedByContainment (k : KeyRecord) : Bool := k.cls == .owner || !k.containedOk

/-- Tests 2 ~ 8 of R105 for a use of slot `n` that needs `usage`; the key where all pass. -/
def State.keyUse (s : State) (n : Nat) (usage : KeyUsage → Bool) : Except Result KeyRecord :=
  if n ≤ 1 then .error .wrongKind
  else match s.keys.held n with
    | none => if s.keys.isDisabled n then .error .slotState else .error .notFound
    | some k =>
      if s.keys.isDisabled n then .error .slotState
      else if !usage k.usage then .error .wrongKind
      else if !s.stageIn k.stageMask then .error .stage
      else if s.contained && k.stoppedByContainment then .error .contained
      else if k.needsGrant && !s.granted then .error .grant
      else .ok k

/-- The conditions tested again when the Signature Unit completes a use (07 R106). -/
def State.keyRecheck (s : State) (n : Nat) (k : KeyRecord) : Option Result :=
  if s.keys.isDisabled n then some .slotState
  else if s.contained && k.stoppedByContainment then some .contained
  else if k.needsGrant && !s.granted then some .grant
  else none

def KeyUsage.isSign : KeyUsage → Bool
  | .sign _ => true
  | .derive _ => false

def KeyUsage.isDerive : KeyUsage → Bool
  | .sign _ => false
  | .derive _ => true

/-- The body of KEY CREATE has its form (07 R107 (1)). -/
def keyCreateFormOk (body : Bytes) : Bool :=
  let bind := byteAt body 5
  decide (body.length = 6) && decide ((byteAt body 0).toNat ≤ 15) && decide ((byteAt body 1).toNat ≤ 1) &&
  decide ((byteAt body 2).toNat ≤ 1) && decide ((byteAt body 4).toNat ≤ 3) &&
  (bind == 0xFF || (decide (bind.toNat ≤ 7) && byteAt body 2 == 1))

/-- KEY CREATE (07 R107): the key is generated by the Signature Unit. -/
def State.keyCreate (s : State) (body : Bytes) : State :=
  if keyCreateFormOk body then
    let n := (byteAt body 0).toNat
    let cls : KeyClass := if byteAt body 1 = 0 then .platform else .owner
    if n ≤ 1 then s.refuse .wrongKind
    else if s.keys.isDisabled n || (s.keys.held n).isSome then s.refuse .slotState
    else if !s.stageIn (byteAt body 3) then s.refuse .stage
    else if s.contained then s.refuse .contained
    else if cls == .owner && !s.granted then s.refuse .grant
    else
      let bind := if byteAt body 5 = 0xFF then none else some (byteAt body 5).toNat
      let job := .createKey n cls (byteAt body 2 == 0) (byteAt body 3) ((byteAt body 4).getLsbD 0)
        ((byteAt body 4).getLsbD 1) bind
      { s.wait with signature := some job }
  else s.refuse .malformed

/-- KEY_CREATE. -/
def execKeyCreate (s : State) : Host.Outcome State Fault Refusal := .next (s.take .keyCreate s.keyCreate)

/-- The slot of a one-byte body, 0 ~ 15. -/
def keySlot (body : Bytes) : Option Nat :=
  if body.length = 1 ∧ (byteAt body 0).toNat ≤ 15 then some (byteAt body 0).toNat else none

/-- The public key of a slot, or the result that refuses it (07 R109). -/
def State.slotPublic (s : State) (n : Nat) : Except Result Pair :=
  if n = 0 then .ok s.keys.identity.publicKey
  else if n = 1 then (match s.keys.authority with
    | some k => .ok k
    | none => .error .notFound)
  else match s.keys.held n with
    | some k => (match k.usage with
      | .sign pub => .ok pub
      | .derive _ => .error .wrongKind)
    | none => .error .notFound

/-- KEY PUBLIC (07 R109). -/
def State.keyPublic (s : State) (body : Bytes) : State :=
  match keySlot body with
  | none => s.refuse .malformed
  | some n => match s.slotPublic n with
    | .ok pub => s.finish .ok (bytes1 n ++ pairBytes pub)
    | .error r => s.refuse r

/-- KEY_PUBLIC. -/
def execKeyPublic (s : State) : Host.Outcome State Fault Refusal := .next (s.take .keyPublic s.keyPublic)

/-- KEY SIGN (07 R105, R110). -/
def State.keySign (s : State) (body : Bytes) : State :=
  let n := (byteAt body 0).toNat
  if body.length = 33 ∧ n ≤ 15 then
    match s.keyUse n KeyUsage.isSign with
    | .ok k => { s.wait with signature := some (.sign n k (digestAt body 1)) }
    | .error r => s.refuse r
  else s.refuse .malformed

/-- KEY_SIGN. -/
def execKeySign (s : State) : Host.Outcome State Fault Refusal := .next (s.take .keySign s.keySign)

/-- The message a DERIVE key is applied to: the label, and the bound measurement slot's value (07 R111). -/
def State.deriveMessage (s : State) (k : KeyRecord) (label : Bytes) : Bytes :=
  match k.usage with
  | .derive (some n) => label ++ digestBytes (s.measure.slot n)
  | _ => label

/-- KEY DERIVE (07 R105, R111). -/
def State.keyDerive (s : State) (body : Bytes) : State :=
  let n := (byteAt body 0).toNat
  if 2 ≤ body.length ∧ body.length ≤ 257 ∧ n ≤ 15 then
    match s.keyUse n KeyUsage.isDerive with
    | .ok k => { s.wait with signature := some (.derive n k (s.deriveMessage k (body.drop 1))) }
    | .error r => s.refuse r
  else s.refuse .malformed

/-- KEY_DERIVE. -/
def execKeyDerive (s : State) : Host.Outcome State Fault Refusal := .next (s.take .keyDerive s.keyDerive)

/-- KEY DESTROY (07 R112). -/
def State.keyDestroy (s : State) (body : Bytes) : State :=
  match keySlot body with
  | none => s.refuse .malformed
  | some n =>
    if n ≤ 1 then s.refuse .wrongKind
    else match s.keys.held n with
      | none => s.refuse .notFound
      | some k =>
        if s.keys.isDisabled n then s.refuse .slotState
        else if !s.stageIn k.stageMask then s.refuse .stage
        else if s.contained && k.stoppedByContainment then s.refuse .contained
        else if (k.cls == .owner || k.needsGrant) && !s.granted then s.refuse .grant
        else s.wait.place (.keyDestroy n) true

/-- KEY_DESTROY. -/
def execKeyDestroy (s : State) : Host.Outcome State Fault Refusal := .next (s.take .keyDestroy s.keyDestroy)

/-- The KEY LIST record of a slot (07 R113). -/
def State.keyListRecord (s : State) (n : Nat) : Bytes :=
  if n = 0 then [0, 1, 0xFF, 0, 0, 4, 0xFF]
  else if n = 1 then
    (if s.keys.authority.isSome then [1, 1, 0xFF, 2, 0, 4, 0xFF] else [1, 0, 0xFF, 0xFF, 0, 0, 0xFF])
  else
    let disabled := s.keys.isDisabled n
    match s.keys.held n with
    | some k =>
      [BitVec.ofNat 8 n, if disabled then 2 else 1, k.cls.code, k.usage.code, k.stageMask, k.flags ||| 4, k.usage.bindByte]
    | none => [BitVec.ofNat 8 n, if disabled then 2 else 0, 0xFF, 0xFF, 0, 0, 0xFF]

/-- KEY_LIST (R113). -/
def execKeyList (s : State) : Host.Outcome State Fault Refusal :=
  .next (s.take .keyList (fun _ =>
    s.finish .ok ((List.range 16).flatMap s.keyListRecord ++ bytes32 s.journal.epoch)))

end Sys2Proof.Machine
end

