-- ==== Sys2Proof/Machine/Reset.lean ====
section
/-! DEFINITION. Supply, Time Base, the Reset Controller's lines, pulses and owner reset (04), the SoC reset
actions of every block (04 R55), the grant timer, and RESET SOC and CAUSE CLEAR. -/

namespace Sys2Proof.Machine

/-! ### Supply -/

/-- The part at power-on (04 R57): anchor memory, flash, line levels and the waiting commands stand; every
volatile item takes its initial value. `fresh` goes on, so that no random value is drawn twice. -/
def State.powerOn (s : State) : State :=
  { pending := s.pending
    powered := true
    lines := s.lines
    port := Port.initial
    arbiter := Arbiter.initial
    flash := s.flash
    checker := Checker.initial s.anchor.lifeCycle
    window := Window.initial
    time := TimeBase.initial
    rst := ResetController.initial s.anchor.haltCount
    measure := Measure.initial
    anchor := { s.anchor with writes := [] }
    journal := Journal.initial s.anchor.deviceSecret
    keys := Keys.initial s.anchor.deviceSecret
    signature := none
    fresh := s.fresh
    creds := Creds.initial
    update := Update.initial
    response := Response.initial }

/-- POWER_ON (R57). -/
def execPowerOn (s : State) : Host.Outcome State Fault Refusal := .next s.powerOn

/-- The addresses that the flash operations in progress or suspended change. -/
def Arbiter.changing (a : Arbiter) (addr : Nat) : Bool :=
  (match a.grant with
    | .socWrite w => w.op.touches addr
    | .internal _ op => op.touches addr
    | _ => false) ||
  (match a.suspended with
    | some (_, op) => op.touches addr
    | none => false)

/-- The loss of supply (06 R100, 01 R17): the operations in progress leave torn bytes only where they
worked; writes to anchor memory not complete leave the old value (06 R86). -/
def State.loseSupply (s : State) (torn : FlashCells) : State :=
  { s.powerOn with powered := false, flash := s.flash.patch s.arbiter.changing torn }

/-- LOSS_OF_SUPPLY (R100). -/
def execLossOfSupply (torn : FlashCells) (s : State) : Host.Outcome State Fault Refusal :=
  .next (s.whenPowered (s.loseSupply torn))

/-- UPTIME_TICK (R54): the second ends and the uptime takes it; it wraps after FFFFFFFFh. -/
def execUptimeTick (s : State) : Host.Outcome State Fault Refusal :=
  .next (s.whenPowered { s with time := {
    uptime := s.time.uptime + 1, clock := (s.time.clock / 1000 + 1) * 1000 } })

/-! ### The SoC reset (04 R55) -/

/-- The Window Controller at the assertion (03 R48, R51). -/
def Window.socReset (w : Window) : Window :=
  { w with engine := .idle, request := [], tag := 0, result := 0xFF, body := [], overrun := false,
           command := none, mask := 0xFF }

/-- The Region Checker at the assertion (02 R31, R32, R35, R38), for the STAGE regions of the layout in
force. -/
def Checker.socReset (c : Checker) (stages : BitVec 16) (factory : Bool) : Checker :=
  { c with freezeSet := c.freezeSet &&& stages, hideSet := 0, openMapping := factory,
           regionCounters := Vector.replicate 16 0, unmappedCounter := 0, allCounter := 0 }

/-- An open update session is abandoned (09 R143): IDLE, the STAGE regions leave the freeze set, and the
EMPTY entry is placed. -/
def State.abandonSession (s : State) : State :=
  let s1 := { s with update := { s.update with session := .idle, verification := .none } }
  if s.update.session.isOpen then ((s1.withdraw .update).thawStages).place .sessionAbandon false else s1

/-- The SoC Port drops its transaction and the WEL is cleared (01 R4, R6); a suspended operation is resumed
and a deferred write forwarded (01 R17). -/
def State.dropTransaction (s : State) : State :=
  State.portIdle { s with port := { s.port with decode := none, wel := false, waitHigh := false } }

/-- The assertion of SOC_RST from RUN: every block takes its SoC reset actions (04 R55). -/
def State.assertReset (s : State) : State :=
  let s1 := s.dropTransaction.withdraw .measure
  State.abandonSession { s1 with
    window := s1.window.socReset
    checker := s1.checker.socReset s1.stageRegions (!s1.isField)
    measure := { s1.measure with mismatches := 0, advance := none, current := none }
    signature := none
    creds := { s1.creds with grant := none }
    update := { s1.update with running := false, timer := none }
    response := { s1.response with fired := 0 }
    journal := s1.journal.orphan }

/-- The Reset Controller goes to another state. -/
def State.inReset (s : State) (st : ResetState) : State := { s with rst := { s.rst with state := st } }

/-! ### Lines -/

/-- REQUEST is entered and recorded (04 R60). -/
def State.enterRequest (s : State) : State :=
  State.recordCause { s with rst := { s.rst with state := .request, pulse := none, pulseWait := false } } .request

/-- RST_REQ falls (04 R60). -/
def State.requestAsserted (s : State) : State :=
  match s.rst.state with
  | .check => s.abandonCheck.enterRequest
  | .run => s.assertReset.enterRequest
  | .pulse => s.enterRequest
  | .start | .request | .halt => s

/-- RST_REQ_ASSERTED (R60). The level is tracked without supply too. -/
def execRstReqAsserted (s : State) : Host.Outcome State Fault Refusal :=
  .next (if s.lines.rstReq then s
    else
      let s1 := { s with lines := { s.lines with rstReq := true } }
      s1.whenPowered s1.requestAsserted)

/-- RST_REQ_DEASSERTED (R60): from REQUEST the Reset Controller enters CHECK. -/
def execRstReqDeasserted (s : State) : Host.Outcome State Fault Refusal :=
  .next (if s.lines.rstReq then
      let s1 := { s with lines := { s.lines with rstReq := false } }
      s1.whenPowered (if s1.rst.state = .request then s1.enterCheck else s1)
    else s)

/-! ### Pulses -/

/-- The length of a device-driven pulse in milliseconds (04 R61). -/
def pulseSpan : Nat := 20

/-- PULSE is entered (04 R61). `wait` is set for an owner-reset pulse with an epoch request (04 R62). -/
def State.enterPulse (s : State) (wait : Bool) : State :=
  { s with rst := { s.rst with state := .pulse, pulse := some (s.timer pulseSpan), pulseWait := wait } }

/-- A device-driven pulse asked for in RUN (04 R61). -/
def State.startPulse (s : State) (c : ResetCause) : State := ((s.recordCause c).assertReset).enterPulse false

/-- An owner-epoch request is held, queued or in progress. Where a second owner reset has come during an
owner-reset pulse, the pulse waits for both requests (DESIGN CHOICE, log entry 43). -/
def State.epochOutstanding (s : State) : Bool := s.journal.anyRequest (fun p => p == .ownerEpoch)

/-- A pulse whose time has passed ends when the epoch request, if it waits for one, has been written
(04 R62). -/
def State.endPulse (s : State) : State :=
  if s.rst.state = .pulse ∧ s.rst.pulse = none ∧ (s.rst.pulseWait && s.epochOutstanding) = false then s.enterCheck
  else s

/-- A timer that is running has run out. -/
def State.expired (s : State) (t : Option Timer) : Bool :=
  match t with
  | some t => t.due s.time.clock
  | none => false

/-- PULSE_END (R61): the pulse timer has run out. -/
def execPulseEnd (s : State) : Host.Outcome State Fault Refusal :=
  .next (s.whenPowered
    (if s.rst.state = .pulse && s.expired s.rst.pulse then
      State.endPulse { s with rst := { s.rst with pulse := none } }
    else s))

/-! ### OWNER_CLR (04 R62) -/

/-- The hold time of the owner reset, in seconds. -/
def holdSeconds : Nat := 10

/-- OWNER_CLR_ASSERTED (R62): the hold timer starts, except in START. -/
def execOwnerClrAsserted (s : State) : Host.Outcome State Fault Refusal :=
  .next (if s.lines.ownerClr then s
    else
      let s1 := { s with lines := { s.lines with ownerClr := true } }
      s1.whenPowered (if s1.rst.state = .start then s1
        else { s1 with rst := { s1.rst with hold := some (s1.seconds holdSeconds) } }))

/-- OWNER_CLR_DEASSERTED (R62): a hold timer that has not expired is discarded. -/
def execOwnerClrDeasserted (s : State) : Host.Outcome State Fault Refusal :=
  .next (if s.lines.ownerClr then
      let s1 := { s with lines := { s.lines with ownerClr := false } }
      s1.whenPowered { s1 with rst := { s1.rst with hold := none } }
    else s)

/-- The hold timer expires (04 R62, 08 R139): OWNER_RESET is recorded, in FIELD the epoch request is made and
the grant cleared, and the state changes. -/
def State.ownerReset (s : State) : State :=
  let s1 := State.recordCause { s with rst := { s.rst with hold := none } } .ownerReset
  let s2 := if s.isField then (s1.place .ownerEpoch false).clearGrant else s1
  match s2.rst.state with
  | .run => (s2.assertReset).enterPulse s.isField
  | .check => (s2.abandonCheck).enterPulse s.isField
  | .start | .pulse | .request | .halt => s2

/-- OWNER_RESET (R62): the hold timer has run out. -/
def execOwnerReset (s : State) : Host.Outcome State Fault Refusal :=
  .next (s.whenPowered (if s.expired s.rst.hold then s.ownerReset else s))

/-! ### Timers of the other blocks that end in the Reset Controller or the grant -/

/-- TRIAL_TIMER_EXPIRY (R155): in RUN a pulse with cause TRIAL_EXPIRY. -/
def execTrialTimerExpiry (s : State) : Host.Outcome State Fault Refusal :=
  .next (s.whenPowered
    (if s.rst.state = .run && s.expired s.update.timer then s.startPulse .trialExpiry else s))

/-- GRANT_EXPIRY (R120). -/
def execGrantExpiry (s : State) : Host.Outcome State Fault Refusal :=
  .next (s.whenPowered (if s.expired s.creds.grant then s.clearGrant else s))

/-! ### Commands -/

/-- RESET SOC (04 R64): the assertion abandons the command, so no response is posted. -/
def State.resetSoc (s : State) (body : Bytes) : State :=
  if body = [] then (if s.rst.state = .run then s.startPulse .command else s) else s.refuse .malformed

/-- RESET_SOC. -/
def execResetSoc (s : State) : Host.Outcome State Fault Refusal := .next (s.take .resetSoc s.resetSoc)

/-- The CAUSE CLEAR body: boot counter, last cause, six counts (04 R65). -/
def ResetController.record (r : ResetController) : Bytes :=
  bytes32 r.bootCounter ++ [r.lastCause.code] ++ r.counts.toList.flatMap bytes16

/-- CAUSE CLEAR (04 R65). -/
def State.causeClear (s : State) (body : Bytes) : State :=
  if body = [] then s.finish .ok s.rst.record
  else if body.length = 4 then
    if word32At body 0 = s.rst.bootCounter then
      let r := { s.rst with counts := Vector.replicate 6 0 }
      State.finish { s with rst := r, anchor := { s.anchor with haltCount := 0 } } .ok r.record
    else s.refuse .staleClear
  else s.refuse .malformed

/-- CAUSE_CLEAR. -/
def execCauseClear (s : State) : Host.Outcome State Fault Refusal := .next (s.take .causeClear s.causeClear)

end Sys2Proof.Machine
end

