-- ==== Sys2Proof/Machine/Update.lean ====
section
/-! DEFINITION. The Update Controller (09): manifests, the session and its verification, and the commands
UPDATE OPEN, VERIFY, STATUS, COMMIT, ABORT and CONFIRM. -/

namespace Sys2Proof.Machine

/-! ### Manifests -/

/-- The target count of a manifest body. -/
def manifestTargets (body : Bytes) : Nat := (byteAt body 6).toNat

/-- The length of the layout block a manifest carries; 0 when none. -/
def manifestBlockLength (body : Bytes) : Nat := field body (7 + 37 * manifestTargets body) 2

/-- The layout block a manifest carries. -/
def manifestBlock (body : Bytes) : Bytes := slice body (9 + 37 * manifestTargets body) (manifestBlockLength body)

/-- The body has the form of a manifest (09 R144 (1)). -/
def manifestFormOk (body : Bytes) : Bool :=
  let t := manifestTargets body
  decide (body.length ≤ 2040) && byteAt body 0 == 1 && (byteAt body 5 &&& 0xFE) == 0 &&
  decide (1 ≤ t) && decide (t ≤ 4) && decide (body.length = 9 + 37 * t + manifestBlockLength body + 64) &&
  (manifestBlockLength body == 0 || blockFormOk (manifestBlock body))

/-- The targets of a manifest. -/
def manifestTargetList (body : Bytes) : List Target :=
  (List.range (manifestTargets body)).map (fun k =>
    let off := 7 + 37 * k
    { region := (byteAt body off).toNat, length := field body (off + 1) 4, digest := digestAt body (off + 5) })

/-- The signature over every byte before it verifies under the authority key; an EMPTY slot 1 fails
(07 R103, 09 R144 (5)). -/
def State.manifestSigned (s : State) (body : Bytes) : Bool :=
  let n := body.length - 64
  match s.keys.authority with
  | some key => ecdsaVerify key (sha256 (body.take n)) (pairAt body n)
  | none => false

/-- The targets are exactly the BANKED regions of the layout in force, in increasing index, each image
within its region (09 R144 (6)). -/
def targetsOk (l : Layout) (targets : List Target) : Bool :=
  targets.map Target.region == l.banked &&
  targets.all (fun t => match l.region? t.region with
    | some r => decide (t.length ≤ r.length)
    | none => false)

/-- The layout a manifest's block holds, where it passes 09 R144 (8) against the layout in force. -/
def acceptBlock (l : Layout) (block : Bytes) : Option Layout :=
  match Layout.parse block with
  | some m => if m.valid && m.capacity == l.capacity && m.sameBanked l then some m else none
  | none => none

/-- Tests 5 ~ 8 of R144: the result of the first that fails, or the manifest's fields. -/
def State.judgeManifest (s : State) (body : Bytes) : Except Result Manifest :=
  if !s.manifestSigned body then .error .signature
  else match s.checker.layout with
    | none => .error .malformed
    | some l =>
      let targets := manifestTargetList body
      if !targetsOk l targets then .error .malformed
      else if (word32At body 1).toNat < s.anchor.floor.toNat then .error .version
      else
        let m : Manifest :=
          { version := word32At body 1, raiseFloor := (byteAt body 5).getLsbD 0, targets := targets, layout := none }
        if manifestBlockLength body = 0 then .ok m
        else match acceptBlock l (manifestBlock body) with
          | some new => .ok { m with layout := some new }
          | none => .error .layout

/-- The update stage mask of the layout in force. -/
def State.updateMask (s : State) : Byte := (s.checker.layout.map Layout.updateMask).getD 0

/-- UPDATE OPEN as it is taken (09 R144): tests 1 ~ 4; then the Signature Unit works. -/
def State.updateOpen (s : State) (body : Bytes) : State :=
  if !manifestFormOk body then s.refuse .malformed
  else if !s.stageIn s.updateMask then s.refuse .stage
  else if s.update.session.isOpen then s.refuse .session
  else if s.update.record.trialPending then s.refuse .trialPending
  else { s.wait with signature := some (.manifest body) }

/-- UPDATE_OPEN. -/
def execUpdateOpen (s : State) : Host.Outcome State Fault Refusal := .next (s.take .updateOpen s.updateOpen)

/-! ### Verification -/

/-- The physical base of a target: that of its region's bank that is not presented (09 R147). -/
def State.targetBase (s : State) (t : Target) : Nat :=
  match s.checker.layout.bind (fun l => l.region? t.region) with
  | some r => r.bankBase s.inactiveBank
  | none => 0

/-- Every target matched (09 R148). -/
def State.verifyPassed (s : State) (m : Manifest) : State :=
  State.raise { s with update := { s.update with session := .verified m, verification := .verified } } .update

/-- A target mismatched (09 R148). -/
def State.verifyFailed (s : State) (t : Target) : State :=
  State.raise (State.thawStages { s with update := { s.update with
    session := .idle, verification := .rejected t.region } }) .update

/-- The verification goes on with its targets: one of length 0 is compared at once, the first other asks for
its first chunk; with none left it has passed (09 R147). -/
def State.verifyRun (s : State) (m : Manifest) (hashed : Nat) : List Target → State
  | [] => s.verifyPassed m
  | t :: rest =>
    if t.length = 0 then
      (if sha256 [] = t.digest then s.verifyRun m hashed rest else s.verifyFailed t)
    else State.askFlash
      { s with update := { s.update with session := .verifying m { todo := t :: rest, fed := [] } hashed } }
      .update (nextChunk (s.targetBase t) t.length 0)

/-- A chunk of the target being hashed completes (09 R147). -/
def State.verifyChunk (s : State) (bs : Bytes) : State :=
  match s.update.session with
  | .verifying m v hashed =>
    match v.todo with
    | [] => s
    | t :: rest =>
      let fed := v.fed ++ bs
      let count := hashed + bs.length
      if fed.length < t.length then
        State.askFlash
          { s with update := { s.update with session := .verifying m { todo := t :: rest, fed := fed } count } }
          .update (nextChunk (s.targetBase t) t.length fed.length)
      else if sha256 fed = t.digest then s.verifyRun m count rest
      else s.verifyFailed t
  | _ => s

/-- UPDATE VERIFY (09 R147): VERIFYING, the STAGE regions frozen, STARTED at once. -/
def State.updateVerify (s : State) (body : Bytes) : State :=
  if body = [] then
    match s.update.session with
    | .staging m =>
      let s1 : State := { s with
        update := { s.update with session := .verifying m { todo := m.targets, fed := [] } 0 }
        checker := { s.checker with freezeSet := s.checker.freezeSet ||| s.stageRegions } }
      (s1.finish .started []).verifyRun m 0 m.targets
    | _ => s.refuse .session
  else s.refuse .malformed

/-- UPDATE_VERIFY. -/
def execUpdateVerify (s : State) : Host.Outcome State Fault Refusal := .next (s.take .updateVerify s.updateVerify)

/-! ### Status -/

/-- The manifest a session holds. -/
def Session.manifest : Session → Option Manifest
  | .idle => none
  | .staging m => some m
  | .verifying m _ _ => some m
  | .verified m => some m

/-- The bytes a manifest's targets hold in all. -/
def Manifest.total (m : Manifest) : Nat := (m.targets.map Target.length).sum

/-- The bytes hashed and the total (09 R149); both 0 before VERIFY and in IDLE. -/
def Session.progress : Session → Nat × Nat
  | .idle => (0, 0)
  | .staging _ => (0, 0)
  | .verifying m _ hashed => (hashed, m.total)
  | .verified m => (m.total, m.total)

/-- The index of the target that failed, or FFh. -/
def Verification.failed : Verification → Byte
  | .rejected r => BitVec.ofNat 8 r
  | .none => 0xFF
  | .verified => 0xFF

/-- The UPDATE STATUS body (09 R149). -/
def State.updateStatusBody (s : State) : Bytes :=
  let u := s.update
  let r := u.record
  [u.session.code, u.verification.code, u.verification.failed] ++
    bytes32 ((u.session.manifest.map Manifest.version).getD 0) ++
    beBytes 4 u.session.progress.1 ++ beBytes 4 u.session.progress.2 ++
    [s.trialCode] ++ bytes1 r.attempts ++ beBytes 2 (remainingSeconds u.timer s.time.clock) ++
    [r.outcome.code, r.active.code, u.presented.code] ++
    [r.bankA.state.code] ++ bytes32 r.bankA.version ++ [r.bankB.state.code] ++ bytes32 r.bankB.version ++
    bytes32 s.anchor.floor

/-- The verification result is REJECTED. -/
def Verification.isRejected : Verification → Bool
  | .rejected _ => true
  | .none => false
  | .verified => false

/-- UPDATE_STATUS (R149): DIGEST while REJECTED stands, else OK. -/
def execUpdateStatus (s : State) : Host.Outcome State Fault Refusal :=
  .next (s.take .updateStatus (fun _ =>
    s.finish (if s.update.verification.isRejected then .digest else .ok) s.updateStatusBody))

/-! ### Commit, abort, confirm -/

/-- The session ends (09 R150, R151): IDLE, NONE, the STAGE regions leave the freeze set; a verification in
progress stops. -/
def State.endSession (s : State) : State :=
  (State.withdraw { s with update := { s.update with session := .idle, verification := .none } } .update).thawStages

/-- UPDATE COMMIT (09 R151). -/
def State.updateCommit (s : State) (body : Bytes) : State :=
  if body = [] then
    match s.update.session with
    | .verified m => s.endSession.wait.place (.updateCommit m) true
    | _ => s.refuse .session
  else s.refuse .malformed

/-- UPDATE_COMMIT. -/
def execUpdateCommit (s : State) : Host.Outcome State Fault Refusal := .next (s.take .updateCommit s.updateCommit)

/-- UPDATE ABORT (09 R150). -/
def State.updateAbort (s : State) (body : Bytes) : State :=
  if body = [] then
    (if s.update.session.isOpen then s.endSession.wait.place .updateAbort true else s.refuse .session)
  else s.refuse .malformed

/-- UPDATE_ABORT. -/
def execUpdateAbort (s : State) : Host.Outcome State Fault Refusal := .next (s.take .updateAbort s.updateAbort)

/-- UPDATE CONFIRM (09 R156). -/
def State.updateConfirm (s : State) (body : Bytes) : State :=
  if body = [] then
    if !s.update.running then s.refuse .session
    else if s.measure.stage.toNat < ((s.checker.layout.map Layout.confirmStage).getD 0) then s.refuse .stage
    else if s.contained then s.refuse .contained
    else (State.wait { s with update := { s.update with timer := none } }).place .updateConfirm true
  else s.refuse .malformed

/-- UPDATE_CONFIRM. -/
def execUpdateConfirm (s : State) : Host.Outcome State Fault Refusal := .next (s.take .updateConfirm s.updateConfirm)

/-! ### Trial fallbacks (09 R158) -/

/-- A trial fallback is counted, the change offered, TRIAL raised. -/
def State.countFallback (s : State) : State :=
  let c := s.update.fallbacks
  (State.offerChange { s with update := { s.update with fallbacks := bump c } } .fallbacks c (bump c)).raise .trial

end Sys2Proof.Machine
end

