-- ==== Sys2Proof/Machine/Answers.lean ====
section
/-! DEFINITION. What the answer to a store request does, by its purpose (06 R90): the owner takes the change
on OK, the waiting command or check goes on. -/

namespace Sys2Proof.Machine

/-- A waiting command completes; one that was abandoned gets no response (03 R48). -/
def State.finishIf (s : State) (live : Bool) (r : Result) (body : Bytes) : State :=
  if live then s.finish r body else s

/-- The Update Controller's copy takes the change of an answered request (09 R142). -/
def State.takeRecord (s : State) (q : StoreRequest) : State :=
  match q.record with
  | some r => { s with update := { s.update with record := r } }
  | none => s

/-- The VERIFIER record that a count entry of an epoch was written for; none when it has been removed (log entry 29).
Where an abandoned CRED STORE has replaced it, a SECRET counts as its removal, and another VERIFIER of the epoch takes
its place (DESIGN CHOICE, log entry 55). -/
def State.countedRecord (s : State) (id : Nat) (epoch : Word32) : Option (CredRecord × Verifier) :=
  match s.creds.get id with
  | some r => match r.content with
    | .verifier v => if r.epoch = epoch then some (r, v) else none
    | .secret _ => none
  | none => none

/-- KEY CREATE is answered OK (07 R108). A key that an abandoned KEY CREATE installed meanwhile is replaced (DESIGN
CHOICE, log entry 58). -/
def State.keyCreated (s : State) (live : Bool) (n : Nat) (k : KeyRecord) : State :=
  let s1 := if k.cls = .owner ∧ k.epoch ≠ s.journal.epoch then s else s.putKey n (some k)
  s1.finishIf live .ok (bytes1 n ++ (match k.usage with
    | .sign pub => pairBytes pub
    | .derive _ => []))

/-- CRED STORE is answered OK (08 R123). -/
def State.credStored (s : State) (live : Bool) (id : Nat) (c : Credential) (epoch : Word32) : State :=
  let s1 :=
    if epoch = s.journal.epoch then
      let s2 := s.putCred id (some { content := c, epoch := epoch, count := 0, delayTimer := none, decayTimer := none, restored := 0 })
      let s3 := match s.creds.get id with
        | some old => s2.offerCount id old.count 0
        | none => s2
      s3.settleOwnership s.claimed
    else s
  s1.finishIf live .ok (bytes1 id ++ [s1.ownership])

/-- A removal of a credential is answered OK (08 R133, R134). -/
def State.credErased (s : State) (live : Bool) (id : Nat) : State :=
  let s1 := s.removeCred id
  s1.finishIf live .ok (bytes1 id ++ [s1.ownership])

/-- The guess of a durable count differs from the verifier, or was never compared (08 R128, R129): the
delay starts. -/
def State.guessFailed (s : State) (live : Bool) (id : Nat) (count : Byte) (v : Verifier) : State :=
  (s.startDelay id).finishIf live .mismatch (bytes1 id ++ [count] ++ beBytes 4 (v.delayAt count.toNat))

/-- The count entry of a guess is durable (08 R126): the count is taken and offered, then the candidate is
compared unless the command was abandoned. A delay that an abandoned command's entry started meanwhile does not
keep it from the comparison (DESIGN CHOICE, log entry 37). -/
def State.countWritten (s : State) (live : Bool) (id : Nat) (count : Byte) (epoch : Word32) (candidate : Bytes) : State :=
  match s.countedRecord id epoch with
  | none => s.finishIf live .notFound []
  | some (r, v) =>
    let s1 := (s.putCred id (some { r with count := count })).offerCount id r.count count
    if live && saltedDigest v.salt candidate == v.verifier then s1.place (.credMatch id epoch) true
    else s1.guessFailed live id count v

/-- The grant a match gives (08 R119, R127). -/
def State.matchGrant (s : State) (live : Bool) (v : Verifier) : State :=
  if live && v.ownerGate && s.claimed && !s.contained then
    { s with creds := { s.creds with grant := some (s.seconds s.grantTime) } }
  else s

/-- The count of 0 of a match is durable (08 R127, R129). -/
def State.matchWritten (s : State) (live : Bool) (id : Nat) (epoch : Word32) : State :=
  match s.countedRecord id epoch with
  | none => s.finishIf live .notFound []
  | some (r, v) =>
    let s1 := (s.putCred id (some { r with count := 0, delayTimer := none, decayTimer := none })).offerCount id r.count 0
    let s2 := s1.matchGrant live v
    let grant := if live && v.ownerGate && s1.claimed && !s1.contained then s2.grantSeconds else 0
    s2.finishIf live .match_ (bytes1 id ++ [0] ++ beBytes 2 grant)

/-- The check goes on after its trial entry (09 R153): `ok` with the attempt consumed, else under the latch
with the active bank. -/
def State.trialDecided (s : State) (live ok attempt : Bool) : State :=
  let waiting := live && s.rst.check == .waitEntry
  let s1 := if waiting then (if ok && attempt then s.presentTrial else s.presentActive) else s
  let s2 := if ok && !attempt then s1.countFallback else s1
  if waiting then s2.startPass false else s2

/-- A fallback entry is answered (09 R154, 05 R76). `trial` says that it ended a trial. -/
def State.fellBack (s : State) (live ok trial : Bool) (bank : Bank) : State :=
  let waiting := live && s.rst.check == .waitFallback
  if ok then
    let s1 := if waiting then
        (if trial then s.present bank false s.currentLayout .current
         else { s with update := { s.update with presented := bank } })
      else s
    let s2 := if trial then s1.countFallback else s1
    if waiting then s2.startPass true else s2
  else if waiting then s.containBoot
  else s

/-- A confirm is answered OK (09 R156): the trial state becomes NONE and TRIAL is raised. The layout stays in force, and
its source stays TRIAL until the next entry into CHECK (DESIGN CHOICE, log entry 53). -/
def State.confirmed (s : State) (live : Bool) : State :=
  let s1 := State.raise { s with update := { s.update with running := false } } .trial
  s1.finishIf live .ok ([s1.update.record.active.code] ++ bytes32 s1.anchor.floor)

/-- UPDATE OPEN is answered OK (09 R145). -/
def State.opened (s : State) (live : Bool) (m : Manifest) : State :=
  if live then
    State.finish { s with update := { s.update with session := .staging m, verification := .none } } .ok
      [(Session.staging m).code, s.inactiveBank.code]
  else s

/-- The effect of an OK answer, after the bank record copy has taken the change. `before` is the state
before it. An authority key replaces one installed before it (log entry 51). -/
def State.answeredOk (s before : State) (q : StoreRequest) : State :=
  match q.purpose with
  | .keyCreate n k => s.keyCreated q.live n k
  | .keyDestroy n => (s.putKey n none).finishIf q.live .ok []
  | .credStore id c epoch => s.credStored q.live id c epoch
  | .credCount id count epoch candidate => s.countWritten q.live id count epoch candidate
  | .credMatch id epoch => s.matchWritten q.live id epoch
  | .credErase id _ => s.credErased q.live id
  | .updateOpen m => s.opened q.live m
  | .updateAbort => s.finishIf q.live .ok []
  | .sessionAbandon => s
  | .updateCommit _ =>
    s.finishIf q.live .ok ([s.update.record.trialBank.code] ++ bytes1 s.update.record.attempts)
  | .updateConfirm => s.confirmed q.live
  | .trialAttempt => s.trialDecided q.live true true
  | .trialTimeout => s.trialDecided q.live true false
  | .bootFallback => s.fellBack q.live true before.update.trialBoot before.fallbackBank
  | .ownerEpoch => s
  | .responseErase id _ => s.removeCred id
  | .provisionLayout _ => s.finishIf q.live .ok []
  | .provisionAuthority key =>
    State.finishIf { s with keys := { s.keys with authority := some key } } q.live .ok (digestBytes (sha256 (pairBytes key)))
  | .provisionBank _ => s.finishIf q.live .ok []

/-- The effect of a STORE_FAULT answer: a waiting command completes with it and an empty body (log entry 42); a
guess's decay may start again (08 R126, R132); a waiting check goes on under the latch. -/
def State.answeredFault (s : State) (q : StoreRequest) : State :=
  match q.purpose with
  | .credCount id _ _ _ => (s.startDecay id).finishIf q.live .storeFault []
  | .credMatch id _ => (s.startDecay id).finishIf q.live .storeFault []
  | .trialAttempt => s.trialDecided q.live false true
  | .trialTimeout => s.trialDecided q.live false false
  | .bootFallback => s.fellBack q.live false false s.fallbackBank
  | .sessionAbandon => s
  | .ownerEpoch => s
  | .responseErase _ _ => s
  | .keyCreate _ _ => s.finishIf q.live .storeFault []
  | .keyDestroy _ => s.finishIf q.live .storeFault []
  | .credStore _ _ _ => s.finishIf q.live .storeFault []
  | .credErase _ _ => s.finishIf q.live .storeFault []
  | .updateOpen _ => s.finishIf q.live .storeFault []
  | .updateAbort => s.finishIf q.live .storeFault []
  | .updateCommit _ => s.finishIf q.live .storeFault []
  | .updateConfirm => s.finishIf q.live .storeFault []
  | .provisionLayout _ => s.finishIf q.live .storeFault []
  | .provisionAuthority _ => s.finishIf q.live .storeFault []
  | .provisionBank _ => s.finishIf q.live .storeFault []

/-- After an answer: held requests are placed, the erase list goes on, and a check or pulse that waited goes
on (04 R58, R62; 06 R90; 11 R171). -/
def State.afterAnswer (s : State) : State := s.pumpRequests.pumpErase.proceedCheck.endPulse

/-- A request that is no longer in the queue is answered (06 R90, R91, R92). -/
def State.answerStore (s : State) (q : StoreRequest) (ok : Bool) : State :=
  State.afterAnswer (if ok then (s.takeRecord q).answeredOk s q else s.answeredFault q)

end Sys2Proof.Machine
end

