-- ==== Sys2Proof/Machine/Journal.lean ====
section
/-! DEFINITION. The Journal Store at work on a request (06 R90 ~ R95): appending, read-back, spoiling,
compaction, the index, and the events STORE_REQUEST_TAKEN and ANCHOR_MEMORY_WRITE_COMPLETE. -/

namespace Sys2Proof.Machine

/-! ### Places in the flash -/

/-- The first physical address of a half of the private area (06 section 6.2). -/
def State.halfBase (s : State) (h : Half) : Nat :=
  (s.journal.provisioning.getD .mib32).privateBase + h.offset

/-- The physical address of bytes being written. -/
def State.writingBase (s : State) (w : Writing) : Nat := s.halfBase w.half + w.offset

/-- The pages a run of bytes is programmed in: none crosses a 256-byte page boundary (06 R87). The first
argument bounds their number. -/
def splitPages : Nat → Nat → Bytes → List (Nat × Bytes)
  | 0, _, _ => []
  | n + 1, a, bs =>
    if bs = [] then []
    else
      let k := 256 - a % 256
      (a, bs.take k) :: splitPages n (a + k) (bs.drop k)

/-! ### Steps of the request in progress -/

/-- The request in progress goes to a step and asks for the flash operation that it needs. -/
def State.goTo (s : State) (job : Job) (step : JobStep) (op : FlashOp) : State :=
  State.askFlash { s with journal := { s.journal with job := some { job with step := step } } } .journal op

/-- The next page of bytes being written is programmed; after the last the bytes are read back (06 R91). -/
def State.programNext (s : State) (job : Job) (k : WriteKind) (w : Writing) (pages : List (Nat × Bytes)) : State :=
  match pages with
  | [] => s.goTo job (.readingBack k w []) (nextChunk (s.writingBase w) w.bytes.length 0)
  | (a, bs) :: _ => s.goTo job (.programming k w pages) (.program a bs)

/-- Bytes are written at an offset of a half. -/
def State.beginWrite (s : State) (job : Job) (k : WriteKind) (w : Writing) : State :=
  s.programNext job k w (splitPages w.bytes.length (s.writingBase w) w.bytes)

/-- The physical address of the tag of bytes being written. -/
def State.tagAddress (s : State) (w : Writing) : Nat := s.writingBase w + (w.bytes.length - 16)

/-- The tag position is programmed to 00h (06 R92). -/
def State.beginSpoil (s : State) (job : Job) (w : Writing) (final : Bool) : State :=
  s.goTo job (.spoiling w final) (.program (s.tagAddress w) (List.replicate 16 0))

/-- The request ends (06 R92): FAULT, containment with cause STORE_FAULT, the answer STORE_FAULT. Active half, generation
and index stay as they stand: where a compaction of this request has completed, those it left (DESIGN CHOICE, log
entry 54). -/
def State.failRequest (s : State) (job : Job) : State :=
  let s1 : State := { s with journal := { s.journal with job := none, state := .fault } }
  (s1.contain .storeFault).answerStore job.request false

/-- The request has succeeded: it is answered OK (06 R91). -/
def State.passRequest (s : State) (job : Job) : State :=
  State.answerStore { s with journal := { s.journal with job := none } } job.request true

/-- Every entry has succeeded: the floor raise and the authority key hash are written to anchor memory, then
OK is answered (06 R91, 12 R176). -/
def State.entriesDone (s : State) (job : Job) : State :=
  let q := job.request
  if q.floorRaise.isSome || q.authorityHash.isSome then
    { s with
      journal := { s.journal with job := some { job with step := .anchorWriting } }
      anchor := { s.anchor with writes := s.anchor.writes ++ [.request q.floorRaise q.authorityHash] } }
  else s.passRequest job

/-- The half that compaction writes: the one not active; half 0 of a blank store (06 R93, R98). -/
def Journal.targetHalf (j : Journal) : Half := (j.active.map Half.other).getD .zero

/-- Compaction begins (06 R93 (1)): the first of two 64 KiB erases, that of the lower block (DESIGN CHOICE, log entry
50). -/
def State.beginCompaction (s : State) (job : Job) : State :=
  s.goTo job (.erasing false) (.erase64k (s.halfBase s.journal.targetHalf))

/-- The largest generation (06 R88). -/
def lastGeneration : Word32 := 0xFFFFFFFF

/-- An OWNER-EPOCH entry's payload is filled in when it is written: the current epoch plus 1 (06 R95). -/
def Journal.fillEntry (j : Journal) (e : StoreEntry) : StoreEntry :=
  match e.kind with
  | .ownerEpoch => { e with payload := bytes32 (j.epoch + 1) }
  | _ => e

/-- The entry cannot be written: no generation is left, or no owner epoch (06 R91, R95). -/
def State.entryExhausted (s : State) (e : StoreEntry) : Bool :=
  s.anchor.generation == lastGeneration || (e.kind == .ownerEpoch && s.journal.epoch == 0xFFFFFFFF)

/-- An entry is begun (06 R91): written at the append point with the next generation; compaction comes
first where it does not fit, and formatting where the store is blank. -/
def State.beginEntry (s : State) (job : Job) (e : StoreEntry) : State :=
  if s.entryExhausted e then s.failRequest job
  else
    let e' := s.journal.fillEntry e
    let g := s.anchor.generation + 1
    match s.journal.active with
    | none => s.beginCompaction job
    | some h =>
      if s.journal.appendPoint + entryLength e'.payload.length ≤ halfSize then
        s.beginWrite job (.entry g)
          { half := h, offset := s.journal.appendPoint, bytes := encodeEntry s.journal.tagKey s.journal.storageKey e' g }
      else s.beginCompaction job

/-- The request goes on with its next entry. -/
def State.nextEntry (s : State) (job : Job) : State :=
  match job.todo with
  | [] => s.entriesDone job
  | e :: _ => s.beginEntry job e

/-! ### The object index (06 R89, R91) -/

/-- The index names an object of this kind and id. -/
def IndexRecord.names (r : IndexRecord) (k : ObjectKind) (id : Nat) : Bool := r.kind == k && r.id == id

/-- The object of an entry just written is live (06 R89). -/
def Journal.entryLive (j : Journal) (e : StoreEntry) : Bool :=
  e.payload != [] && (e.epoch == 0 || e.epoch == j.epoch) &&
  (match e.kind with
    | .count => j.index.any (fun r => r.names .cred e.id)
    | .checkpoint => false
    | _ => true)

/-- The index after an entry is written (06 R91): its object's record set or removed, with any COUNT record
that a CRED entry leaves dead. -/
def Journal.indexed (j : Journal) (e : StoreEntry) (r : IndexRecord) : List IndexRecord :=
  let others := j.index.filter (fun x => !x.names e.kind e.id && !(e.kind == .cred && x.names .count e.id))
  if j.entryLive e then others ++ [r] else others

/-- An index record that a new owner epoch removes (06 R95). -/
def IndexRecord.oldEpoch (r : IndexRecord) (epoch : Word32) : Bool :=
  (r.kind == .cred || r.kind == .count || r.kind == .key) && r.epoch != 0 && r.epoch != epoch

/-- The owners take an entry as it becomes durable: the stored layouts (12 R175, 09 R152), and a new owner
epoch (06 R95). -/
def State.entryTaken (s : State) (e : StoreEntry) : State :=
  match e.kind with
  | .layout => { s with update := { s.update with layout := Layout.parse e.payload } }
  | .layoutTrial => { s with update := { s.update with trialLayout := Layout.parse e.payload } }
  | .ownerEpoch =>
    let epoch := word32At e.payload 0
    let s1 : State := { s with journal := { s.journal with
      epoch := epoch, index := s.journal.index.filter (fun r => !r.oldEpoch epoch) } }
    (s1.credEpoch epoch).keyEpoch epoch
  | _ => s

/-- An entry is durable (06 R91): anchor generation, index and append point, in one event; then the next
entry. -/
def State.entryWritten (s : State) (job : Job) (g : Word32) (w : Writing) : State :=
  match job.todo with
  | [] => s.entriesDone job
  | e0 :: rest =>
    let e := s.journal.fillEntry e0
    let r : IndexRecord :=
      { kind := e.kind, id := e.id, half := w.half, offset := w.offset, length := w.bytes.length, generation := g, epoch := e.epoch }
    let s1 : State := { s with
      anchor := { s.anchor with generation := g }
      journal := { s.journal with index := s.journal.indexed e r, appendPoint := w.offset + w.bytes.length } }
    (s1.entryTaken e).nextEntry { job with todo := rest }

/-! ### Compaction (06 R93, R94) -/

/-- The offset at which the next copy goes. -/
def copiedLength (copied : List IndexRecord) : Nat := (copied.map IndexRecord.length).sum

/-- The live records in increasing order of generation. -/
def insertByGeneration (r : IndexRecord) : List IndexRecord → List IndexRecord
  | [] => [r]
  | x :: rest =>
    if r.generation.toNat < x.generation.toNat then r :: x :: rest else x :: insertByGeneration r rest

def sortByGeneration (rs : List IndexRecord) : List IndexRecord := rs.foldr insertByGeneration []

/-- The physical address of an indexed entry. -/
def State.recordBase (s : State) (r : IndexRecord) : Nat := s.halfBase r.half + r.offset

/-- The CHECKPOINT entry of a number of copies. -/
def checkpointEntry (count : Nat) : StoreEntry := ⟨.checkpoint, 0, 0, false, beBytes 2 count⟩

/-- Compaction goes on with the next record to copy; after the last it writes the CHECKPOINT (06 R93). -/
def State.copyNext (s : State) (job : Job) (todo copied : List IndexRecord) : State :=
  match todo with
  | r :: rest => s.goTo job (.copyReading r rest copied []) (nextChunk (s.recordBase r) r.length 0)
  | [] =>
    s.beginWrite job (.checkpoint copied)
      { half := s.journal.targetHalf, offset := copiedLength copied,
        bytes := encodeEntry s.journal.tagKey s.journal.storageKey (checkpointEntry copied.length) (s.anchor.generation + 1) }

/-- A failure within compaction (06 R94): the first begins it again; the second ends the request, after the
spoiling of what was just programmed, if anything was. -/
def State.compactionFailed (s : State) (job : Job) (w : Option Writing) : State :=
  if job.failed then
    match w with
    | some w => s.beginSpoil job w true
    | none => s.failRequest job
  else s.beginCompaction { job with failed := true }

/-- The entry to copy has been read (06 R93 (2)): its tag is checked and it is programmed. -/
def State.copyRead (s : State) (job : Job) (r : IndexRecord) (rest copied : List IndexRecord) (got : Bytes) : State :=
  if tagCorrect s.journal.tagKey got then
    s.beginWrite job (.copy r rest copied)
      { half := s.journal.targetHalf, offset := copiedLength copied, bytes := got }
  else s.compactionFailed job none

/-- The CHECKPOINT is durable (06 R93 (4)). -/
def State.compacted (s : State) (job : Job) (w : Writing) (copied : List IndexRecord) : State :=
  State.nextEntry
    { s with
      anchor := { s.anchor with generation := s.anchor.generation + 1 }
      journal := { s.journal with
        active := some w.half, appendPoint := w.offset + w.bytes.length, index := copied } } job

/-! ### Completions -/

/-- Bytes written read back equal (06 R91, R93). -/
def State.writeDone (s : State) (job : Job) (k : WriteKind) (w : Writing) : State :=
  match k with
  | .entry g => s.entryWritten job g w
  | .copy r rest copied => s.copyNext job rest (copied ++ [{ r with half := w.half, offset := w.offset }])
  | .checkpoint copied => s.compacted job w copied

/-- Bytes written read back otherwise (06 R92, R94). -/
def State.writeFailed (s : State) (job : Job) (k : WriteKind) (w : Writing) : State :=
  match k with
  | .entry _ => s.beginSpoil job w job.failed
  | .copy _ _ _ => s.compactionFailed job (some w)
  | .checkpoint _ => s.compactionFailed job (some w)

/-- The spoiled tag has been read back (06 R92): after a first failure the entry is written once more past
the abandoned space; a tag that does not read 00h is the second failure. -/
def State.spoilRead (s : State) (job : Job) (w : Writing) (final : Bool) (got : Bytes) : State :=
  if final then s.failRequest job
  else if got = List.replicate 16 0 then
    State.nextEntry { s with journal := { s.journal with appendPoint := w.offset + w.bytes.length } }
      { job with failed := true }
  else s.beginSpoil job w true

/-- A program or erase of the Journal Store completes (01 R13). The upper block of a half is erased after the lower
(log entry 50). -/
def State.journalOpDone (s : State) : State :=
  match s.journal.job with
  | none => s
  | some job =>
    match job.step with
    | .programming k w pages => s.programNext job k w pages.tail
    | .spoiling w final => s.goTo job (.spoilReading w final) (.read (s.tagAddress w) 16)
    | .erasing false => s.goTo job (.erasing true) (.erase64k (s.halfBase s.journal.targetHalf + 65536))
    | .erasing true => s.copyNext job (sortByGeneration s.journal.index) []
    | .readingBack _ _ _ | .spoilReading _ _ | .copyReading _ _ _ _ | .anchorWriting => s

/-- A read chunk of the request in progress completes. -/
def State.journalChunk (s : State) (bs : Bytes) : State :=
  match s.journal.job with
  | none => s
  | some job =>
    match job.step with
    | .readingBack k w got =>
      let got' := got ++ bs
      if got'.length < w.bytes.length then
        s.goTo job (.readingBack k w got') (nextChunk (s.writingBase w) w.bytes.length got'.length)
      else if got' = w.bytes then s.writeDone job k w
      else s.writeFailed job k w
    | .spoilReading w final => s.spoilRead job w final bs
    | .copyReading r rest copied got =>
      let got' := got ++ bs
      if got'.length < r.length then
        s.goTo job (.copyReading r rest copied got') (nextChunk (s.recordBase r) r.length got'.length)
      else s.copyRead job r rest copied got'
    | .programming _ _ _ | .spoiling _ _ | .erasing _ | .anchorWriting => s

/-! ### The commands -/

/-- The Journal Store takes the oldest request (06 R90): in READY it is written, in STALE and FAULT refused
without a write (R100). -/
def State.takeRequest (s : State) : State :=
  match s.journal.job, s.journal.queue with
  | none, q :: rest =>
    let s1 : State := { s with journal := { s.journal with queue := rest } }
    match s.journal.state with
    | .scanning => s
    | .ready => s1.nextEntry { request := q, todo := q.entries, failed := false, step := .anchorWriting }
    | .stale => (s1.contain .storeFault).answerStore q false
    | .fault => (s1.contain .storeFault).answerStore q false
  | _, _ => s

/-- STORE_REQUEST_TAKEN (R90). -/
def execStoreRequestTaken (s : State) : Host.Outcome State Fault Refusal := .next (s.whenPowered s.takeRequest)

/-- Anchor memory with the floor raised to the larger of the two, and the authority key hash (06 R91,
12 R176). -/
def Anchor.written (a : Anchor) (floor : Option Word32) (hash : Option Digest) : Anchor :=
  { a with
    floor := match floor with
      | some v => if a.floor.toNat < v.toNat then v else a.floor
      | none => a.floor
    authorityHash := hash.getD a.authorityHash }

/-- The command waiting for FIELD completes (12 R178), at the first FIELD write that completes (DESIGN CHOICE, log
entry 40). -/
def State.finishProvisioning (s : State) : State :=
  match s.window.command with
  | some c => if c.command = .provisionFinish ∧ c.taken then s.finish .ok [] else s
  | none => s

/-- The oldest write to anchor memory completes (06 R86): FIELD (12 R178), or the writes of the request in
progress, which is then answered OK. -/
def State.anchorWritten (s : State) : State :=
  match s.anchor.writes with
  | [] => s
  | .field :: rest =>
    State.finishProvisioning { s with anchor := { s.anchor with lifeCycle := .field, writes := rest } }
  | .request floor hash :: rest =>
    let s1 : State := { s with anchor := { s.anchor with writes := rest }.written floor hash }
    match s.journal.job with
    | some job => if job.step = .anchorWriting then s1.passRequest job else s1
    | none => s1

/-- ANCHOR_MEMORY_WRITE_COMPLETE (R178). -/
def execAnchorMemoryWriteComplete (s : State) : Host.Outcome State Fault Refusal :=
  .next (s.whenPowered s.anchorWritten)

end Sys2Proof.Machine
end

