-- ==== Sys2Proof/Machine/Startup.lean ====
section
/-! DEFINITION. The start-up scan (06 R96 ~ R99, 12 R174), the handing over of the live objects, and the end
of START (04 R57, 08 R137). -/

namespace Sys2Proof.Machine

/-! ### Judging a half (06 R96, R97) -/

/-- A valid half: its CHECKPOINT and the entries before it. -/
structure ValidHalf where
  checkpoint : FoundEntry
  copies : List FoundEntry
  deriving DecidableEq, Repr

/-- The CHECKPOINT fits the entries walked before it: its count, and a generation above each (06 R96). -/
def checkpointFits (c : FoundEntry) (copies : List FoundEntry) : Bool :=
  decide (c.payload.length = 2) && decide (beNat c.payload = copies.length) &&
  copies.all (fun e => decide (e.generation.toNat < c.generation.toNat))

/-- The walk of a half from its first byte to its CHECKPOINT (06 R96). The first argument bounds the number
of entries. -/
def walkHalf (tagKey storageKey : Digest) (half : Memory) : Nat → Nat → List FoundEntry → Option ValidHalf
  | 0, _, _ => none
  | n + 1, at_, copies =>
    match entryAt tagKey storageKey half at_ with
    | none => none
    | some e =>
      if e.kind = .checkpoint then (if checkpointFits e copies then some ⟨e, copies⟩ else none)
      else walkHalf tagKey storageKey half n (at_ + e.length) (copies ++ [e])

/-- The 16-byte units of a half, which bound its entries. -/
def halfUnits : Nat := halfSize / 16

/-- A half judged (06 R96). -/
def judgeHalf (tagKey storageKey : Digest) (half : Memory) : Option ValidHalf :=
  walkHalf tagKey storageKey half (halfUnits + 1) 0 []

/-- The chain of consecutive generations from an offset on (06 R97), after the generation `last`. -/
def chainFrom (tagKey storageKey : Digest) (half : Memory) : Nat → Nat → Nat → List FoundEntry
  | 0, _, _ => []
  | n + 1, at_, last =>
    if halfSize ≤ at_ then []
    else match entryAt tagKey storageKey half at_ with
      | none => chainFrom tagKey storageKey half n (at_ + 16) last
      | some e =>
        if e.generation.toNat = last + 1 ∧ e.kind ≠ .checkpoint then
          e :: chainFrom tagKey storageKey half n (at_ + e.length) (last + 1)
        else []

/-- The chain after a valid half's CHECKPOINT. -/
def chainOf (tagKey storageKey : Digest) (half : Memory) (v : ValidHalf) : List FoundEntry :=
  chainFrom tagKey storageKey half (halfUnits + 1) (v.checkpoint.offset + v.checkpoint.length)
    v.checkpoint.generation.toNat

/-- The first 16-byte boundary after the last unit that holds any byte other than FFh (06 R97). -/
def appendPointOf (half : Memory) : Nat :=
  match half.getLast? with
  | some c => (c.1 / 16 + 1) * 16
  | none => 0

/-- What a probe of an area finds: the active half with its entries, newest generation and append point. -/
structure Found where
  half : Half
  entries : List FoundEntry
  newest : Word32
  appendPoint : Nat
  deriving DecidableEq, Repr

/-- The active half of an area (06 R96): that of the higher CHECKPOINT generation; none when both are valid
with equal ones. -/
def chooseHalf (v0 v1 : Option ValidHalf) : Option (Half × ValidHalf) :=
  match v0, v1 with
  | some x, some y =>
    if x.checkpoint.generation = y.checkpoint.generation then none
    else if y.checkpoint.generation.toNat < x.checkpoint.generation.toNat then some (.zero, x) else some (.one, y)
  | some x, none => some (.zero, x)
  | none, some y => some (.one, y)
  | none, none => none

/-- The area judged: what is found, and whether neither half is valid. -/
def Journal.judgeArea (j : Journal) (half0 half1 : Memory) : Option Found × Bool :=
  let v0 := judgeHalf j.tagKey j.storageKey half0
  let v1 := judgeHalf j.tagKey j.storageKey half1
  (match chooseHalf v0 v1 with
    | some (h, v) =>
      let bytes := match h with
        | .zero => half0
        | .one => half1
      let chain := chainOf j.tagKey j.storageKey bytes v
      some {
        half := h, entries := v.copies ++ chain, appendPoint := appendPointOf bytes
        newest := ((chain.getLast?.map FoundEntry.generation).getD v.checkpoint.generation) }
    | none => none,
   v0.isNone && v1.isNone)

/-! ### The live objects (06 R89) -/

/-- The newest entry of an object. -/
def newestEntry (entries : List FoundEntry) (k : ObjectKind) (id : Nat) : Option FoundEntry :=
  (entries.filter (fun e => e.kind == k && e.id == id)).foldl (fun best e => match best with
    | none => some e
    | some x => if x.generation.toNat < e.generation.toNat then some e else some x) none

/-- The current owner epoch of the entries: the payload of the live OWNER-EPOCH entry, else 1 (06 R95). -/
def epochOf (entries : List FoundEntry) : Word32 :=
  match newestEntry entries .ownerEpoch 0 with
  | some e => if e.payload = [] then 1 else word32At e.payload 0
  | none => 1

/-- The newest entry of an object, where conditions (1) and (2) of R89 hold. -/
def liveOne (entries : List FoundEntry) (epoch : Word32) (k : ObjectKind) (id : Nat) : Option FoundEntry :=
  match newestEntry entries k id with
  | some e => if e.payload != [] && (e.epoch == 0 || e.epoch == epoch) then some e else none
  | none => none

/-- The live entry of an object, condition (3) of R89 included. -/
def liveEntry (entries : List FoundEntry) (epoch : Word32) (k : ObjectKind) (id : Nat) : Option FoundEntry :=
  match liveOne entries epoch k id with
  | none => none
  | some e =>
    match k with
    | .count => match liveOne entries epoch .cred id with
      | some c => if c.generation.toNat < e.generation.toNat then some e else none
      | none => none
    | _ => some e

/-- The names of all objects there can be (06 R89), in the order in which they are handed over (log entry
20). -/
def objectNames : List (ObjectKind × Nat) :=
  [(.bank, 0), (.layout, 0), (.layoutTrial, 0), (.ownerEpoch, 0)] ++
    (List.range 15).map (fun k => (.key, k + 1)) ++
    (List.range 32).map (fun k => (.cred, k)) ++ (List.range 32).map (fun k => (.count, k))

/-- The index record of an entry. -/
def FoundEntry.record (e : FoundEntry) (h : Half) : IndexRecord :=
  { kind := e.kind, id := e.id, half := h, offset := e.offset, length := e.length, generation := e.generation, epoch := e.epoch }

/-- The object index of the entries found (06 R99). -/
def indexOf (f : Found) : List IndexRecord :=
  objectNames.filterMap (fun n => (liveEntry f.entries (epochOf f.entries) n.1 n.2).map (fun e => e.record f.half))

/-- The capacity that the live LAYOUT object gives (12 R174). -/
def Found.capacity (f : Found) : Option Capacity :=
  (liveEntry f.entries (epochOf f.entries) .layout 0).bind (fun e => (Layout.parse e.payload).map Layout.capacity)

/-! ### The end of START -/

/-- Restored counts start their full delays, or their decay timers (08 R137). -/
def State.startRestored (s : State) : State :=
  (List.range 32).foldl (fun t id => match t.creds.get id with
    | some r => if r.count = 0 then t else t.startDelay id
    | none => t) s

/-- Start-up is complete (04 R57): the scan ends in its outcome, restored timers start, a pressed OWNER_CLR
starts the hold timer (04 R62), and START is left for REQUEST or CHECK. -/
def State.startupComplete (s : State) (outcome : StoreState) : State :=
  let s1 : State := { s with journal := { s.journal with state := outcome, scan := none } }
  let s2 := s1.startRestored
  let s3 : State := { s2 with rst := { s2.rst with
    hold := if s2.lines.ownerClr then some (s2.seconds holdSeconds) else none } }
  if s3.lines.rstReq then s3.enterRequest else s3.enterCheck

/-! ### Handing over (06 R99) -/

/-- The BANK object: the copy becomes its payload, and the anchor floor is brought up to the journal floor. -/
def State.takeBank (s : State) (payload : Bytes) : State :=
  match BankRecord.parse payload with
  | some r =>
    { s with
      update := { s.update with record := r }
      anchor := { s.anchor with floor := if s.anchor.floor.toNat < r.floor.toNat then r.floor else s.anchor.floor } }
  | none => s

/-- KEY(1): slot 1 becomes ACTIVE where its hash is the one in anchor memory (07 R103). -/
def State.takeAuthority (s : State) (payload : Bytes) : State :=
  if payload.length = 64 ∧ sha256 payload = s.anchor.authorityHash then
    { s with keys := { s.keys with authority := some (pairAt payload 0) } }
  else s

/-- CRED(n): the record of id n (08 R137). -/
def State.takeCred (s : State) (e : FoundEntry) : State :=
  match Credential.parse e.payload with
  | some c =>
    s.putCred e.id (some { content := c, epoch := e.epoch, count := 0, delayTimer := none, decayTimer := none, restored := 0 })
  | none => s

/-- COUNT(n): the volatile count of a VERIFIER becomes its persisted count (08 R137). -/
def State.takeCount (s : State) (e : FoundEntry) : State :=
  match s.creds.get e.id with
  | some r => match r.content with
    | .verifier _ => s.putCred e.id (some { r with count := byteAt e.payload 0, restored := byteAt e.payload 0 })
    | .secret _ => s
  | none => s

/-- A live object is handed to its owner (06 R99). While the provisioning state is unset no layout exists
(12 R174). -/
def State.handOver (s : State) (e : FoundEntry) : State :=
  match e.kind with
  | .bank => s.takeBank e.payload
  | .layout =>
    { s with update := { s.update with layout := if s.journal.provisioning.isSome then Layout.parse e.payload else none } }
  | .layoutTrial =>
    { s with update := { s.update with trialLayout := if s.journal.provisioning.isSome then Layout.parse e.payload else none } }
  | .key => if e.id = 1 then s.takeAuthority e.payload else s.putKey e.id (KeyRecord.parse e.payload e.epoch)
  | .cred => s.takeCred e
  | .count => s.takeCount e
  | .ownerEpoch | .checkpoint => s

/-- The hand-over goes on with the next object; after the last start-up is complete. -/
def State.handNext (s : State) (outcome : StoreState) (todo : List IndexRecord) : State :=
  match todo with
  | [] => s.startupComplete outcome
  | r :: _ =>
    State.askFlash { s with journal := { s.journal with scan := some (.handing outcome todo []) } } .journal
      (nextChunk (s.recordBase r) r.length 0)

/-- A live object's entry has been read again (06 R99): handed over, or with an incorrect tag the store is
STALE and the object is not. The owner epoch that the scan read stays the current one even where the OWNER-EPOCH
entry is the one found incorrect (DESIGN CHOICE, log entry 36). -/
def State.handRead (s : State) (outcome : StoreState) (r : IndexRecord) (rest : List IndexRecord) (got : Bytes) : State :=
  match decodeEntry s.journal.tagKey s.journal.storageKey r.offset got with
  | some e => (s.handOver e).handNext outcome rest
  | none => (s.contain .storeStale).handNext .stale rest

/-! ### The scan (06 R98, 12 R174) -/

/-- The outcome of R98 is taken: containment where it is STALE, then the hand-over of the index. -/
def State.scanned (s : State) (outcome : StoreState) (index : List IndexRecord) : State :=
  let s1 := if outcome = .stale then s.contain .storeStale else s
  s1.handNext outcome index

/-- The state with what a probe found. -/
def State.withFound (s : State) (f : Found) : State :=
  { s with journal := { s.journal with
      active := some f.half, appendPoint := f.appendPoint, index := indexOf f, epoch := epochOf f.entries } }

/-- A probe has succeeded (12 R174): the provisioning state is set and R98 compares the generations. -/
def State.probeSucceeded (s : State) (area : Capacity) (f : Found) : State :=
  let s1 := s.withFound f
  let s2 : State := { s1 with journal := { s1.journal with provisioning := some area } }
  if f.newest = s.anchor.generation then s2.scanned .ready (indexOf f)
  else if f.newest.toNat = s.anchor.generation.toNat + 1 then
    State.scanned { s2 with anchor := { s2.anchor with generation := f.newest } } .ready (indexOf f)
  else s2.scanned .stale (indexOf f)

/-- Neither probe has succeeded (12 R174): the blank case of R98 is READY, every other STALE. -/
def State.probesFailed (s : State) (f : Option Found) (neither : Bool) : State :=
  match f with
  | some f => (s.withFound f).scanned .stale (indexOf f)
  | none =>
    if neither && s.anchor.generation == 0 && !s.isField then s.scanned .ready []
    else s.scanned .stale []

/-- A chunk of an area is asked for. -/
def State.probe (s : State) (area : Capacity) (half0 half1 : Memory) (at_ : Nat) : State :=
  State.askFlash { s with journal := { s.journal with scan := some (.probing area half0 half1 at_) } } .journal
    (.read (area.privateBase + at_) chunkLength)

/-- Both halves of an area have been read (12 R174). -/
def State.areaRead (s : State) (area : Capacity) (half0 half1 : Memory) : State :=
  let found := s.journal.judgeArea half0 half1
  match found.1 with
  | some f =>
    if f.capacity = some area then s.probeSucceeded area f
    else match area with
      | .mib16 => s.probe .mib32 [] [] 0
      | .mib32 => s.probesFailed found.1 found.2
  | none => match area with
    | .mib16 => s.probe .mib32 [] [] 0
    | .mib32 => s.probesFailed none found.2

/-- A chunk of the scan completes (06 section 6.8). -/
def State.scanChunk (s : State) (bs : Bytes) : State :=
  match s.journal.scan with
  | none => s
  | some (.probing area half0 half1 at_) =>
    let h0 := if at_ < halfSize then half0.writeBytes at_ bs else half0
    let h1 := if at_ < halfSize then half1 else half1.writeBytes (at_ - halfSize) bs
    if at_ + chunkLength < 2 * halfSize then s.probe area h0 h1 (at_ + chunkLength)
    else s.areaRead area h0 h1
  | some (.handing _ [] _) => s
  | some (.handing outcome (r :: rest) got) =>
    let got' := got ++ bs
    if got'.length < r.length then
      State.askFlash { s with journal := { s.journal with scan := some (.handing outcome (r :: rest) got') } } .journal
        (nextChunk (s.recordBase r) r.length got'.length)
    else s.handRead outcome r rest got'

end Sys2Proof.Machine
end

