-- ==== Sys2Proof/Machine/FlashPort.lean ====
section
/-! DEFINITION. The Flash Port Arbiter's own events (01 R11, R13, R16): an internal grant, a read chunk or a
program or erase that completes. -/

namespace Sys2Proof.Machine

/-- The outstanding request of the highest priority (01 R13). -/
def Arbiter.nextRequest (a : Arbiter) : Option (Requester × FlashOp) :=
  match a.journal with
  | some op => some (.journal, op)
  | none => match a.measure with
    | some op => some (.measure, op)
    | none => a.update.map (fun op => (.update, op))

/-- An internal requester may be granted the Flash Port (01 R13). -/
def State.mayGrant (s : State) : Bool :=
  s.arbiter.grant == .free && s.port.decode.isNone && s.arbiter.suspended.isNone && s.arbiter.deferred.isNone

/-- INTERNAL_GRANT (R13): with the opcode of the table in force, or of the default table while no layout has
come into force (06 R87). -/
def execInternalGrant (s : State) : Host.Outcome State Fault Refusal :=
  .next (s.whenPowered
    (if s.mayGrant then
      match s.arbiter.nextRequest with
      | some (r, op) =>
        { s with arbiter := { s.arbiter with
            grant := .internal r op, bus := s.operationFrames (s.flashOp op.cls) op } }
      | none => s
    else s))

/-- The read chunk in progress of a requester. -/
def Arbiter.chunk (a : Arbiter) (r : Requester) : Option (Nat × Nat) :=
  match a.grant with
  | .internal r' (.read base n) => if r' = r then some (base, n) else none
  | _ => none

/-- A read chunk is done with (01 R13): the requester has none outstanding and the grant is FREE. -/
def State.chunkDone (s : State) (r : Requester) : State :=
  { s with arbiter := { s.arbiter.setRequest r none with grant := .free } }

/-- A withdrawn chunk completes: the grant is FREE and its bytes go to nobody; a request made since then stays
(01 R17, log entry 44). -/
def State.withdrawnDone (s : State) : State :=
  match s.arbiter.grant with
  | .internalWithdrawn _ _ _ => { s with arbiter := { s.arbiter with grant := .free } }
  | _ => s

/-- READ_CHUNK_COMPLETE (R13): the bytes go to the Measurement Unit or the Update Controller, those of a withdrawn
chunk to nobody. -/
def execReadChunkComplete (misread : FlashCells) (s : State) : Host.Outcome State Fault Refusal :=
  .next (s.whenPowered
    (match s.arbiter.chunk .measure with
      | some (base, n) => (s.chunkDone .measure).measureChunk (s.flash.readBytesThrough misread base n)
      | none => match s.arbiter.chunk .update with
        | some (base, n) => (s.chunkDone .update).verifyChunk (s.flash.readBytesThrough misread base n)
        | none => s.withdrawnDone))

/-- The Journal Store takes a read chunk: the scan's in SCANNING, else that of the request in progress. -/
def State.storeChunk (s : State) (bs : Bytes) : State :=
  if s.journal.scan.isSome then s.scanChunk bs else s.journalChunk bs

/-- STORE_READ_CHUNK_COMPLETE (R91). -/
def execStoreReadChunkComplete (misread : FlashCells) (s : State) : Host.Outcome State Fault Refusal :=
  .next (s.whenPowered
    (match s.arbiter.chunk .journal with
      | some (base, n) => (s.chunkDone .journal).storeChunk (s.flash.readBytesThrough misread base n)
      | none => s))

/-- The flash after an operation, but for the bytes the chip leaves otherwise (log entry 5). -/
def State.operated (s : State) (op : FlashOp) (failed : FlashCells) : Memory :=
  (op.apply s.flash).patch op.touches failed

/-- The grant where a forwarded SoC write ends (01 R11, R14): SOC_READ while a transaction is in progress
(DEDUCED, log entry 34). -/
def State.grantAfterWrite (s : State) : Grant := if s.port.decode.isSome then .socRead else .free

/-- A forwarded SoC write completes (01 R11). -/
def State.socWriteDone (s : State) (w : SocWrite) (failed : FlashCells) : State :=
  { s with flash := s.operated w.op failed, arbiter := { s.arbiter with grant := s.grantAfterWrite } }

/-- An internal program or erase completes (01 R13, R16): the deferred write, if any, is forwarded. -/
def State.internalDone (s : State) (r : Requester) (op : FlashOp) (failed : FlashCells) : State :=
  let s1 : State := { s with
    flash := s.operated op failed
    arbiter := { s.arbiter.setRequest r none with grant := .free, deferred := none } }
  let s2 := match s.arbiter.deferred with
    | some w => s1.forward w
    | none => s1
  match r with
  | .journal => s2.journalOpDone
  | .measure => s2
  | .update => s2

/-- FLASH_OPERATION_COMPLETE (R11). -/
def execFlashOperationComplete (failed : FlashCells) (s : State) : Host.Outcome State Fault Refusal :=
  .next (s.whenPowered
    (match s.arbiter.grant with
      | .socWrite w => s.socWriteDone w failed
      | .internal _ (.read _ _) => s
      | .internal r op => s.internalDone r op failed
      | .internalWithdrawn _ _ _ => s
      | .socRead => s
      | .free => s))

end Sys2Proof.Machine
end

