-- ==== Sys2Proof/Machine/Provision.lean ====
section
/-! DEFINITION. The provisioning commands (12): PROVISION LAYOUT, AUTHORITY, BANK and FINISH. -/

namespace Sys2Proof.Machine

/-- The stored layout. -/
def State.stored (s : State) : Option Layout := s.currentLayout

/-- A layout passes the tests of 12 R175 (2) against what is stored. With a BANK object live and no layout stored
there are no BANKED regions to compare with, and the layout passes (DESIGN CHOICE, log entry 39). While an abandoned
request's layout is still being written none is stored, and any capacity passes (DESIGN CHOICE, log entry 47). While an
abandoned PROVISION BANK's request is outstanding and no BANK object is live yet, the BANKED regions are not compared
(DESIGN CHOICE, log entry 57). -/
def State.acceptLayout (s : State) (l : Layout) : Bool :=
  l.valid &&
  (match s.stored with
    | some old => l.capacity == old.capacity && (!s.journal.hasBank || l.sameBanked old)
    | none => true)

/-- PROVISION LAYOUT (12 R175): with the provisioning state unset it becomes the layout's capacity; once set it
stays, whatever capacity a later layout has (DESIGN CHOICE, log entry 47). -/
def State.provisionLayout (s : State) (body : Bytes) : State :=
  if !blockFormOk body then s.refuse .malformed
  else match Layout.parse body with
    | none => s.refuse .layout
    | some l =>
      if s.acceptLayout l then
        State.place { s.wait with journal := { s.journal with
            provisioning := some (s.journal.provisioning.getD l.capacity) } } (.provisionLayout l) true
      else s.refuse .layout

/-- PROVISION_LAYOUT. -/
def execProvisionLayout (s : State) : Host.Outcome State Fault Refusal :=
  .next (s.take .provisionLayout s.provisionLayout)

/-- PROVISION AUTHORITY (12 R176). One taken while an abandoned one's request is outstanding, the hash still 00h, passes
(DESIGN CHOICE, log entry 51). -/
def State.provisionAuthority (s : State) (body : Bytes) : State :=
  if !(decide (body.length = 64) && onCurve (pairAt body 0)) then s.refuse .malformed
  else if s.stored.isNone then s.refuse .notFound
  else if s.anchor.authorityHash ≠ 0 then s.refuse .slotState
  else s.wait.place (.provisionAuthority (pairAt body 0)) true

/-- PROVISION_AUTHORITY. -/
def execProvisionAuthority (s : State) : Host.Outcome State Fault Refusal :=
  .next (s.take .provisionAuthority s.provisionAuthority)

/-- The bank record a PROVISION BANK body gives for a layout (12 R177), with the digest of that layout's block. -/
def provisionedRecord (l : Layout) (body : Bytes) : Option BankRecord := do
  let n := l.banked.length
  let active ← Bank.ofCode (byteAt body 0)
  let bankA ← bankInfoAt body 5 n
  let bankB ← bankInfoAt body (10 + 36 * n) n
  return {
    active := active, bankA := bankA, bankB := bankB, trialPending := false, attempts := 0
    trialLayout := false, raiseFloor := false, outcome := .none, floor := word32At body 1
    layoutDigest := sha256 l.block, recoveryDigest := digestAt body (15 + 72 * n) }

/-- A bank is as 12 R177 (2) asks: GOOD, or EMPTY with nothing in it; each image within its region. -/
def BankInfo.provisionOk (i : BankInfo) (l : Layout) : Bool :=
  (i.state == .good || (i.state == .empty && i.version == 0 &&
    i.images.all (fun x => x.length == 0 && x.digest == 0))) &&
  (i.images.zip l.banked).all (fun x => match l.region? x.2 with
    | some r => decide (x.1.length ≤ r.length)
    | none => false)

/-- PROVISION BANK (12 R177). Its record is made for the layout stored when the command is taken, also where the
request is then held (DESIGN CHOICE, log entry 48). The floor is tested against the anchor floor of that moment, also
where an abandoned one's request has yet to raise it (DESIGN CHOICE, log entry 56). -/
def State.provisionBank (s : State) (body : Bytes) : State :=
  match s.stored with
  | none => s.refuse .notFound
  | some l =>
    if body.length = 47 + 72 * l.banked.length then
      match provisionedRecord l body with
      | none => s.refuse .malformed
      | some r =>
        if !(r.bankA.provisionOk l && r.bankB.provisionOk l && (r.bank r.active).state == .good) then
          s.refuse .malformed
        else if r.floor.toNat < s.anchor.floor.toNat ∨ (r.bank r.active).version.toNat < r.floor.toNat then
          s.refuse .version
        else s.wait.place (.provisionBank r) true
    else s.refuse .malformed

/-- PROVISION_BANK. -/
def execProvisionBank (s : State) : Host.Outcome State Fault Refusal := .next (s.take .provisionBank s.provisionBank)

/-- PROVISION FINISH (12 R178): FIELD is being written into anchor memory. -/
def State.provisionFinish (s : State) (body : Bytes) : State :=
  if body ≠ [] then s.refuse .malformed
  else if s.stored.isNone || s.keys.authority.isNone || !s.journal.hasBank then s.refuse .notFound
  else if s.journal.state ≠ .ready then s.refuse .storeFault
  else { s.wait with anchor := { s.anchor with writes := s.anchor.writes ++ [.field] } }

/-- PROVISION_FINISH. -/
def execProvisionFinish (s : State) : Host.Outcome State Fault Refusal :=
  .next (s.take .provisionFinish s.provisionFinish)

end Sys2Proof.Machine
end

