-- ==== Sys2Proof/Machine/Operands.lean ====
section
/-! DEFINITION. The operand forms of SoC transactions: the address bytes, the page image of a program
(02 R27), the unit of an erase (02 R29), and where a presented address leads (02 R18, R19, R33, R35). -/

namespace Sys2Proof.Machine

/-! ### Bytes of a transaction -/

/-- The presented address: three bytes, most significant first (01 R1). -/
def presentedAddress (received : Bytes) : Nat := beNat (received.take 3)

/-- The bytes after the address and the dummy bytes. -/
def dataBytes (received : Bytes) (dummy : Nat) : Bytes := received.drop (3 + dummy)

/-- The page image of a PROGRAM: data byte `k` goes to position (P mod 256 + k) mod 256, replacing any byte
placed there before (02 R27). -/
def placeBytes : List (Option Byte) → Nat → Bytes → List (Option Byte)
  | page, _, [] => page
  | page, pos, v :: vs => placeBytes (page.set (pos % 256) (some v)) (pos + 1) vs

def emptyPage : List (Option Byte) := List.replicate 256 none

def pageImage (p : Nat) (data : Bytes) : List (Option Byte) := placeBytes emptyPage (p % 256) data

/-- The bytes the Flash Port sends of a page image: the filled positions from P mod 256 onward, wrapping
(02 R27). -/
def imageData (page : List (Option Byte)) (p : Nat) : Bytes :=
  (List.range 256).filterMap (fun k => (page[(p % 256 + k) % 256]?).join)

/-! ### Where an address leads -/

/-- What the Region Checker finds for a presented address (02 R18, R35): the control window, a region with
an offset, an open address of the factory open mapping, or nothing. -/
inductive Place where
  | window
  | region (r : Region) (offset : Nat)
  | openTo (physical : Nat)
  | unmapped
  deriving DecidableEq, Repr

/-- The end E of the open range: the smaller of the capacity less 256 KiB and FFF000h; the capacity of the
layout chosen at the last entry into CHECK, 16 MiB with none (02 R35). -/
def State.openEnd (s : State) : Nat :=
  min (match s.checker.layout with
    | some l => l.capacity.privateBase
    | none => Capacity.mib16.privateBase) windowBase

/-- The region whose presented range holds an address (02 R18). -/
def Layout.regionOf (l : Layout) (p : Nat) : Option (Region × Nat) :=
  match l.regions.find? (fun r => match r.base with
    | some base => decide (base ≤ p) && decide (p < base + r.length)
    | none => false) with
  | some r => some (r, p - r.base.getD 0)
  | none => none

/-- The lookup of a presented address (02 R18, R35). -/
def State.lookup (s : State) (p : Nat) : Place :=
  if windowBase ≤ p then .window
  else if s.checker.openMapping then
    (if p < s.openEnd then .openTo p else .unmapped)
  else match s.checker.layout with
    | none => .unmapped
    | some l => match l.regionOf p with
      | some (r, o) => .region r o
      | none => .unmapped

/-- The physical address of an offset of a region (02 R19). -/
def State.translate (s : State) (r : Region) (offset : Nat) : Nat :=
  match r.kind with
  | .banked => r.bankBase s.update.presented + offset
  | .stage => match s.checker.layout.bind (fun l => r.parent.bind l.region?) with
    | some p => p.bankBase s.update.presented.other + offset
    | none => offset
  | .plain | .recovery => r.physA.getD 0 + offset

/-- Where the byte of a read comes from (01 R5, 02 R25). -/
inductive ByteSource where
  | window
  | flash (region : Option Nat) (substituted : Bool) (physical : Nat)
  /-- FFh, with the violation kind and the region index it is denied with, if any. -/
  | fill (violation : Option (ViolationKind × Option Nat))
  deriving DecidableEq, Repr

/-- A region index is in the hide set. -/
def State.hidden (s : State) (i : Nat) : Bool := inSet s.checker.hideSet i

/-- The read of a region is allowed: not hidden and the stage in the read mask (02 R24). -/
def State.readAllowed (s : State) (r : Region) : Bool := !s.hidden r.index && s.stageIn r.readMask

/-- The byte at an offset of the boot-flagged region under containment (02 R32, R33). -/
def State.substitutedByte (s : State) (r : Region) (offset : Nat) : ByteSource :=
  match s.checker.layout.bind Layout.recovery with
  | some rec =>
    if offset < rec.length then
      (if s.hidden rec.index then .fill (some (.readDenied, some r.index))
       else .flash (some r.index) true (rec.physA.getD 0 + offset))
    else .fill none
  | none => .fill none

/-- The source of a read byte (02 R25, R33, R35). -/
def State.byteSource (s : State) (p : Nat) : ByteSource :=
  match s.lookup p with
  | .window => .window
  | .unmapped => .fill (some (.unmapped, none))
  | .openTo a => .flash none false a
  | .region r o =>
    if s.readAllowed r then
      (if r.boot && s.contained then s.substitutedByte r o
       else .flash (some r.index) false (s.translate r o))
    else .fill (some (.readDenied, some r.index))

/-! ### Programs and erases -/

/-- The session is STAGING (09 R143). -/
def Session.isStaging : Session → Bool
  | .staging _ => true
  | _ => false

/-- The tests of a program or erase of a region (02 R24): the kind of the first that fails. `mask` is the
program or erase mask and `denied` the kind for it. -/
def State.writeRefusal (s : State) (r : Region) (mask : Byte) (denied : ViolationKind) : Option ViolationKind :=
  if r.boot && s.contained then some denied
  else if s.hidden r.index then some denied
  else if !s.stageIn mask then some denied
  else if inSet s.checker.freezeSet r.index then some .frozen
  else if r.kind == .stage && !s.update.session.isStaging then some denied
  else none

/-- What becomes of a program or erase that reaches the Region Checker (02 R28 ~ R30). -/
inductive WriteOutcome where
  | window
  | allowed (physical : Nat)
  | dropped (kind : ViolationKind) (region : Option Nat)
  deriving DecidableEq, Repr

/-- A PROGRAM at a presented address (02 R28, R35). -/
def State.judgeProgram (s : State) (p : Nat) : WriteOutcome :=
  match s.lookup p with
  | .window => .window
  | .unmapped => .dropped .unmapped none
  | .openTo a => .allowed a
  | .region r o => match s.writeRefusal r r.programMask .programDenied with
    | some k => .dropped k (some r.index)
    | none => .allowed (s.translate r o)

/-- The region index of a place. -/
def Place.index : Place → Option Nat
  | .region r _ => some r.index
  | _ => none

/-- No address of `[u, u + size)` lies in a presented range of the layout in force. -/
def State.unitUnmapped (s : State) (u size : Nat) : Bool :=
  decide (u + size ≤ windowBase) &&
  (match s.checker.layout with
    | some l => l.presentedRanges.all (fun x => disjointRanges x (u, size))
    | none => true)

/-- An erase of the unit of `size` bytes at a presented address (02 R29, R30, R35). -/
def State.judgeErase (s : State) (p size : Nat) : WriteOutcome :=
  let u := p / size * size
  match s.lookup p with
  | .window => .window
  | .openTo _ => if u + size ≤ s.openEnd then .allowed u else .dropped .straddle none
  | .unmapped =>
    if s.checker.openMapping then
      (if decide (s.openEnd ≤ u) && decide (u + size ≤ windowBase) then .dropped .unmapped none
       else .dropped .straddle none)
    else if s.unitUnmapped u size then .dropped .unmapped none
    else .dropped .straddle none
  | .region r o =>
    if decide (r.base.getD 0 ≤ u) && decide (u + size ≤ r.base.getD 0 + r.length) then
      match s.writeRefusal r r.eraseMask .eraseDenied with
      | some k => .dropped k (some r.index)
      | none => .allowed (s.translate r (o - (p - u)))
    else .dropped .straddle (some r.index)

end Sys2Proof.Machine
end

