-- ==== Sys2Proof/Machine/Report.lean ====
section
/-! DEFINITION. The commands that report: STATUS and EVENTS (03), VIOLATION READ and LAYOUT READ (02), ATTEST
with its report (10). -/

namespace Sys2Proof.Machine

/-! ### STATUS and EVENTS -/

/-- The presented bank as it is reported: A in FACTORY (02 R40, 03 R53). -/
def State.reportedBank (s : State) : Bank := if s.isField then s.update.presented else .a

/-- The STATUS body (03 R53). -/
def State.statusBody (s : State) : Bytes :=
  [s.anchor.lifeCycle.code] ++ bytes1 s.measure.stage.toNat ++ [flagByte s.contained, s.response.causes, s.ownership] ++
    beBytes 2 s.grantSeconds ++ [s.update.session.code, s.trialCode, s.reportedBank.code] ++
    bytes32 s.rst.bootCounter ++ bytes32 s.time.uptime ++ bytes16 s.window.summary ++ bytes16 (s.window.mask.setWidth 16)

/-- STATUS (R53). -/
def execStatus (s : State) : Host.Outcome State Fault Refusal :=
  .next (s.take .status (fun _ => s.finish .ok s.statusBody))

/-- EVENTS (03 R52): the kinds taken leave the set; a 2-byte body sets the mask to its low eight bits. -/
def State.events (s : State) (body : Bytes) : State :=
  if body = [] ∨ body.length = 2 then
    let taken := s.window.pendingEvents
    let mask := if body = [] then s.window.mask else byteAt body 1
    State.finish { s with window := { s.window with pendingEvents := 0, mask := mask } } .ok
      (bytes16 (taken.setWidth 16) ++ bytes16 (mask.setWidth 16))
  else s.refuse .malformed

/-- EVENTS. -/
def execEvents (s : State) : Host.Outcome State Fault Refusal := .next (s.take .events s.events)

/-! ### VIOLATION READ and LAYOUT READ -/

/-- A violation record as VIOLATION READ returns it, 15 bytes. -/
def Violation.bytes (v : Violation) : Bytes :=
  bytes32 v.sequence ++ [v.kind.code, v.cls.code] ++ beBytes 3 v.address ++
    [match v.region with
      | some r => BitVec.ofNat 8 r
      | none => 0xFF] ++
    bytes1 v.stage.toNat ++ bytes32 v.uptime

/-- The VIOLATION READ body (02 R39). -/
def Checker.violationBody (c : Checker) : Bytes :=
  bytes32 c.sequence ++ bytes1 c.ring.length ++ c.ring.flatMap Violation.bytes ++
    bytes16 c.unmappedCounter ++ bytes16 c.allCounter ++ c.regionCounters.toList.flatMap bytes16

/-- VIOLATION_READ (R39). -/
def execViolationRead (s : State) : Host.Outcome State Fault Refusal :=
  .next (s.take .violationRead (fun _ => s.finish .ok s.checker.violationBody))

/-- The layout source code: CURRENT, TRIAL, or FACTORY_OPEN under the factory open mapping (02 R40). -/
def State.layoutSource (s : State) : Byte :=
  if s.checker.openMapping then 2
  else match s.checker.source with
    | .current => 0
    | .trial => 1

/-- The layout that LAYOUT READ reports: the stored one under the factory open mapping, else the one in
force (02 R40). -/
def State.reportedLayout (s : State) : Option Layout :=
  if s.checker.openMapping then s.currentLayout else s.checker.layout

/-- LAYOUT READ (02 R40). -/
def State.layoutRead (s : State) (_ : Bytes) : State :=
  match s.reportedLayout with
  | none => s.refuse .notFound
  | some l =>
    let bank := if s.checker.openMapping then Bank.a else s.update.presented
    s.finish .ok ([s.layoutSource, bank.code] ++ bytes16 s.checker.freezeSet ++ bytes16 s.checker.hideSet ++
      [flagByte s.contained] ++ beBytes 2 l.block.length ++ l.block)

/-- LAYOUT_READ. -/
def execLayoutRead (s : State) : Host.Outcome State Fault Refusal := .next (s.take .layoutRead s.layoutRead)

/-! ### ATTEST -/

/-- The bytes a bit of the field mask selects (10 R162). -/
def State.reportField (s : State) (bit : Nat) : Bytes :=
  if bit ≤ 7 then digestBytes (s.measure.slot bit)
  else if bit = 8 then bytes1 s.measure.log.length ++ [flagByte s.measure.truncated]
  else if bit = 9 then bytes1 s.measure.history.length ++ s.measure.historyBytes
  else if bit = 10 then [s.rst.lastCause.code] ++ s.rst.counts.toList.flatMap bytes16
  else bytes32 s.checker.sequence

/-- The selected fields, in bit order (10 R162). -/
def State.reportFields (s : State) (mask : Word16) : Bytes :=
  (List.range 12).flatMap (fun bit => if inSet mask bit then s.reportField bit else [])

/-- The report without its signature (10 R161, R162). -/
def State.report (s : State) (nonce : Bytes) (mask : Word16) : Bytes :=
  let r := s.update.record
  let fields := s.reportFields mask
  [1] ++ beBytes 2 (100 + fields.length + 64) ++ digestBytes (sha256 (pairBytes s.keys.identity.publicKey)) ++
    nonce ++ bytes16 mask ++ bytes1 s.measure.stage.toNat ++ bytes32 s.rst.bootCounter ++ bytes32 s.time.uptime ++
    [s.anchor.lifeCycle.code, flagByte s.contained, s.response.causes, r.active.code] ++
    bytes32 r.bankA.version ++ bytes32 r.bankB.version ++ [r.bankA.state.code, r.bankB.state.code] ++
    bytes32 s.anchor.floor ++ [s.trialCode] ++ bytes1 r.attempts ++ [r.outcome.code, s.ownership] ++ fields

/-- ATTEST (10 R159, R160): the snapshot is taken; the Signature Unit signs it. -/
def State.attest (s : State) (body : Bytes) : State :=
  let mask := word16At body 32
  if body.length = 34 ∧ mask.toNat < 4096 then
    { s.wait with signature := some (.attest (s.report (body.take 32) mask)) }
  else s.refuse .malformed

/-- ATTEST. -/
def execAttest (s : State) : Host.Outcome State Fault Refusal := .next (s.take .attest s.attest)

end Sys2Proof.Machine
end

