-- ==== Sys2Proof/Machine/Signature.lean ====
section
/-! DEFINITION. SIGNATURE_UNIT_COMPLETE: the Signature Unit's operation for the command in the engine
completes (07 R106 ~ R111, 08 R123, 09 R144, 10 R163). -/

namespace Sys2Proof.Machine

/-- The record of a key just generated (07 R107). -/
def State.generatedKey (s : State) (cls : KeyClass) (sign : Bool) (mask : Byte) (needsGrant containedOk : Bool)
    (bind : Option Nat) : KeyRecord :=
  let value := Config.random s.fresh
  let secret := if sign then scalarOf value else value
  { cls := cls
    usage := if sign then .sign (publicKey secret) else .derive bind
    stageMask := mask
    needsGrant := needsGrant
    containedOk := containedOk
    epoch := match cls with
      | .owner => s.journal.epoch
      | .platform => 0
    secret := secret }

/-- Random values drawn. -/
def State.draw (s : State) (n : Nat) : State := { s with fresh := s.fresh + n }

/-- A use of a key completes (07 R106): the conditions tested again on the key it was taken with, then the
result. -/
def State.completeUse (s : State) (n : Nat) (k : KeyRecord) (result : Bytes) : State :=
  match s.keyRecheck n k with
  | some r => s.refuse r
  | none => s.finish .ok (bytes1 n ++ result)

/-- UPDATE OPEN after its signature check (09 R144 (5) ~ (8), R145). -/
def State.manifestDone (s : State) (body : Bytes) : State :=
  match s.judgeManifest body with
  | .error r => s.refuse r
  | .ok m => s.place (.updateOpen m) true

/-- What the completion of an operation does. -/
def State.signatureDone (s : State) (job : SignatureJob) : State :=
  match job with
  | .createKey n cls sign mask needsGrant containedOk bind =>
    (s.draw 1).place (.keyCreate n (s.generatedKey cls sign mask needsGrant containedOk bind)) true
  | .sign n k d => (s.draw signDraws).completeUse n k (pairBytes (ecdsaSign k.secret d s.fresh))
  | .derive n k message => s.completeUse n k (digestBytes (hmacKey k.secret message))
  | .salt id v value =>
    let salt := (Config.random s.fresh).setWidth 128
    (s.draw 1).place
      (.credStore id (.verifier { v with salt := salt, verifier := saltedDigest salt value }) s.journal.epoch) true
  | .attest report =>
    (s.draw signDraws).finish .ok
      (report ++ pairBytes (ecdsaSign s.keys.identity.scalar (sha256 report) s.fresh))
  | .manifest body => s.manifestDone body

/-- SIGNATURE_UNIT_COMPLETE (R106). -/
def execSignatureUnitComplete (s : State) : Host.Outcome State Fault Refusal :=
  .next (s.whenPowered (match s.signature with
    | some job => State.signatureDone { s with signature := none } job
    | none => s))

end Sys2Proof.Machine
end

