-- ==== Sys2Proof/Machine/SocPort.lean ====
section
/-! DEFINITION. The SoC bus commands: transactions, reads, programs and erases, the emulated latch, status
and ID (01), with what the window does with them (03 R42 ~ R46). -/

namespace Sys2Proof.Machine

/-! ### The transaction in progress -/

/-- The decode record of a transaction that has received nothing (01 R1). -/
def Decode.fresh : Decode :=
  { phase := .opcode, opcode := 0, entry := none, addressBytes := [], dummyLeft := 0, dataCount := 0,
    page := emptyPage, violated := false, run := none }

/-- The Flash Port Arbiter at the start of a SoC transaction (01 R14, R15). -/
def Arbiter.serveSoc (a : Arbiter) (suspend poll : Byte) : Arbiter :=
  match a.grant with
  | .free => { a with grant := .socRead }
  | .internal _ (.read _ _) => { a with grant := .socRead }
  | .internalWithdrawn _ _ _ => { a with grant := .socRead }
  | .internal r op =>
    { a with grant := .socRead, suspended := some (r, op), suspendDone := false, bus := [[suspend], [poll]] }
  | .socRead => a
  | .socWrite _ => a

/-- SSEL falls (01 R1, R4, R14). Without supply, while SOC_RST is asserted or while SSEL is already low only
the level changes. -/
def State.startTransaction (s : State) : State :=
  let s1 := { s with lines := { s.lines with ssel := true } }
  if s.powered && !s.socRst && !s.lines.ssel && s.port.decode.isNone && !s.port.waitHigh then
    let a := s.arbiter.serveSoc (s.flashOp .suspend) (s.flashOp .statusRead)
    { s1 with port := { s.port with decode := some Decode.fresh }, arbiter := a }
  else s1

/-- SSEL rises (01 R1, R14 ~ R16). -/
def State.endTransaction (s : State) : State :=
  let s1 := { s with lines := { s.lines with ssel := false } }
  if s.powered && s.port.decode.isSome then
    State.portIdle { s1 with port := { s.port with decode := none } }
  else if s.powered then { s1 with port := { s.port with waitHigh := false } }
  else s1

/-- The transaction has received nothing and its opcode is of a class: its decode record and entry. -/
def State.opening (s : State) (opcode : Byte) (cls : OpClass) : Option (Decode × OpcodeEntry) :=
  if s.powered then
    match s.port.decode, lookupOpcode s.opcodes opcode with
    | some d, some e => if d.phase = .opcode ∧ e.cls = cls then some (d, e) else none
    | _, _ => none
  else none

/-- The decode record and what SDOUT carried. -/
def State.withDecode (s : State) (d : Decode) (out : Bytes) : State :=
  { s with port := { s.port with decode := some d, sdout := out } }

/-- SDOUT held high for `n` bytes (01 R1). -/
def highBytes (n : Nat) : Bytes := List.replicate n 0xFF

/-- The decode record after an opcode of an address class and the bytes after it (01 R1): the phase the
transaction has reached. -/
def Decode.addressed (d : Decode) (e : OpcodeEntry) (received : Bytes) : Decode :=
  let left := e.dummy - (received.length - 3)
  { d with
    opcode := e.opcode
    entry := some e
    addressBytes := received.take 3
    dummyLeft := left
    phase := if received.length < 3 then .address else if left = 0 then .data else .dummy }

/-! ### Reads -/

/-- The opcode, address and dummy bytes of a read have been received (01 R1). Each byte after them is a
READ_DATA_BYTE. -/
def State.openRead (s : State) (cls : OpClass) (opcode : Byte) (received : Bytes) : State :=
  match s.opening opcode cls with
  | some (d, e) =>
    let r := received.take (3 + e.dummy)
    s.withDecode (d.addressed e r) (highBytes r.length)
  | none => s

/-- A byte of the request or response area (03 R42). -/
def Window.byteAt (w : Window) (p : Nat) : Byte :=
  if p < responseBase then w.request.read (p - windowBase)
  else
    let o := p - responseBase
    if o = 0 then w.engine.code
    else if o = 1 then flagByte w.overrun
    else if o = 2 then w.tag
    else if o = 3 then w.result
    else if o < 6 then Machine.byteAt (beBytes 2 w.body.length) (o - 4)
    else if o < 8 then Machine.byteAt (bytes16 w.summary) (o - 6)
    else w.body.getD (o - 8) 0xFF

/-- Flash bytes can be fetched: no forwarded SoC write is in progress (01 R12) and no suspension is still
to complete (01 R15). -/
def Arbiter.fetches (a : Arbiter) : Bool :=
  (match a.grant with
    | .socWrite _ => false
    | _ => true) && (a.suspended.isNone || a.suspendDone)

/-- The presented address of the next data byte; it wraps from FFFFFFh to 000000h (01 R5). -/
def Decode.nextAddress (d : Decode) : Nat := (presentedAddress d.addressBytes + d.dataCount) % 16777216

/-- The flash-side read that starts a run (01 R12): opcode of the entry that classified the transaction,
the 4-byte address and for FAST_READ the entry's dummy bytes, sent as 00h (log entry 10). -/
def readFrame (e : OpcodeEntry) (physical : Nat) : Bytes :=
  [e.flashOp] ++ beBytes 4 physical ++ (if e.cls = .fastRead then List.replicate e.dummy 0 else [])

/-- The run goes on at this byte. -/
def FlashRun.continues (run : Option FlashRun) (region : Option Nat) (sub : Bool) (physical : Nat) : Bool :=
  match run with
  | some r => r.region == region && r.substituted == sub && r.next == physical
  | none => false

/-- A byte of the read is served: SDOUT, the count of data bytes and the flash-side run. -/
def State.serve (s : State) (d : Decode) (out : Byte) (run : Option FlashRun) : State :=
  s.withDecode { d with dataCount := d.dataCount + 1, run := run } [out]

/-- A flash byte is served (01 R12): a new flash-side read begins where the run does not go on. -/
def State.serveFlash (s : State) (d : Decode) (e : OpcodeEntry) (misread : FlashCells)
    (region : Option Nat) (sub : Bool) (physical : Nat) : State :=
  if s.arbiter.fetches then
    let run := some { region := region, substituted := sub, next := physical + 1 }
    let s1 := s.serve d (s.flash.readThrough misread physical) run
    if FlashRun.continues d.run region sub physical then s1
    else { s1 with arbiter := { s.arbiter with bus := [readFrame e physical] } }
  else s.serve d 0xFF none

/-- A fill byte is served; the first of a read that is denied or unmapped records its violation
(02 R26). -/
def State.serveFill (s : State) (d : Decode) (cls : OpClass) (v : Option (ViolationKind × Option Nat)) : State :=
  match v with
  | some (kind, region) =>
    if d.violated then s.serve d 0xFF none
    else (s.serve { d with violated := true } 0xFF none).violate kind cls d.nextAddress region
  | none => s.serve d 0xFF none

/-- One data byte of a read (01 R5, 02 R25). -/
def State.readDataByte (s : State) (misread : FlashCells) : State :=
  match s.port.decode with
  | some d =>
    match d.entry with
    | some e =>
      if d.phase = .data ∧ (e.cls = .read ∨ e.cls = .fastRead) then
        match s.byteSource d.nextAddress with
        | .window => s.serve d (s.window.byteAt d.nextAddress) none
        | .flash region sub physical => s.serveFlash d e misread region sub physical
        | .fill v => s.serveFill d e.cls v
      else s
    | none => s
  | none => s

/-! ### The window: request programs and submissions -/

/-- The request buffer with the filled positions of a page image written from an offset on (03 R43). -/
def writePage (offset : Nat) : Memory → List (Option Byte) → Memory
  | m, [] => m
  | m, none :: rest => writePage (offset + 1) m rest
  | m, some v :: rest => writePage (offset + 1) (m.write offset v) rest

/-- A PROGRAM in the window (03 R43, R44). -/
def State.windowProgram (s : State) (p : Nat) (page : List (Option Byte)) : State :=
  if p < responseBase then
    { s with window :=
        if s.window.engine = .busy then { s.window with overrun := true }
        else { s.window with request := writePage (pageBase p - windowBase) s.window.request page } }
  else s.violate .window .program p none

/-- The commands FACTORY does not take (03 R46 (3)). -/
def Command.fieldOnly : Command → Bool
  | .attest | .keyCreate | .keySign | .keyDerive | .keyDestroy => true
  | .credStore | .credRelease | .credVerify | .credErase | .credList | .grantDrop => true
  | .updateOpen | .updateVerify | .updateStatus | .updateCommit | .updateAbort | .updateConfirm => true
  | .status | .events | .resetSoc | .causeClear | .stageAdvance | .measureExtend | .measureRead | .logRead => false
  | .keyPublic | .keyList | .violationRead | .layoutRead => false
  | .provisionLayout | .provisionAuthority | .provisionBank | .provisionFinish => false

/-- The PROVISION commands, which FIELD does not take. -/
def Command.factoryOnly : Command → Bool
  | .provisionLayout | .provisionAuthority | .provisionBank | .provisionFinish => true
  | _ => false

/-- The commands taken between PROVISION FINISH and the next assertion of SOC_RST (12 R178). -/
def Command.takenAfterFinish : Command → Bool
  | .status | .events | .resetSoc | .causeClear | .violationRead | .layoutRead => true
  | .measureRead | .logRead | .keyList | .keyPublic => true
  | _ => false

/-- The current life cycle takes the command (03 R46 (3), 12 R178). -/
def State.lifeCycleTakes (s : State) (c : Command) : Bool :=
  if s.isField then !c.factoryOnly && (!s.checker.openMapping || c.takenAfterFinish)
  else !c.fieldOnly

/-- The body offset and body length of the request header. -/
def Window.bodyOffset (w : Window) : Nat := beNat (w.request.readBytes 2 2)
def Window.bodyLength (w : Window) : Nat := beNat (w.request.readBytes 4 2)

/-- The examination of the request header (03 R46): a failure completes the command at once, otherwise
it is handed to its owning block with its body. A frame with the code of EVENTS that fails step (1) raises DONE
like any other (DESIGN CHOICE, log entry 35). -/
def State.examine (s : State) : State :=
  let w := s.window
  if !(decide (6 ≤ w.bodyOffset) && decide (w.bodyOffset ≤ 2047) && decide (w.bodyOffset + w.bodyLength ≤ 2048)) then
    s.finish .malformed []
  else match Command.ofCode (w.request.read 0) with
    | none => s.finish .unknown []
    | some c =>
      if s.lifeCycleTakes c then
        { s with window := { w with
            command := some { command := c, body := w.request.readBytes w.bodyOffset w.bodyLength, taken := false } } }
      else s.finish .lifecycle []

/-- A submission (03 R45). -/
def State.submit (s : State) : State :=
  if s.window.engine = .busy then { s with window := { s.window with overrun := true } }
  else State.examine { s with window := { s.window with
      engine := .busy, overrun := false, tag := s.window.request.read 1, result := 0xFF, body := [],
      command := none } }

/-! ### Programs and erases -/

/-- An internal program or erase is in progress or suspended (01 R7, R16). -/
def Arbiter.internalWriting (a : Arbiter) : Bool :=
  a.suspended.isSome ||
  (match a.grant with
    | .internal _ (.read _ _) => false
    | .internal _ _ => true
    | _ => false)

/-- A write that passed the Region Checker: forwarded at once, or placed in the deferred write buffer while
an internal program or erase is in progress or suspended (01 R7 (3), R16). -/
def State.handWrite (s : State) (w : SocWrite) : State :=
  if s.arbiter.internalWriting then { s with arbiter := { s.arbiter with deferred := some w } }
  else s.forward w

/-- The three steps of a complete program or erase (01 R7): with the WEL clear it is ignored; with the busy
indication 1 it is dropped as WRITE_WHILE_BUSY; otherwise `act` decides it. -/
def State.judgeWrite (s : State) (cls : OpClass) (p : Nat) (act : State → State) : State :=
  if s.port.wel then
    let s1 := { s with port := { s.port with wel := false } }
    if s.arbiter.busy then s1.violate .writeWhileBusy cls p (s.lookup p).index
    else act s1
  else s

/-- A PROGRAM that reaches the Region Checker (02 R28). -/
def State.placeProgram (s : State) (e : OpcodeEntry) (p : Nat) (page : List (Option Byte)) : State :=
  match s.judgeProgram p with
  | .window => s.windowProgram p page
  | .dropped k r => s.violate k .program p r
  | .allowed a => s.handWrite ⟨.program, e.flashOp, a, imageData page p⟩

/-- An erase that reaches the Region Checker (02 R29, R30). -/
def State.placeErase (s : State) (e : OpcodeEntry) (p size : Nat) : State :=
  match s.judgeErase p size with
  | .window => s.submit
  | .dropped k r => s.violate k e.cls p r
  | .allowed a => s.handWrite ⟨e.cls, e.flashOp, a, []⟩

/-- A PROGRAM transaction ends with the bytes received after its opcode (01 R4, R7, 02 R27). -/
def State.programTransaction (s : State) (opcode : Byte) (received : Bytes) : State :=
  match s.opening opcode .program with
  | some (d, e) =>
    let data := dataBytes received e.dummy
    if data = [] then s.withDecode (d.addressed e received) (highBytes received.length)
    else
      let p := presentedAddress received
      let page := pageImage p data
      let d' := { d.addressed e received with phase := .ended, dataCount := data.length, page := page }
      (s.withDecode d' (highBytes received.length)).judgeWrite .program p (fun s => s.placeProgram e p page)
  | none => s

/-- An erase transaction ends with the bytes received after its opcode (01 R4, R7). -/
def State.eraseTransaction (s : State) (cls : OpClass) (size : Nat) (opcode : Byte) (received : Bytes) : State :=
  match s.opening opcode cls with
  | some (d, e) =>
    if received.length < 3 then s.withDecode (d.addressed e received) (highBytes received.length)
    else
      let p := presentedAddress received
      let d' := { d.addressed e received with phase := .ended }
      (s.withDecode d' (highBytes received.length)).judgeWrite cls p (fun s => s.placeErase e p size)
  | none => s

/-! ### Status, ID, refused opcodes -/

/-- The bytes SDOUT carries for `n` bytes of a class that answers byte by byte: FFh for dummy bytes, then
`answer k` for data byte `k` (01 R1, R8, R9). -/
def answerBytes (d : Decode) (n : Nat) (answer : Nat → Byte) : Bytes :=
  highBytes (min n d.dummyLeft) ++ (List.range (n - d.dummyLeft)).map (fun k => answer (d.dataCount + k))

/-- The decode record after `n` more bytes. -/
def Decode.clocked (d : Decode) (n : Nat) : Decode :=
  { d with dummyLeft := d.dummyLeft - n, dataCount := d.dataCount + (n - d.dummyLeft),
           phase := if d.dummyLeft ≤ n then .data else .dummy }

/-- A transaction of a class without address that takes effect at its end, and the `n` bytes clocked after its
opcode, for which SDOUT is high (01 R1, R6, R10): `f` is the effect. -/
def State.plainTransaction (s : State) (cls : OpClass) (opcode : Byte) (n : Nat) (f : State → State) : State :=
  match s.opening opcode cls with
  | some (d, e) =>
    let d' := Decode.clocked { d with opcode := opcode, entry := some e, dummyLeft := e.dummy } n
    f (s.withDecode { d' with phase := .ended } (highBytes n))
  | none => s

/-- The decode record of a transaction of this class that begins now or is already under way. -/
def State.answering (s : State) (opcode : Byte) (cls : OpClass) : Option Decode :=
  match s.opening opcode cls with
  | some (d, e) => some { d with opcode := opcode, entry := some e, dummyLeft := e.dummy }
  | none =>
    if s.powered then
      match s.port.decode with
      | some d => match d.entry with
        | some e =>
          if d.phase ≠ .opcode ∧ d.phase ≠ .ended ∧ d.opcode = opcode ∧ e.cls = cls then some d else none
        | none => none
      | none => none
    else none

/-- `n` bytes of a STATUS_READ or ID_READ are clocked. -/
def State.answer (s : State) (opcode : Byte) (cls : OpClass) (n : Nat) (byte : Nat → Byte) : State :=
  match s.answering opcode cls with
  | some d => s.withDecode (d.clocked n) (answerBytes d n byte)
  | none => s

/-- The class a refused opcode's violation carries: REFUSE for an opcode held by no entry (02 R36);
`none` for an opcode that is not refused (01 R2). -/
def State.refusedClass (s : State) (opcode : Byte) : Option OpClass :=
  match lookupOpcode s.opcodes opcode with
  | none => some .refuse
  | some e => if e.cls = .refuse ∨ e.cls = .suspend ∨ e.cls = .resume then some e.cls else none

/-- A refused opcode and `n` bytes after it (01 R2): one violation when the opcode byte is complete, FFh on
SDOUT for every byte after it. -/
def State.refuseOpcode (s : State) (opcode : Byte) (n : Nat) : State :=
  if s.powered then
    match s.port.decode, s.refusedClass opcode with
    | some d, some cls =>
      if d.phase = .opcode then
        let d' := { d with phase := .data, opcode := opcode, entry := lookupOpcode s.opcodes opcode, dataCount := n, violated := true }
        (s.withDecode d' (highBytes n)).violate .opcode cls 0 none
      else if d.phase = .data ∧ d.opcode = opcode ∧ d.violated then
        s.withDecode { d with dataCount := d.dataCount + n } (highBytes n)
      else s
    | _, _ => s
  else s

/-! ### The commands -/

/-- TRANSACTION_START (R14): SSEL goes low. -/
def execTransactionStart (s : State) : Host.Outcome State Fault Refusal := .next s.startTransaction

/-- TRANSACTION_END (R1): SSEL goes high. -/
def execTransactionEnd (s : State) : Host.Outcome State Fault Refusal := .next s.endTransaction

/-- SUSPEND_COMPLETE (R15): the flash polled after a suspend reads ready. -/
def execSuspendComplete (s : State) : Host.Outcome State Fault Refusal :=
  .next (s.whenPowered
    (if s.arbiter.suspended.isSome && s.arbiter.grant == .socRead then
      { s with arbiter := { s.arbiter with suspendDone := true } }
    else s))

/-- READ (R25). -/
def execRead (opcode : Byte) (received : Bytes) (s : State) : Host.Outcome State Fault Refusal :=
  .next (s.openRead .read opcode received)

/-- FAST_READ (R25). -/
def execFastRead (opcode : Byte) (received : Bytes) (s : State) : Host.Outcome State Fault Refusal :=
  .next (s.openRead .fastRead opcode received)

/-- READ_DATA_BYTE (R5). -/
def execReadDataByte (misread : FlashCells) (s : State) : Host.Outcome State Fault Refusal :=
  .next (s.whenPowered (s.readDataByte misread))

/-- PROGRAM (R7). -/
def execProgram (opcode : Byte) (received : Bytes) (s : State) : Host.Outcome State Fault Refusal :=
  .next (s.programTransaction opcode received)

/-- ERASE_4K (R29). -/
def execErase4k (opcode : Byte) (received : Bytes) (s : State) : Host.Outcome State Fault Refusal :=
  .next (s.eraseTransaction .erase4k 4096 opcode received)

/-- ERASE_64K (R29). -/
def execErase64k (opcode : Byte) (received : Bytes) (s : State) : Host.Outcome State Fault Refusal :=
  .next (s.eraseTransaction .erase64k 65536 opcode received)

/-- ERASE_CHIP (R10): never forwarded; with the WEL set it clears it and records an OPCODE violation. -/
def execEraseChip (bare : BareTransaction) (s : State) : Host.Outcome State Fault Refusal :=
  .next (s.plainTransaction .eraseChip bare.opcode bare.n (fun s =>
    if s.port.wel then
      State.violate { s with port := { s.port with wel := false } } .opcode .eraseChip 0 none
    else s))

/-- WRITE_ENABLE (R6). -/
def execWriteEnable (bare : BareTransaction) (s : State) : Host.Outcome State Fault Refusal :=
  .next (s.plainTransaction .writeEnable bare.opcode bare.n (fun s => { s with port := { s.port with wel := true } }))

/-- WRITE_DISABLE (R6). -/
def execWriteDisable (bare : BareTransaction) (s : State) : Host.Outcome State Fault Refusal :=
  .next (s.plainTransaction .writeDisable bare.opcode bare.n (fun s => { s with port := { s.port with wel := false } }))

/-- STATUS_READ (R8): `n` status bytes. -/
def execStatusRead (opcode : Byte) (n : Nat) (s : State) : Host.Outcome State Fault Refusal :=
  .next (s.answer opcode .statusRead n (fun _ => s.statusByte))

/-- ID_READ (R9): the presented ID, then FFh. -/
def execIdRead (opcode : Byte) (n : Nat) (s : State) : Host.Outcome State Fault Refusal :=
  .next (s.answer opcode .idRead n (fun k => (s.presentedId.take 3).getD k 0xFF))

/-- REFUSED_OPCODE (R2). -/
def execRefusedOpcode (opcode : Byte) (n : Nat) (s : State) : Host.Outcome State Fault Refusal :=
  .next (s.refuseOpcode opcode n)

end Sys2Proof.Machine
end

