-- ==== Sys2Proof/Machine/Dispatch.lean ====
section
/-! DEFINITION. One command's effect on everything but the queue: one arm for each command. -/

namespace Sys2Proof.Machine

def exec (i : Instr) (s : State) : Host.Outcome State Fault Refusal :=
  match i with
  | .powerOn => Sys2Proof.Machine.execPowerOn s
  | .uptimeTick => Sys2Proof.Machine.execUptimeTick s
  | .transactionStart => Sys2Proof.Machine.execTransactionStart s
  | .suspendComplete => Sys2Proof.Machine.execSuspendComplete s
  | .transactionEnd => Sys2Proof.Machine.execTransactionEnd s
  | .read opcode received => Sys2Proof.Machine.execRead opcode received s
  | .fastRead opcode received => Sys2Proof.Machine.execFastRead opcode received s
  | .readDataByte misread => Sys2Proof.Machine.execReadDataByte misread s
  | .program opcode received => Sys2Proof.Machine.execProgram opcode received s
  | .erase4k opcode received => Sys2Proof.Machine.execErase4k opcode received s
  | .erase64k opcode received => Sys2Proof.Machine.execErase64k opcode received s
  | .eraseChip bare => Sys2Proof.Machine.execEraseChip bare s
  | .writeEnable bare => Sys2Proof.Machine.execWriteEnable bare s
  | .writeDisable bare => Sys2Proof.Machine.execWriteDisable bare s
  | .statusRead opcode n => Sys2Proof.Machine.execStatusRead opcode n s
  | .idRead opcode n => Sys2Proof.Machine.execIdRead opcode n s
  | .refusedOpcode opcode n => Sys2Proof.Machine.execRefusedOpcode opcode n s
  | .internalGrant => Sys2Proof.Machine.execInternalGrant s
  | .readChunkComplete misread => Sys2Proof.Machine.execReadChunkComplete misread s
  | .storeReadChunkComplete misread => Sys2Proof.Machine.execStoreReadChunkComplete misread s
  | .flashOperationComplete failed => Sys2Proof.Machine.execFlashOperationComplete failed s
  | .storeRequestTaken => Sys2Proof.Machine.execStoreRequestTaken s
  | .signatureUnitComplete => Sys2Proof.Machine.execSignatureUnitComplete s
  | .rstReqAsserted => Sys2Proof.Machine.execRstReqAsserted s
  | .rstReqDeasserted => Sys2Proof.Machine.execRstReqDeasserted s
  | .pulseEnd => Sys2Proof.Machine.execPulseEnd s
  | .ownerClrAsserted => Sys2Proof.Machine.execOwnerClrAsserted s
  | .ownerClrDeasserted => Sys2Proof.Machine.execOwnerClrDeasserted s
  | .ownerReset => Sys2Proof.Machine.execOwnerReset s
  | .trialTimerExpiry => Sys2Proof.Machine.execTrialTimerExpiry s
  | .grantExpiry => Sys2Proof.Machine.execGrantExpiry s
  | .delayExpiry id => Sys2Proof.Machine.execDelayExpiry id s
  | .decayExpiry id => Sys2Proof.Machine.execDecayExpiry id s
  | .status => Sys2Proof.Machine.execStatus s
  | .events => Sys2Proof.Machine.execEvents s
  | .resetSoc => Sys2Proof.Machine.execResetSoc s
  | .causeClear => Sys2Proof.Machine.execCauseClear s
  | .stageAdvance => Sys2Proof.Machine.execStageAdvance s
  | .measureExtend => Sys2Proof.Machine.execMeasureExtend s
  | .measureRead => Sys2Proof.Machine.execMeasureRead s
  | .logRead => Sys2Proof.Machine.execLogRead s
  | .attest => Sys2Proof.Machine.execAttest s
  | .keyCreate => Sys2Proof.Machine.execKeyCreate s
  | .keyPublic => Sys2Proof.Machine.execKeyPublic s
  | .keySign => Sys2Proof.Machine.execKeySign s
  | .keyDerive => Sys2Proof.Machine.execKeyDerive s
  | .keyDestroy => Sys2Proof.Machine.execKeyDestroy s
  | .keyList => Sys2Proof.Machine.execKeyList s
  | .credStore => Sys2Proof.Machine.execCredStore s
  | .credRelease => Sys2Proof.Machine.execCredRelease s
  | .credVerify => Sys2Proof.Machine.execCredVerify s
  | .credErase => Sys2Proof.Machine.execCredErase s
  | .credList => Sys2Proof.Machine.execCredList s
  | .grantDrop => Sys2Proof.Machine.execGrantDrop s
  | .updateOpen => Sys2Proof.Machine.execUpdateOpen s
  | .updateVerify => Sys2Proof.Machine.execUpdateVerify s
  | .updateStatus => Sys2Proof.Machine.execUpdateStatus s
  | .updateCommit => Sys2Proof.Machine.execUpdateCommit s
  | .updateAbort => Sys2Proof.Machine.execUpdateAbort s
  | .updateConfirm => Sys2Proof.Machine.execUpdateConfirm s
  | .violationRead => Sys2Proof.Machine.execViolationRead s
  | .layoutRead => Sys2Proof.Machine.execLayoutRead s
  | .provisionLayout => Sys2Proof.Machine.execProvisionLayout s
  | .provisionAuthority => Sys2Proof.Machine.execProvisionAuthority s
  | .provisionBank => Sys2Proof.Machine.execProvisionBank s
  | .provisionFinish => Sys2Proof.Machine.execProvisionFinish s
  | .anchorMemoryWriteComplete => Sys2Proof.Machine.execAnchorMemoryWriteComplete s
  | .lossOfSupply torn => Sys2Proof.Machine.execLossOfSupply torn s

end Sys2Proof.Machine
end

