-- ==== Sys2Proof/Machine/Step.lean ====
section
/-! DEFINITION. One step: the command at the front of the queue, or on an empty queue a millisecond. -/

namespace Sys2Proof.Machine

/-- The part on an empty queue (log entry 2): while the supply is up a millisecond passes, but never the
last of a second, which UPTIME_TICK ends. Nothing else changes. -/
def State.idle (s : State) : State :=
  if s.powered = true ∧ (s.time.clock + 1) % 1000 ≠ 0 then
    { s with time := { s.time with clock := s.time.clock + 1 } }
  else s

/-- The step: the command at the front, with the queue's rest left in the state. -/
def step (s : State) : Host.Outcome State Fault Refusal :=
  match s.pending with
  | [] => .next s.idle
  | c :: rest => exec c { s with pending := rest }

/-- The state with the command that a word spells in front; unchanged where it spells none. -/
def State.withFetchWord (s : State) (nbits w : Nat) : State :=
  match Sys2Proof.decodeTableWord nbits w with
  | some c => { s with pending := c :: s.pending }
  | none => s

end Sys2Proof.Machine
end

