-- ==== Sys2Proof/Safety.lean ====
section
/-! DEFINITION. What claims speak of: what a part keeps true of itself in every step (the invariants the
manual states of the whole part), and the words in which the statements say what a command leaves. -/

namespace Sys2Proof.Machine

/-! ### Words for commands of the control window -/

/-- A window command stands in the engine, handed to its owning block, and has not been taken (03 R46). -/
def State.hands (s : State) (c : Command) (body : Bytes) : Prop :=
  s.powered = true ∧ s.window.command = some { command := c, body := body, taken := false }

/-- The state after a completion with a result code and a body, and nothing else changed (03 R47). -/
def State.posted (s : State) (result : Byte) (body : Bytes) : State :=
  { s with window := { s.window with
      engine := .done, result := result, body := body, command := none,
      pendingEvents := s.window.pendingEvents ||| 1 } }

/-- The state in which the command's owner has taken it and waits with the engine as it was (03 R47). -/
def State.waiting (s : State) (c : Command) (body : Bytes) : State :=
  { s with window := { s.window with command := some { command := c, body := body, taken := true } } }

/-- The queue with a store request of the command engine's placed at its end (06 R90). -/
def State.queued (s : State) (q : StoreRequest) : State :=
  { s with journal := { s.journal with queue := s.journal.queue ++ [q] } }

/-- No request of the source is held, queued or in progress, and every held request waits for an earlier one
of its source (06 R90). -/
def Journal.freeFor (j : Journal) (src : StoreSource) : Prop :=
  j.outstanding src = false ∧ ∀ h ∈ j.held, j.outstanding h.purpose.source = true

/-- While the Response Unit has no request outstanding it takes the oldest id of the erase list under which a record
exists, and places the removal entry with the record's owner epoch; ids without a record are passed (11 R171). -/
def NextErased (v t : State) : Prop :=
  (∀ passed id rest r, v.response.eraseList = passed ++ id :: rest → (∀ k ∈ passed, v.creds.get k = none) →
    v.creds.get id = some r → t = State.queued { v with response := { v.response with eraseList := rest } } {
      purpose := .responseErase id r.epoch
      live := false
      entries := [{ kind := .cred, id := id, epoch := r.epoch, secret := false, payload := [] }]
      floorRaise := none
      authorityHash := none
      record := none }) ∧
  ((∀ k ∈ v.response.eraseList, v.creds.get k = none) →
    t = { v with response := { v.response with eraseList := [] } })

/-! ### Words for SoC transactions -/

/-- A transaction that has received nothing yet, whose opcode the table in force gives the entry `e` of the
class `c` (01 R1, R3). -/
def State.opens (s : State) (opcode : Byte) (c : OpClass) (d : Decode) (e : OpcodeEntry) : Prop :=
  s.powered = true ∧ s.port.decode = some d ∧ d.phase = .opcode ∧
    lookupOpcode s.opcodes opcode = some e ∧ e.cls = c

/-- The state with the decode record of a transaction that has run its course, with a WEL and what SDOUT
carried last. -/
def State.ended (s : State) (d : Decode) (wel : Bool) (out : Bytes) : State :=
  { s with port := { s.port with decode := some d, wel := wel, sdout := out } }

/-! ### Words for addresses -/

/-- The byte of the control window at a presented address (03 R42): below FFF800h that of the request buffer, from
there on the response header, as it stands, the response body, and FFh after it. -/
def State.windowByte (s : State) (p : Nat) : Byte :=
  let engine : Byte := match s.window.engine with
    | .idle => 0
    | .busy => 1
    | .done => 2
  let header : Bytes := [engine, if s.window.overrun then 1 else 0, s.window.tag, s.window.result] ++
    beBytes 2 s.window.body.length ++ [0, s.window.pendingEvents]
  if p < 0xFFF800 then s.window.request.read (p - 0xFFF000) else (header ++ s.window.body).getD (p - 0xFFF800) 0xFF

/-- The physical address of an offset of a region (02 R19): PLAIN from physical base A, BANKED from the base of the
presented bank, STAGE from the base of its parent's other bank. -/
def State.physical (s : State) (r : Region) (offset : Nat) : Nat :=
  let a : Prop := s.update.presented = .a
  match r.kind with
  | .banked => (if a then r.physA else r.physB).getD 0 + offset
  | .stage => (match s.checker.layout, r.parent with
    | some l, some i => (match l.region? i with
      | some parent => (if a then parent.physB else parent.physA).getD 0 + offset
      | none => offset)
    | _, _ => offset)
  | .plain => r.physA.getD 0 + offset
  | .recovery => r.physA.getD 0 + offset

/-! ### What the Response Unit can reach -/

/-- `t` differs from `s` only where an offer to the Response Unit reaches (11 R169 ~ R171): pending events,
the Response Unit's own state, the hide set, the disabled set, the owner grant and the store requests of the
Response Unit. Events, causes, hidden regions and disabled slots only join, and the grant is at most
cleared. -/
structure ResponseOnly (s t : State) : Prop where
  pending : t.pending = s.pending
  powered : t.powered = s.powered
  lines : t.lines = s.lines
  port : t.port = s.port
  arbiter : t.arbiter = s.arbiter
  flash : t.flash = s.flash
  time : t.time = s.time
  rst : t.rst = s.rst
  measure : t.measure = s.measure
  anchor : t.anchor = s.anchor
  signature : t.signature = s.signature
  fresh : t.fresh = s.fresh
  update : t.update = s.update
  window : t.window = { s.window with pendingEvents := t.window.pendingEvents }
  events : ∀ k, s.window.pendingEvents.getLsbD k = true → t.window.pendingEvents.getLsbD k = true
  checker : t.checker = { s.checker with hideSet := t.checker.hideSet }
  hides : ∀ k, s.checker.hideSet.getLsbD k = true → t.checker.hideSet.getLsbD k = true
  keys : t.keys = { s.keys with disabled := t.keys.disabled }
  disables : ∀ k, s.keys.disabled.getLsbD k = true → t.keys.disabled.getLsbD k = true
  records : t.creds.records = s.creds.records
  grant : t.creds.grant = s.creds.grant ∨ t.creds.grant = none
  journal : t.journal = { s.journal with queue := t.journal.queue, held := t.journal.held }
  causes : ∀ k, s.response.causes.getLsbD k = true → t.response.causes.getLsbD k = true
  table : t.response.table = s.response.table
  armed : t.response.armed = s.response.armed
  offered : t.response.offered = s.response.offered

/-! ### What a SoC reset and an entry into CHECK leave -/

/-- What the Flash Port Arbiter is left with when SOC_RST is asserted from RUN (01 R14 ~ R17; 05 R81; 09 R143). The
transaction in progress is dropped, so that a grant of SOC_READ returns to the suspended operation, which is resumed,
or to the deferred write, which is forwarded, or to FREE; a SoC write and an internal program or erase go on. The
Measurement Unit withdraws its read chunk, and so does the Update Controller where a session is open; the INTERNAL grant
of such a chunk in progress is kept, its bytes awaited by nobody (01 R17, log entry 44). -/
def FlashPortReset (s t : State) : Prop :=
  let kept : Arbiter :=
    { s.arbiter with measure := none, update := if s.update.session.isOpen then none else s.arbiter.update }
  (s.arbiter.grant = .socRead →
    (∀ r op, s.arbiter.suspended = some (r, op) → (∀ a n, op ≠ .read a n) → t.arbiter = { kept with
      grant := .internal r op, suspended := none, suspendDone := false
      bus := [[s.flashOp .resume], [s.flashOp .statusRead]] }) ∧
    (∀ w, s.arbiter.suspended = none → s.arbiter.deferred = some w → t.arbiter = { kept with
      grant := .socWrite w, deferred := none, bus := s.operationFrames w.flashOp w.op }) ∧
    (s.arbiter.suspended = none → s.arbiter.deferred = none → t.arbiter = { kept with grant := .free })) ∧
  (s.arbiter.grant = .free → t.arbiter = kept) ∧
  (∀ w, s.arbiter.grant = .socWrite w → t.arbiter = kept) ∧
  (∀ r op, s.arbiter.grant = .internal r op → (r = .journal ∨ ∀ a n, op ≠ .read a n) → t.arbiter = kept) ∧
  (∀ r a n, s.arbiter.grant = .internalWithdrawn r a n → t.arbiter = kept) ∧
  (∀ a n, s.arbiter.grant = .internal .measure (.read a n) →
    t.arbiter = { kept with grant := .internalWithdrawn .measure a n }) ∧
  (∀ a n, s.arbiter.grant = .internal .update (.read a n) →
    t.arbiter = { kept with
      grant := if s.update.session.isOpen then .internalWithdrawn .update a n else s.arbiter.grant })

/-- The Journal Store with nothing waiting for its requests any more (03 R48): they are all still written. -/
def Journal.unheeded (j : Journal) : Journal :=
  { j with
    held := j.held.map (fun h => { h with live := false })
    queue := j.queue.map (fun q => { q with live := false })
    job := j.job.map (fun x => { x with request := { x.request with live := false } }) }

/-- The bank record in which the inactive bank is EMPTY, with version, image lengths and digests 0 (09 R143, R145). -/
def State.emptied (s : State) (new : BankRecord) : Prop :=
  let inactive := s.update.presented.other
  new = s.update.record.setBank inactive (new.bank inactive) ∧ (new.bank inactive).state = .empty ∧
    (new.bank inactive).version = 0 ∧ ∀ x ∈ (new.bank inactive).images, x.length = 0 ∧ x.digest = 0

/-- What a SoC reset asks of the Journal Store (06 R90, 09 R143): every request stays; where a session is open, one
BANK entry that makes the inactive bank EMPTY is placed, or held while the Update Controller has one outstanding. -/
def StoreAtReset (s t : State) : Prop :=
  (s.update.session.isOpen = false → t.journal = s.journal.unheeded) ∧
  (s.update.session.isOpen = true → t.journal.anyRequest (fun p => p == .sessionAbandon) = true ∧
    (s.journal.freeFor .updateController → ∃ new, s.emptied new ∧
      t.journal = { s.journal.unheeded with queue := s.journal.unheeded.queue ++ [{
        purpose := .sessionAbandon
        live := false
        entries := [{ kind := .bank, id := 0, epoch := 0, secret := false, payload := new.payload }]
        floorRaise := none
        authorityHash := none
        record := some new }] }))

/-- What the blocks keep and what they set when SOC_RST is asserted from RUN (04 R55; 01 R4, R6, R14 ~ R17; 02 R31,
R32, R38; 03 R48, R51; 05 R71, R81; 06 R90; 08 R120; 09 R143, R155; 11 R168). The Reset Controller's own state is not
spoken of. -/
structure SocResetDone (s t : State) : Prop where
  decode : t.port.decode = none
  wel : t.port.wel = false
  window : t.window = { s.window with
    engine := .idle, request := [], tag := 0, result := 0xFF, body := [], overrun := false, command := none, mask := 0xFF }
  freezeSet : t.checker.freezeSet = if s.update.session.isOpen then 0 else s.checker.freezeSet &&& s.stageRegions
  hideSet : t.checker.hideSet = 0
  regionCounters : t.checker.regionCounters.toList = List.replicate 16 0
  unmappedCounter : t.checker.unmappedCounter = 0
  allCounter : t.checker.allCounter = 0
  ring : t.checker.ring = s.checker.ring
  sequence : t.checker.sequence = s.checker.sequence
  layout : t.checker.layout = s.checker.layout
  measure : t.measure = { s.measure with mismatches := 0, advance := none, current := none }
  signature : t.signature = none
  creds : t.creds = { s.creds with grant := none }
  keys : t.keys = s.keys
  update : t.update = { s.update with running := false, timer := none, session := .idle, verification := .none }
  response : t.response = { s.response with fired := 0 }
  index : t.journal.index = s.journal.index
  epoch : t.journal.epoch = s.journal.epoch
  store : t.journal.state = s.journal.state
  anchor : t.anchor = s.anchor
  flash : t.flash = s.flash
  time : t.time = s.time
  flashPort : FlashPortReset s t
  requests : StoreAtReset s t

/-- The physical base and the length that the measurement of a region of a layout hashes (05 R70, 09 R140): a BANKED
region's image in the presented bank, any other region whole. -/
def Layout.hashed (l : Layout) (record : BankRecord) (presented : Bank) (g : Region) : Nat × Nat :=
  match g.kind with
  | .banked => ((if presented = .a then g.physA else g.physB).getD 0,
      (((record.bank presented).images[l.banked.idxOf g.index]?).map Image.length).getD 0)
  | .stage => (g.physA.getD 0, g.length)
  | .plain => (g.physA.getD 0, g.length)
  | .recovery => (g.physA.getD 0, g.length)

/-- The state in which the measurement of a region has begun (05 R70, 02 R31): the region frozen, its first chunk of at
most 256 bytes asked for. -/
def State.begun (s : State) (l : Layout) (g : Region) : State :=
  let x := l.hashed s.update.record s.update.presented g
  { s with
    checker := { s.checker with freezeSet := s.checker.freezeSet ||| BitVec.twoPow 16 g.index }
    measure := { s.measure with current := some { region := g.index, base := x.1, length := x.2, fed := [] } }
    arbiter := { s.arbiter with measure := some (.read x.1 (min 256 x.2)) } }

/-! ### What a region's digest and the end of a boot check leave -/

/-- The state in which the last chunk of a region's measurement has completed and its digest `d` been taken into
a slot: the slot extended under the tag of its source kind, index and stage, and the log entry appended or the
truncated flag set (05 R67, R68, R70). The chunk is done with: the grant is FREE (01 R13). -/
def State.digestTaken (s : State) (slot : Nat) (kind : ExtendKind) (index stage : Nat) (d : Digest) : State :=
  { s with
    arbiter := { s.arbiter with grant := .free, measure := none }
    measure := { s.measure with
      slots := s.measure.slots.setIfInBounds slot (sha256 (digestBytes ((s.measure.slots[slot]?).getD 0) ++
        [kind.code, BitVec.ofNat 8 index, BitVec.ofNat 8 stage, 0] ++ digestBytes d))
      log := if 64 ≤ s.measure.log.length then s.measure.log
        else s.measure.log ++ [{ slot := slot, kind := kind, index := index, stage := stage, digest := d }]
      truncated := s.measure.truncated || decide (64 ≤ s.measure.log.length)
      current := none } }

/-- `u` is what the comparison makes of `t` (05 R71): `t` itself where the digest is right or has no reference;
on a mismatch the counter is one up, saturating at 65535, MISMATCH is raised, and beyond that only the Response
Unit acts. -/
def Compared (wrong : Prop) (t u : State) : Prop :=
  (¬wrong → u = t) ∧
  (wrong → u.window.pendingEvents.getLsbD 2 = true ∧
    ResponseOnly { t with measure := { t.measure with
      mismatches := if t.measure.mismatches = 65535 then 65535 else t.measure.mismatches + 1 } } u)

/-- The state in which the SoC has been released (04 R59, 05 R69, 09 R155): RUN, the boot counter one up, stage 0
with its history entry, in a trial boot RUNNING with its timer. An SSEL found low is waited out (01 R4). -/
def State.released (s : State) : State :=
  { s with
    rst := { s.rst with state := .run, bootCounter := s.rst.bootCounter + 1, check := .idle }
    port := { s.port with waitHigh := s.lines.ssel }
    measure := { s.measure with
      stage := 0
      history := s.measure.history ++ [{ stage := 0, uptime := s.time.uptime, logLength := s.measure.log.length }] }
    update := { s.update with
      running := s.update.trialBoot
      timer := if s.update.trialBoot = true then
          some { start := s.time.clock, span := 1000 * (15 * 2 ^ (match s.checker.layout with
            | some l => l.timeoutCode
            | none => 0)) }
        else none } }

/-- The state in which the SoC is held in HALT (04 R56, R63): CONTAIN_HALT recorded, its count in anchor memory. -/
def State.halted (s : State) : State :=
  let count : Word16 := if s.rst.counts[5] = 65535 then 65535 else s.rst.counts[5] + 1
  { s with
    rst := { s.rst with state := .halt, check := .idle, lastCause := .containHalt, counts := s.rst.counts.set 5 count }
    anchor := { s.anchor with haltCount := count } }

/-- The state in which the boot check has begun to measure the recovery image (05 R77): the RECOVERY region frozen,
its first chunk asked for. SOC_RST stays asserted. -/
def State.recovering (s : State) (recovery : Region) : State :=
  { s with
    rst := { s.rst with check := .recovery }
    checker := { s.checker with freezeSet := s.checker.freezeSet ||| BitVec.twoPow 16 recovery.index }
    measure := { s.measure with current := some {
      region := recovery.index, base := recovery.physA.getD 0, length := recovery.length, fed := [] } }
    arbiter := { s.arbiter with measure := some (.read (recovery.physA.getD 0) (min 256 recovery.length)) } }

/-! ### What a verification leaves -/

/-- The physical base of a region's image in the bank that is not presented (09 R146, R147). -/
def State.stagedBase (s : State) (region : Nat) : Nat :=
  match s.checker.layout with
  | none => 0
  | some l => match l.region? region with
    | none => 0
    | some g => (if s.update.presented = .a then g.physB else g.physA).getD 0

/-- A verification goes on with the targets still to do (09 R147, R148): the first target with bytes begins, its first
chunk asked for; one of length 0 is judged by the digest of nothing. With every target matched the session is VERIFIED;
a mismatch ends it REJECTED with the target's region, the STAGE regions thawed, the targets behind it not read. -/
def VerifiesOn (s : State) (m : Manifest) (hashed : Nat) : List Target → State → Prop
  | [], t => t = { s with
      update := { s.update with session := .verified m, verification := .verified }
      window := { s.window with pendingEvents := s.window.pendingEvents ||| 32 } }
  | tg :: rest, t =>
    (tg.length ≠ 0 → t = { s with
      update := { s.update with session := .verifying m { todo := tg :: rest, fed := [] } hashed }
      arbiter := { s.arbiter with update := some (.read (s.stagedBase tg.region) (min 256 tg.length)) } }) ∧
    (tg.length = 0 → sha256 [] = tg.digest → VerifiesOn s m hashed rest t) ∧
    (tg.length = 0 → sha256 [] ≠ tg.digest → t = { s with
      update := { s.update with session := .idle, verification := .rejected tg.region }
      checker := { s.checker with freezeSet := s.checker.freezeSet &&& ~~~s.stageRegions }
      window := { s.window with pendingEvents := s.window.pendingEvents ||| 32 } })

/-! ### What an entry into CHECK leaves -/

/-- The current layout (09 R152): the LAYOUT object, but the LAYOUT-TRIAL object where only its block has the current
layout digest. -/
def State.layoutNow (s : State) : Option Layout :=
  let hit (x : Option Layout) : Bool := match x with
    | some l => sha256 l.block == s.update.record.layoutDigest
    | none => false
  if hit s.update.layout = false ∧ hit s.update.trialLayout = true then s.update.trialLayout else s.update.layout

/-- A request of the Reset Controller, or in FIELD one that carries a BANK, LAYOUT or LAYOUT-TRIAL entry, is held, queued
or in progress (04 R58 (1), 09 R142). -/
def State.storeAwaited (s : State) : Prop :=
  ∃ p ∈ s.journal.held.map HeldRequest.purpose ++
      s.journal.queue.map StoreRequest.purpose ++ (s.journal.job.map (fun j => j.request.purpose)).toList,
    p.source = .resetController ∨ (s.anchor.lifeCycle = .field ∧ p.changesBanks = true)

/-- A bank is presented and a layout in force (09 R152, R153; 02 R23; 11 R168): its Response Table with every fired flag
clear, armed in FIELD. The first time in FIELD since power-on the restored failure counts are offered from 0, by
increasing credential id (11 R169, log entry 46). -/
def IntoForce (s : State) (bank : Bank) (trial : Bool) (layout : Option Layout) (source : LayoutSource) (u : State) : Prop :=
  let field : Bool := s.anchor.lifeCycle == .field
  let x : State := { s with
    update := { s.update with presented := bank, trialBoot := trial }
    checker := { s.checker with layout := layout, source := source }
    response := { s.response with
      table := (match layout with
        | some l => l.responses
        | none => [])
      fired := 0, armed := field, offered := s.response.offered || field } }
  ResponseOnly x u ∧
    (field = false ∨ s.response.offered = true → u = x) ∧
    (field = true → s.response.offered = false → u = (List.range 32).foldl (fun y id => match y.creds.get id with
      | some r => y.offer (.failures id) 0 r.restored.toNat
      | none => y) x)

/-- A pass of the boot check has begun over the layout's RESET regions, in increasing index (05 R74): the first of them
frozen, its first chunk asked for; with none the pass has passed, and BOOT_MISMATCH leaves the cause set (05 R75, 11
R166). Bank, layout and Response Table stay, however the pass goes. -/
def PassBegun (s : State) (second : Bool) (t : State) : Prop :=
  (t.checker.openMapping = s.checker.openMapping ∧ t.checker.layout = s.checker.layout ∧
    t.checker.source = s.checker.source ∧ t.update.presented = s.update.presented ∧
    t.update.trialBoot = s.update.trialBoot ∧ t.response.table = s.response.table ∧
    t.response.armed = s.response.armed) ∧
  ∃ todo : List Nat, todo.Pairwise (· < ·) ∧
    (∀ i, i ∈ todo ↔ i < 16 ∧ ∃ l g, s.checker.layout = some l ∧ l.region? i = some g ∧ g.measureAt = .reset) ∧
    (∀ i rest l g, todo = i :: rest → s.checker.layout = some l → l.region? i = some g →
      (l.hashed s.update.record s.update.presented g).2 ≠ 0 →
      t = State.begun { s with rst := { s.rst with check := .measuring {
        second := second, todo := rest, needFallback := false, needContain := false } } } l g) ∧
    (todo = [] →
      let left : Byte := s.response.causes &&& 0xFE
      let passed : State := { s with response := { s.response with causes := left } }
      (left = 0 → t = passed.released) ∧
      (∀ l rec, left ≠ 0 → s.checker.layout = some l → l.recovery = some rec → rec.length ≠ 0 →
        t = passed.recovering rec))

/-- The boot check has decided, its waits over (04 R58 (2), (3); 09 R152, R153): in FACTORY the release; in FIELD with no
trial the active bank, the current layout and the first pass; with a trial its entry, an attempt consumed or with none
left the fallback, as the request that the check waits for. -/
def CheckDecided (s t : State) : Prop :=
  let opened (x : Bool) : State := { s with checker := { s.checker with openMapping := x } }
  let old := s.update.record
  (s.anchor.lifeCycle = .factory →
    ∃ u, IntoForce (opened true) .a false s.layoutNow .current u ∧ t = u.released) ∧
  (s.anchor.lifeCycle = .field → old.trialPending = false →
    ∃ u, IntoForce (opened false) old.active false s.layoutNow .current u ∧ PassBegun u false t) ∧
  (s.anchor.lifeCycle = .field → old.trialPending = true →
    t.rst = { s.rst with check := .waitEntry } ∧
    t.journal.anyRequest (fun p => p == if old.attempts = 0 then .trialTimeout else .trialAttempt) = true ∧
    (s.journal.freeFor .resetController →
      let trial := old.bank old.active.other
      let new : BankRecord :=
        if old.attempts = 0 then
          { old.setBank old.active.other { trial with state := .rejected } with
            trialPending := false, trialLayout := false, raiseFloor := false, outcome := .fellBackTimeout }
        else
          { old.setBank old.active.other { trial with state := if trial.state = .staged then .trial else trial.state } with
            attempts := old.attempts - 1 }
      t = State.queued { opened false with rst := { s.rst with check := .waitEntry } } {
        purpose := if old.attempts = 0 then .trialTimeout else .trialAttempt
        live := true
        entries := [{ kind := .bank, id := 0, epoch := 0, secret := false, payload := new.payload }]
        floorRaise := none
        authorityHash := none
        record := some new }))

/-- An entry into CHECK (04 R58; 02 R31; 05 R67 ~ R69; 11 R172): slots, log and history are cleared, the regions that are
not STAGE regions leave the freeze set, no entry of the Response Table has fired; then the check waits for the store or
decides. -/
def CheckEntered (s t : State) : Prop :=
  let entered : State := { s with
    rst := { s.rst with state := .check, pulse := none, pulseWait := false, check := .waitStore }
    measure := { s.measure with slots := Vector.replicate 8 0, log := [], truncated := false, history := [] }
    checker := { s.checker with freezeSet := s.checker.freezeSet &&& s.stageRegions }
    response := { s.response with fired := 0 } }
  (s.storeAwaited → t = entered) ∧ (¬s.storeAwaited → CheckDecided entered t)

/-! ### Words for the Journal Store's answers -/

/-- Nothing but the command or check that a request was made for waits for its answer: no request is held, no
credential is listed for erasing, no boot check waits for the queue and no pulse for its epoch entry. -/
def State.quiet (s : State) : Prop :=
  s.journal.held = [] ∧ s.response.eraseList = [] ∧ s.rst.check ≠ .waitStore ∧
    ¬(s.rst.state = .pulse ∧ s.rst.pulse = none)

/-- The entry as it is written: an OWNER-EPOCH entry takes the current owner epoch plus 1 as its payload (06 R95). -/
def Journal.filled (j : Journal) (e : StoreEntry) : StoreEntry :=
  if e.kind = .ownerEpoch then { e with payload := beBytes 4 (j.epoch + 1).toNat } else e

/-- The bytes of an entry at an offset of a half, with a generation (06 R88, R91). -/
def State.written (s : State) (h : Half) (offset : Nat) (e : StoreEntry) (generation : Word32) : Writing :=
  { half := h, offset := offset, bytes := encodeEntry s.journal.tagKey s.journal.storageKey e generation }

/-- The program of the first page of bytes being written (06 R87): from the offset to the end of the page. -/
def State.firstPage (s : State) (w : Writing) : FlashOp :=
  let a := s.halfBase w.half + w.offset
  .program a (w.bytes.take (256 - a % 256))

/-- The pages that bytes are programmed in from an address on (06 R87): one program for each page or part of a page,
none past a 256-byte page boundary. -/
def Paged : Nat → Bytes → List (Nat × Bytes) → Prop
  | _, bytes, [] => bytes = []
  | base, bytes, (a, page) :: rest =>
    a = base ∧ bytes ≠ [] ∧ page = bytes.take (256 - base % 256) ∧
      Paged (base + page.length) (bytes.drop page.length) rest

/-- The held requests, oldest first, have each been placed, or held on while their source has one outstanding (06 R90). -/
def State.heldPlaced (v : State) : State :=
  v.journal.held.foldl (fun u h =>
    if u.journal.outstanding h.purpose.source then
      { u with journal := { u.journal with held := u.journal.held ++ [h] } }
    else u.queued (u.makeRequest h.purpose h.live)) { v with journal := { v.journal with held := [] } }

/-- What follows an answer, with nothing waiting nothing: held requests are placed (06 R90), the erase list goes on (11
R171), a check that waits for the store decides (04 R58), and a pulse whose time has passed ends where no owner-epoch
request keeps it (04 R62). -/
def FollowedBy (v t : State) : Prop :=
  (v.quiet → t = v) ∧
  ∃ u w : State,
    (v.heldPlaced.journal.outstanding .responseUnit = true → u = v.heldPlaced) ∧
    (v.heldPlaced.journal.outstanding .responseUnit = false → NextErased v.heldPlaced u) ∧
    (u.rst.check ≠ .waitStore ∨ u.storeAwaited → w = u) ∧
    (u.rst.check = .waitStore → ¬u.storeAwaited → CheckDecided u w) ∧
    (let ends : Prop := w.rst.state = .pulse ∧ w.rst.pulse = none ∧
        ¬(w.rst.pulseWait = true ∧ w.journal.anyRequest (fun p => p == .ownerEpoch) = true)
     (ends → CheckEntered w t) ∧ (¬ends → t = w))

/-- The command that waits for a store request completes with a result and a body; to one that was abandoned no response
is posted (03 R47, R48). -/
def State.answered (s : State) (live : Bool) (result : Byte) (body : Bytes) : State :=
  let events : Bool := match s.window.command with
    | some c => c.command == .events
    | none => false
  if live then { s with window := { s.window with
      engine := .done, result := result, body := body, command := none
      pendingEvents := if events then s.window.pendingEvents else s.window.pendingEvents ||| 1 } }
  else s

/-- The record under an id is replaced or removed (08 R123, R134): its count is lowered to 0, which no entry of the
Response Table fires on, and where the part was CLAIMED and is not any more the grant is cleared (08 R118). -/
def State.recordSet (s : State) (id : Nat) (r : Option CredRecord) : State :=
  let put : State := { s with creds := { s.creds with records := s.creds.records.setIfInBounds id r } }
  if s.claimed = true ∧ put.claimed = false then { put with creds := { put.creds with grant := none } } else put

/-- A trial fallback is counted (09 R158): up to 65535, the change offered, TRIAL raised. -/
def State.fallbackCounted (s : State) : State :=
  let c := s.update.fallbacks
  let counted : State := { s with update := { s.update with fallbacks := if c = 65535 then 65535 else c + 1 } }
  let u := if c = 65535 then counted else counted.offer .fallbacks c.toNat (c.toNat + 1)
  { u with window := { u.window with pendingEvents := u.window.pendingEvents ||| 64 } }

/-- The check goes on with the active bank and the current layout (09 R153). -/
def ActivePresented (s u : State) : Prop := IntoForce s s.update.record.active false s.layoutNow .current u

/-- What the answer OK to a request does (06 R90, 09 R142), once its entries and anchor memory writes are durable: the bank
record copy takes the change, then the owner of the request takes what was written, and the command or check that
waits goes on. -/
def AnsweredOk (s : State) (q : StoreRequest) (v : State) : Prop :=
  let x : State := match q.record with
    | some new => { s with update := { s.update with record := new } }
    | none => s
  let r := x.update.record
  match q.purpose with
  | .keyCreate slot k =>                                                                                    -- R108
    v = (if k.cls = .owner ∧ k.epoch ≠ s.journal.epoch then x
      else { x with keys := { s.keys with slots := s.keys.slots.setIfInBounds slot (some k) } }).answered q.live 0
      (BitVec.ofNat 8 slot :: (match k.usage with
        | .sign pub => pairBytes pub
        | .derive _ => []))
  | .keyDestroy slot =>                                                                                     -- R112
    v = State.answered { x with keys := { s.keys with slots := s.keys.slots.setIfInBounds slot none } } q.live 0 []
  | .credStore id content epoch =>                                                                          -- R123
    let u := if epoch = s.journal.epoch then x.recordSet id (some {
        content := content, epoch := epoch, count := 0, delayTimer := none, decayTimer := none, restored := 0 })
      else x
    v = u.answered q.live 0 [BitVec.ofNat 8 id, if u.claimed then 1 else 0]
  | .credCount id count epoch candidate => v = x.countWritten q.live id count epoch candidate               -- R126
  | .credMatch id epoch => v = x.matchWritten q.live id epoch                                               -- R127
  | .credErase id _ =>                                                                                      -- R134
    let u := x.recordSet id none
    v = u.answered q.live 0 [BitVec.ofNat 8 id, if u.claimed then 1 else 0]
  | .responseErase id _ => v = x.recordSet id none                                                          -- R171
  | .updateOpen m =>                                                                                        -- R145
    v = (if q.live then { x with update := { x.update with session := .staging m, verification := .none } }
      else x).answered q.live 0 [1, if s.update.presented = .a then 1 else 0]
  | .updateAbort => v = x.answered q.live 0 []                                                              -- R150
  | .sessionAbandon => v = x                                                                                -- R143
  | .updateCommit _ =>                                                                                      -- R151
    v = x.answered q.live 0 [if r.active = .a then 1 else 0, BitVec.ofNat 8 r.attempts]
  | .updateConfirm =>                                                                                       -- R156
    v = State.answered { x with
      update := { x.update with running := false }
      window := { x.window with pendingEvents := x.window.pendingEvents ||| 64 } } q.live 0
      (r.active.code :: beBytes 4 s.anchor.floor.toNat)
  | .trialAttempt =>                                                                                        -- R153
    let waits : Prop := q.live = true ∧ s.rst.check = .waitEntry
    (waits → ∃ u, (if r.trialLayout then IntoForce x r.active.other true s.update.trialLayout .trial u
      else IntoForce x r.active.other true x.layoutNow .current u) ∧ PassBegun u false v) ∧
    (¬waits → v = x)
  | .trialTimeout =>                                                                                        -- R153
    let waits : Prop := q.live = true ∧ s.rst.check = .waitEntry
    (waits → ∃ u, ActivePresented x u ∧ PassBegun u.fallbackCounted false v) ∧ (¬waits → v = x.fallbackCounted)
  | .bootFallback =>                                                                                        -- R154
    let waits : Prop := q.live = true ∧ s.rst.check = .waitFallback
    let trial := s.update.trialBoot
    (waits → trial = true → ∃ u, IntoForce x s.update.record.active false x.layoutNow .current u ∧
      PassBegun u.fallbackCounted true v) ∧
    (waits → trial = false →
      PassBegun { x with update := { x.update with presented := s.update.presented.other } } true v) ∧
    (¬waits → v = if trial then x.fallbackCounted else x)
  | .ownerEpoch => v = x                                                                                    -- R95
  | .provisionLayout _ => v = x.answered q.live 0 []                                                        -- R175
  | .provisionAuthority key =>                                                                              -- R176
    v = State.answered { x with keys := { s.keys with authority := some key } } q.live 0
      (digestBytes (sha256 (pairBytes key)))
  | .provisionBank _ => v = x.answered q.live 0 []                                                          -- R177

/-- A request with every entry durable and its anchor memory writes done is answered OK (06 R90, R91). -/
def RequestAnswered (s : State) (q : StoreRequest) (t : State) : Prop := ∃ v, AnsweredOk s q v ∧ FollowedBy v t

/-- What the answer STORE_FAULT does (06 R92, R100), containment already taken: the command that waits answers it with an
empty body (log entry 42), a guess's decay timer starts again where it may (08 R126, R132), and a check that waits goes
on under the latch, after a trial entry with the active bank, after a fallback entry to the recovery image (09 R153,
05 R76). Bank record, keys and credentials stay. -/
def AnsweredFault (s : State) (q : StoreRequest) (v : State) : Prop :=
  let trial : Prop :=
    let waits : Prop := q.live = true ∧ s.rst.check = .waitEntry
    (waits → ∃ u, ActivePresented s u ∧ PassBegun u false v) ∧ (¬waits → v = s)
  let refused : Prop := v = s.answered q.live 0x21 []
  match q.purpose with
  | .trialAttempt => trial
  | .trialTimeout => trial
  | .bootFallback =>
    let waits : Prop := q.live = true ∧ s.rst.check = .waitFallback
    (∀ l rec, waits → s.checker.layout = some l → l.recovery = some rec → rec.length ≠ 0 →
      v = (s.contain .bootMismatch).recovering rec) ∧ (¬waits → v = s)
  | .credCount id _ _ _ => v = (s.startDecay id).answered q.live 0x21 []
  | .credMatch id _ => v = (s.startDecay id).answered q.live 0x21 []
  | .sessionAbandon => v = s
  | .ownerEpoch => v = s
  | .responseErase _ _ => v = s
  | .keyCreate _ _ => refused
  | .keyDestroy _ => refused
  | .credStore _ _ _ => refused
  | .credErase _ _ => refused
  | .updateOpen _ => refused
  | .updateAbort => refused
  | .updateCommit _ => refused
  | .updateConfirm => refused
  | .provisionLayout _ => refused
  | .provisionAuthority _ => refused
  | .provisionBank _ => refused

/-- A request no longer in the queue is answered STORE_FAULT after containment with cause STORE_FAULT (06 R92, R100). -/
def RequestRefused (s : State) (q : StoreRequest) (t : State) : Prop :=
  ∃ v, AnsweredFault (s.contain .storeFault) q v ∧ FollowedBy v t

/-- A request has ended in its second failure (06 R92, R100): FAULT, containment with cause STORE_FAULT, and the answer
STORE_FAULT. Generation, index, owner epoch, append point and flash are as they were at that failure (where a compaction
has completed before it, those that it left: log entry 54). -/
def RequestFailed (s : State) (q : StoreRequest) (t : State) : Prop :=
  RequestRefused { s with journal := { s.journal with job := none, state := .fault } } q t ∧
  t.journal.state = .fault ∧ t.journal.job = none ∧ t.contained = true ∧ t.response.causes.getLsbD 3 = true ∧
    t.journal.index = s.journal.index ∧ t.journal.epoch = s.journal.epoch ∧
    t.journal.active = s.journal.active ∧ t.journal.appendPoint = s.journal.appendPoint ∧
    t.anchor.generation = s.anchor.generation ∧ t.flash = s.flash ∧
    (q.purpose.source = .engine → q.live = true → t.window.engine = .done ∧ t.window.result = 0x21 ∧ t.window.body = [])

/-! ### Words for the start-up scan -/

/-- An entry begins at an offset of a half, with a correct tag and a length that stays within the half (06 R88): its
fields as the bytes give them, a secret payload decrypted. -/
def Journal.holds (j : Journal) (half : Memory) (start : Nat) (e : FoundEntry) : Prop :=
  let bytes := half.readBytes start e.length
  let tag := bytes.drop (e.length - 16)
  let payload := slice bytes 16 e.payload.length
  e.offset = start ∧ e.payload.length ≤ 992 ∧ e.length = 32 + (e.payload.length + 15) / 16 * 16 ∧
    start + e.length ≤ 131072 ∧ byteAt bytes 0 = e.kind.code ∧ byteAt bytes 1 = BitVec.ofNat 8 e.id ∧ e.id < 256 ∧
    slice bytes 2 4 = beBytes 4 e.generation.toNat ∧ slice bytes 6 4 = beBytes 4 e.epoch.toNat ∧
    slice bytes 10 2 = beBytes 2 e.payload.length ∧ (e.secret = true ↔ byteAt bytes 12 ≠ 0) ∧
    e.payload = (if e.secret = true then crypt j.storageKey e.kind e.id e.generation payload else payload) ∧
    tag = (digestBytes (hmacKey j.tagKey (bytes.take (e.length - 16)))).take 16 ∧
    tag ≠ List.replicate 16 0 ∧ tag ≠ List.replicate 16 0xFF

/-- Entries stand one after another in a half, the first at an offset, each where the one before ended, up to another
offset (06 R96). -/
def Journal.laid (j : Journal) (half : Memory) : List FoundEntry → Nat → Nat → Prop
  | [], start, stop => start = stop
  | e :: rest, start, stop => j.holds half start e ∧ j.laid half rest (start + e.length) stop

/-- A half is valid (06 R96): from its first byte on entries, none of them a CHECKPOINT, and then a CHECKPOINT whose
count is their number and whose generation is above each of theirs. -/
def Journal.halfValid (j : Journal) (half : Memory) (v : ValidHalf) : Prop :=
  j.laid half v.copies 0 v.checkpoint.offset ∧ j.holds half v.checkpoint.offset v.checkpoint ∧
    v.checkpoint.kind = .checkpoint ∧ v.checkpoint.payload.length = 2 ∧
    beNat v.checkpoint.payload = v.copies.length ∧
    ∀ e ∈ v.copies, e.kind ≠ .checkpoint ∧ e.generation.toNat < v.checkpoint.generation.toNat

/-- The next entry from an offset on, looked for at each 16-byte boundary in turn (06 R97). -/
def Journal.nextFrom (j : Journal) (half : Memory) (start : Nat) (e : FoundEntry) : Prop :=
  j.holds half e.offset e ∧ start ≤ e.offset ∧ (e.offset - start) % 16 = 0 ∧
    ∀ x, start ≤ x → x < e.offset → (x - start) % 16 = 0 → ∀ y, ¬j.holds half x y

/-- The chain from an offset on, after an entry of the generation `last` (06 R97): each entry is the next one, of the
next generation and no CHECKPOINT; the next after the last of them is not. -/
def Journal.chained (j : Journal) (half : Memory) : List FoundEntry → Nat → Nat → Prop
  | [], start, last => ∀ e, j.nextFrom half start e → e.generation.toNat ≠ last + 1 ∨ e.kind = .checkpoint
  | e :: rest, start, last => j.nextFrom half start e ∧ e.generation.toNat = last + 1 ∧ e.kind ≠ .checkpoint ∧
      j.chained half rest (e.offset + e.length) (last + 1)

/-- The append point of a half (06 R97): the first 16-byte boundary after the last 16-byte unit with a byte other than
FFh. -/
def appendsAt (half : Memory) (p : Nat) : Prop :=
  p % 16 = 0 ∧ (∀ a, p ≤ a → half.read a = 0xFF) ∧ (p ≠ 0 → ∃ a, a < p ∧ p ≤ a + 16 ∧ half.read a ≠ 0xFF)

/-- What two halves hold (06 R96, R97): the active half, the valid one or of two the one with the higher CHECKPOINT
generation, with its copies and chain, the generation of the chain's last entry, and the append point. -/
def Journal.finds (j : Journal) (half0 half1 : Memory) (f : Found) : Prop :=
  let active := if f.half = .zero then half0 else half1
  let other := if f.half = .zero then half1 else half0
  ∃ v chain, j.halfValid active v ∧
    (∀ w, j.halfValid other w → w.checkpoint.generation.toNat < v.checkpoint.generation.toNat) ∧
    j.chained active chain (v.checkpoint.offset + v.checkpoint.length) v.checkpoint.generation.toNat ∧
    f.entries = v.copies ++ chain ∧
    f.newest = ((chain.getLast?.map FoundEntry.generation).getD v.checkpoint.generation) ∧
    appendsAt active f.appendPoint

/-- The newest entry of its object (06 R89). -/
def FoundEntry.newestIn (e : FoundEntry) (entries : List FoundEntry) : Prop :=
  e ∈ entries ∧ ∀ x ∈ entries, x.kind = e.kind → x.id = e.id → x.generation.toNat ≤ e.generation.toNat

/-- The newest entry of its object, no removal entry and of no other owner epoch (06 R89 (1), (2)). -/
def FoundEntry.aliveIn (e : FoundEntry) (entries : List FoundEntry) (epoch : Word32) : Prop :=
  e.newestIn entries ∧ e.payload ≠ [] ∧ (e.epoch = 0 ∨ e.epoch = epoch)

/-- The entry of a live object of the live set (06 R88, R89). -/
def FoundEntry.liveIn (e : FoundEntry) (entries : List FoundEntry) (epoch : Word32) : Prop :=
  e.aliveIn entries epoch ∧
  (match e.kind with
    | .key => 1 ≤ e.id ∧ e.id ≤ 15
    | .cred => e.id ≤ 31
    | .count => e.id ≤ 31 ∧ ∃ c : FoundEntry, c.aliveIn entries epoch ∧ c.kind = .cred ∧ c.id = e.id ∧
        c.generation.toNat < e.generation.toNat
    | .bank => e.id = 0
    | .layout => e.id = 0
    | .layoutTrial => e.id = 0
    | .ownerEpoch => e.id = 0
    | .checkpoint => False)

/-- The current owner epoch and the object index of what was found (06 R89, R95, R99): the payload of the OWNER-EPOCH
object, or 1 with none; one record for each live object. -/
def Found.indexes (f : Found) (epoch : Word32) (index : List IndexRecord) : Prop :=
  let states (e : FoundEntry) : Prop := e.newestIn f.entries ∧ e.kind = .ownerEpoch ∧ e.id = 0 ∧ e.payload ≠ []
  (∀ e, states e → epoch = word32At e.payload 0) ∧ ((∀ e, ¬states e) → epoch = 1) ∧
    index.Pairwise (fun a b => ¬(a.kind = b.kind ∧ a.id = b.id)) ∧
    ∀ r, r ∈ index ↔ ∃ e : FoundEntry, e.liveIn f.entries epoch ∧ r = {
      kind := e.kind, id := e.id, half := f.half, offset := e.offset, length := e.length
      generation := e.generation, epoch := e.epoch }

/-- The live LAYOUT object gives a capacity (12 R174). -/
def Found.gives (f : Found) (epoch : Word32) (area : Capacity) : Prop :=
  ∃ (e : FoundEntry) (l : Layout), e.liveIn f.entries epoch ∧ e.kind = .layout ∧ Layout.parse e.payload = some l ∧ l.capacity = area

/-- A restored record at the end of start-up (08 R130, R132, R137): a VERIFIER with a count above 0 starts its full
delay or, where that is 0 and Q is not, its decay timer. -/
def State.restoredTimer (s : State) (id : Nat) (r r' : CredRecord) : Prop :=
  match r.content with
  | .secret _ => r' = r
  | .verifier v =>
    (r.count = 0 → r' = r) ∧
    (r.count ≠ 0 → v.delayAt r.count.toNat ≠ 0 →
      r' = { r with delayTimer := some { start := s.time.clock, span := 1000 * v.delayAt r.count.toNat } }) ∧
    (r.count ≠ 0 → v.delayAt r.count.toNat = 0 → v.decay = 0 → r' = r) ∧
    (r.count ≠ 0 → v.delayAt r.count.toNat = 0 → v.decay ≠ 0 → r.delayTimer = none → r.decayTimer = none →
      s.verifyOutstanding id = false →
      r' = { r with decayTimer := some { start := s.time.clock, span := 60000 * v.decay } })

/-- Start-up is complete (04 R57, R62; 06 R99, R100; 08 R137): the store state is the scan's outcome, the timers of
restored counts start, a pressed OWNER_CLR starts the hold timer, and START is left for REQUEST, recorded, or CHECK. -/
def StartupDone (s : State) (outcome : StoreState) (t : State) : Prop :=
  ∃ u : State, u = { s with
      journal := { s.journal with state := outcome, scan := none }
      creds := { s.creds with records := u.creds.records }
      rst := { s.rst with
        hold := if s.lines.ownerClr = true then some { start := s.time.clock, span := 10000 } else none } } ∧
    (∀ id, s.creds.get id = none → u.creds.get id = none) ∧
    (∀ id r, s.creds.get id = some r → ∃ r', u.creds.get id = some r' ∧ s.restoredTimer id r r') ∧
    (s.lines.rstReq = true → t = { u with rst := { u.rst with
      state := .request, lastCause := .request, pulse := none, pulseWait := false
      counts := s.rst.counts.set 1 (if s.rst.counts[1] = 65535 then 65535 else s.rst.counts[1] + 1) } }) ∧
    (s.lines.rstReq = false → CheckEntered u t)

/-- The hand-over goes on with the records still to hand over (06 R99): the first of them is read again, in chunks of at
most 256 bytes; with none left start-up is complete. -/
def HandsOn (s : State) (outcome : StoreState) (todo : List IndexRecord) (t : State) : Prop :=
  (∀ r rest, todo = r :: rest → t = { s with
    journal := { s.journal with scan := some (.handing outcome todo []) }
    arbiter := { s.arbiter with journal := some (.read (s.halfBase r.half + r.offset) (min 256 r.length)) } }) ∧
  (todo = [] → StartupDone s outcome t)

/-- What the end of the probe of an area leaves (06 R96 ~ R99, 12 R174): with the capacity of the area in its live LAYOUT
the provisioning state is set and the generations are compared; else the 32 MiB area is probed next, and after that
one the store is READY and blank, or STALE. -/
def AreaJudged (s : State) (area : Capacity) (half0 half1 : Memory) (t : State) : Prop :=
  let second (u : State) : Prop := u = { s with
    journal := { s.journal with scan := some (.probing .mib32 [] [] 0) }
    arbiter := { s.arbiter with journal := some (.read 0x1FC0000 256) } }
  let blank : Prop := (∀ v, ¬s.journal.halfValid half0 v) ∧ (∀ v, ¬s.journal.halfValid half1 v) ∧
    s.anchor.generation = 0 ∧ s.anchor.lifeCycle = .factory
  (∀ f, s.journal.finds half0 half1 f → ∃ epoch index, f.indexes epoch index ∧
    let u : State := { s with journal := { s.journal with
      active := some f.half, appendPoint := f.appendPoint, index := index, epoch := epoch } }
    let set : State := { u with journal := { u.journal with provisioning := some area } }
    (f.gives epoch area →
      (f.newest = s.anchor.generation → HandsOn set .ready index t) ∧
      (f.newest.toNat = s.anchor.generation.toNat + 1 →
        HandsOn { set with anchor := { s.anchor with generation := f.newest } } .ready index t) ∧
      (f.newest ≠ s.anchor.generation → f.newest.toNat ≠ s.anchor.generation.toNat + 1 →
        HandsOn (set.contain .storeStale) .stale index t)) ∧
    (¬f.gives epoch area → area = .mib16 → second t) ∧
    (¬f.gives epoch area → area = .mib32 → HandsOn (u.contain .storeStale) .stale index t)) ∧
  ((∀ f, ¬s.journal.finds half0 half1 f) →
    (area = .mib16 → second t) ∧
    (area = .mib32 → blank → HandsOn s .ready [] t) ∧
    (area = .mib32 → ¬blank → HandsOn (s.contain .storeStale) .stale [] t))

/-- A live object has been handed to its owner (06 R99; 07 R103; 08 R137; 12 R174). -/
def Handed (s : State) (e : FoundEntry) (t : State) : Prop :=
  let layout := if s.journal.provisioning = none then none else Layout.parse e.payload
  match e.kind with
  | .bank => ∀ r, BankRecord.parse e.payload = some r → t = { s with
      update := { s.update with record := r }
      anchor := { s.anchor with floor := if s.anchor.floor.toNat < r.floor.toNat then r.floor else s.anchor.floor } }
  | .layout => t = { s with update := { s.update with layout := layout } }
  | .layoutTrial => t = { s with update := { s.update with trialLayout := layout } }
  | .key =>
    (e.id = 1 → e.payload.length = 64 →
      (sha256 e.payload = s.anchor.authorityHash →
        t = { s with keys := { s.keys with authority := some (pairAt e.payload 0) } }) ∧
      (sha256 e.payload ≠ s.anchor.authorityHash → t = s)) ∧
    (e.id ≠ 1 → t = { s with keys := { s.keys with
      slots := s.keys.slots.setIfInBounds e.id (KeyRecord.parse e.payload e.epoch) } })
  | .cred =>
    (∀ c, Credential.parse e.payload = some c → t = { s with creds := { s.creds with
      records := s.creds.records.setIfInBounds e.id (some {
        content := c, epoch := e.epoch, count := 0, delayTimer := none, decayTimer := none, restored := 0 }) } }) ∧
    (Credential.parse e.payload = none → t = s)
  | .count => ∀ r v, s.creds.get e.id = some r → r.content = .verifier v → t = { s with creds := { s.creds with
      records := s.creds.records.setIfInBounds e.id
        (some { r with count := byteAt e.payload 0, restored := byteAt e.payload 0 }) } }
  | .ownerEpoch => t = s
  | .checkpoint => t = s

/-! ### What every step keeps -/

/-- The memories have their canonical form: flash, request buffer, and the halves a scan has read. -/
def State.memoriesWf (s : State) : Prop :=
  s.flash.wf = true ∧ s.window.request.wf = true ∧
    (match s.journal.scan with
      | some (.probing _ half0 half1 _) => half0.wf = true ∧ half1.wf = true
      | _ => True)

/-- The owner grant is clear whenever the ownership state is UNCLAIMED or the containment latch is set
(08 R120); while the scan runs no request is in progress and no grant is held (06 R100, 08 R137). -/
def State.grantSafe (s : State) : Prop :=
  (s.creds.grant.isSome = true → s.claimed = true ∧ s.contained = false) ∧
    (s.journal.scan.isSome = true → s.creds.grant = none ∧ s.journal.job = none ∧ s.journal.state = .scanning)

/-- The store requests of the queue and the one in progress, in order. -/
def Journal.placed (j : Journal) : List StoreRequest := (j.job.map Job.request).toList ++ j.queue

/-- Each source has at most one request in the queue or in progress, and holds another only while one is
(06 R90). -/
def State.storeQueueSafe (s : State) : Prop :=
  (s.journal.placed.map (fun q => q.purpose.source)).Nodup ∧
    ∀ h ∈ s.journal.held, s.journal.outstanding h.purpose.source = true

/-- The engine is BUSY exactly while a command is in progress (03 R45 ~ R47). -/
def State.engineSafe (s : State) : Prop := s.window.command.isSome = true ↔ s.window.engine = .busy

/-- The violation ring and the measurement log stay within their capacities (02 R37, 05 R68). -/
def State.capacitiesSafe (s : State) : Prop := s.checker.ring.length ≤ 16 ∧ s.measure.log.length ≤ 64

/-- A run is safe when every state on it is. -/
def State.safe (s : State) : Prop :=
  s.memoriesWf ∧ s.grantSafe ∧ s.storeQueueSafe ∧ s.engineSafe ∧ s.capacitiesSafe

end Sys2Proof.Machine
end

