-- ==== Sys2Proof/Certificates/Slice0/Obligations.lean ====
section
/-! DEFINITION. The statements for the provers. Each is a property that the rules of spec/ give the part;
the docstring names them. -/

open Sys2Proof Sys2Proof.Machine

/-! ### The whole part -/

/-- The step runs the command at the front of the queue with the queue's rest; with none waiting a millisecond of the
second passes and nothing else changes (the model's clock and queue, log entries 2, 30). -/
def Obligations.StepRunsTheFrontCommand : Prop :=
  (∀ (s : State) (c : Instr) (rest : List Instr), s.pending = c :: rest →
    step s = exec c { s with pending := rest }) ∧
  (∀ s : State, s.pending = [] →
    step s = .next { s with time := { s.time with
      clock := if s.powered = true ∧ (s.time.clock + 1) % 1000 ≠ 0 then s.time.clock + 1 else s.time.clock } })

/-- R1, R43 and R86 through the model's memory form: every step keeps flash, request buffer and the halves a scan has
read in canonical form. (That a flash byte not listed reads FFh is the model's choice, log entry 5.) -/
def Obligations.StepKeepsMemoriesCanonical : Prop :=
  ∀ s t : State, s.memoriesWf → step s = .next t → t.memoriesWf

/-- R100, R120, R137: the owner grant is clear whenever the ownership state is UNCLAIMED or the latch is set, and while
the scan runs, when no request is in progress either; every step keeps it so. -/
def Obligations.StepKeepsGrantSafe : Prop :=
  ∀ s t : State, s.grantSafe → step s = .next t → t.grantSafe

/-- R90: every step keeps each source at one request in the queue or in progress, and so the queue within its
four places. -/
def Obligations.StepKeepsStoreQueueSafe : Prop :=
  ∀ s t : State, s.storeQueueSafe → step s = .next t → t.storeQueueSafe ∧ t.journal.queue.length ≤ 4

/-- R37, R45 ~ R47, R68: every step keeps the engine BUSY exactly while a command is in progress, the violation ring
within 16 records and the measurement log within 64 entries. -/
def Obligations.StepKeepsEngineAndCapacities : Prop :=
  (∀ s t : State, s.engineSafe → step s = .next t → t.engineSafe) ∧
  (∀ s t : State, s.capacitiesSafe → step s = .next t → t.capacitiesSafe)

/-- The state after reset meets every invariant above. -/
def Obligations.ResetIsSafe : Prop := State.reset.safe

/-- R157, R173, R86: no step lowers the version floor, takes the life cycle back from FIELD or changes the
device secret. -/
def Obligations.FloorAndLifeCycleNeverGoBack : Prop :=
  ∀ s t : State, step s = .next t →
    s.anchor.floor.toNat ≤ t.anchor.floor.toNat ∧
    (s.anchor.lifeCycle = .field → t.anchor.lifeCycle = .field) ∧
    t.anchor.deviceSecret = s.anchor.deviceSecret

/-- R166: a cause of containment other than BOOT_MISMATCH leaves the cause set only at power-on or the loss of
supply. -/
def Obligations.CausesStayUntilPowerOn : Prop :=
  ∀ (s t : State) (c : ContainCause), c ≠ .bootMismatch →
    (∀ rest, s.pending ≠ .powerOn :: rest) → (∀ torn rest, s.pending ≠ .lossOfSupply torn :: rest) →
    s.response.causes.getLsbD c.bit = true → step s = .next t → t.response.causes.getLsbD c.bit = true

/-- R2, R36 ~ R38: a violation recorded takes the next sequence, stands last in a ring of at most 16, raises
its counters by 1 up to 65535 and VIOLATION. Each counter that changed is then offered to the Response Unit with its
value before and after, that of the region or the unmapped counter first, the all-violations counter after it; a
saturated one is not offered. Nothing else is reached but what the Response Unit's actions reach. -/
def Obligations.ViolationIsRecordedOnce : Prop :=
  ∀ (s : State) (kind : ViolationKind) (cls : OpClass) (p : Nat) (region : Option Nat),
    s.checker.ring.length ≤ 16 →
    let v : Violation := { sequence := s.checker.sequence + 1, kind := kind, cls := cls, address := p,
                           region := region, stage := s.measure.stage, uptime := s.time.uptime }
    let t := s.violate kind cls p region
    t.checker.sequence = s.checker.sequence + 1 ∧
    t.checker.ring = (s.checker.ring ++ [v]).drop (s.checker.ring.length + 1 - 16) ∧
    t.checker.allCounter = (if s.checker.allCounter = 65535 then 65535 else s.checker.allCounter + 1) ∧
    (region = none →
      t.checker.unmappedCounter = (if s.checker.unmappedCounter = 65535 then 65535 else s.checker.unmappedCounter + 1) ∧
      t.checker.regionCounters = s.checker.regionCounters) ∧
    (∀ r, region = some r → t.checker.unmappedCounter = s.checker.unmappedCounter ∧
      ∀ i (hi : i < 16), t.checker.regionCounters[i] =
        if i = r ∧ s.checker.regionCounters[i] ≠ 65535 then s.checker.regionCounters[i] + 1
        else s.checker.regionCounters[i]) ∧
    t.window.pendingEvents.getLsbD 1 = true ∧
    t.checker = { s.checker with
      sequence := t.checker.sequence, ring := t.checker.ring, allCounter := t.checker.allCounter
      unmappedCounter := t.checker.unmappedCounter, regionCounters := t.checker.regionCounters
      hideSet := t.checker.hideSet } ∧
    (∀ k, s.checker.hideSet.getLsbD k = true → t.checker.hideSet.getLsbD k = true) ∧
    ResponseOnly { s with checker := t.checker, window := s.window.raise .violation } t ∧
    (let marked : State := { s with
        checker := { t.checker with hideSet := s.checker.hideSet }
        window := { s.window with pendingEvents := s.window.pendingEvents ||| 2 } }
     let offered (u : State) (src : Source) (x : Word16) : State :=
        if x = 65535 then u else u.offer src x.toNat (x.toNat + 1)
     (region = none →
        t = offered (offered marked .unmapped s.checker.unmappedCounter) .all s.checker.allCounter) ∧
     (∀ r (h : r < 16), region = some r →
        t = offered (offered marked (.region r) s.checker.regionCounters[r]) .all s.checker.allCounter))

/-- R165: a request for containment whose cause is in the set changes nothing; any other cause joins the set
and raises CONTAIN, and where the latch was clear the owner grant is cleared. -/
def Obligations.ContainmentRequestJoinsOnce : Prop :=
  ∀ (s : State) (c : ContainCause),
    (s.response.causes.getLsbD c.bit = true → s.contain c = s) ∧
    (s.response.causes.getLsbD c.bit = false →
      s.contain c = { s with
        response := { s.response with causes := s.response.causes ||| BitVec.twoPow 8 c.bit }
        window := { s.window with pendingEvents := s.window.pendingEvents ||| 8 }
        creds := { s.creds with grant := if s.response.causes = 0 then none else s.creds.grant } } ∧
      (s.contain c).contained = true)

/-- R168 ~ R171: an entry is judged when its source is offered and fires exactly where its flag is clear and the value
crosses its threshold: the flag is set, the action carried out and RESPONSE raised. An offer judges every entry of the
table, one after the other in increasing index, so that after it each fired flag is what it was or what the offer makes
of its entry; while the Response Unit is not armed, as in FACTORY, an offer changes nothing. ALERT does nothing more,
HIDE REGION and DISABLE SLOT add to their sets, CONTAIN asks for containment, REVOKE GRANT clears the grant. ERASE
CREDENTIAL puts its id at the end of the erase list unless it is on it; with no request of the Response Unit outstanding
the oldest id with a record leaves the list, those without one before it dropped, and its removal entry is placed with
the record's epoch. (That a removal entry has its secret flag clear is the model's choice, log entry 52.) -/
def Obligations.ResponseEntryFiresOnCrossing : Prop :=
  (∀ (s : State) (src : Source) (before after : Nat),
    (s.response.armed = false → s.offer src before after = s) ∧
    (s.response.armed = true → s.offer src before after =
      s.response.table.zipIdx.foldl (fun u entry => State.judge src before after u entry) s) ∧
    (∀ i, i < 8 → s.response.armed = true →
      (s.offer src before after).response.fired.getLsbD i = (s.response.fired.getLsbD i ||
        (match s.response.table[i]? with
          | some e => e.source == src && decide (before < e.threshold ∧ e.threshold ≤ after)
          | none => false)))) ∧
  (∀ s : State, s.act .alert = s ∧
    (∀ r, s.act (.hideRegion r) =
      { s with checker := { s.checker with hideSet := s.checker.hideSet ||| BitVec.twoPow 16 r } }) ∧
    (∀ n, s.act (.disableSlot n) = { s with keys := { s.keys with disabled := s.keys.disabled ||| BitVec.twoPow 16 n } }) ∧
    s.act .contain = s.contain .response ∧
    s.act .revokeGrant = { s with creds := { s.creds with grant := none } } ∧
    ∀ id,
      let listed : State := { s with response := { s.response with
        eraseList := if id ∈ s.response.eraseList then s.response.eraseList else s.response.eraseList ++ [id] } }
      (s.journal.outstanding .responseUnit = true → s.act (.eraseCredential id) = listed) ∧
      (s.journal.freeFor .responseUnit → NextErased listed (s.act (.eraseCredential id)))) ∧
  ∀ (s : State) (e : ResponseEntry) (i before after : Nat), i < 8 →
    let fires := s.response.fired.getLsbD i = false ∧ before < e.threshold ∧ e.threshold ≤ after
    let marked : State := { s with response := { s.response with fired := s.response.fired ||| BitVec.twoPow 8 i } }
    (fires → State.judge e.source before after s (e, i) = (marked.act e.action).raise .response ∧
      (State.judge e.source before after s (e, i)).response.fired.getLsbD i = true ∧
      (State.judge e.source before after s (e, i)).window.pendingEvents.getLsbD 4 = true) ∧
    (¬fires → State.judge e.source before after s (e, i) = s) ∧
    (∀ src, src ≠ e.source → State.judge src before after s (e, i) = s)

/-- R90, R142: a store request whose source has none outstanding joins the queue's end; otherwise it is held. The
requests already held stay. A source has one outstanding while one of its is in the queue or in progress; each purpose
has the source that the table of R90 gives it, and changes the banks where an entry of its is a BANK, LAYOUT or
LAYOUT-TRIAL entry. (That a request is formed from the state in which it is placed is read from R142 by inference, log
entry 16.) -/
def Obligations.StoreRequestIsPlacedOrHeld : Prop :=
  (∀ (s : State) (p : Purpose) (live : Bool),
    (∀ h ∈ s.journal.held, s.journal.outstanding h.purpose.source = true) →
    (s.journal.outstanding p.source = false → s.place p live = s.queued (s.makeRequest p live)) ∧
    (s.journal.outstanding p.source = true →
      s.place p live = { s with journal := { s.journal with held := s.journal.held ++ [⟨p, live⟩] } })) ∧
  (∀ (s : State) (p : Purpose) (live : Bool),
    let q := s.makeRequest p live
    q.purpose = p ∧ q.live = live ∧
    (p.changesBanks = true ↔ ∃ e ∈ q.entries, e.kind = .bank ∨ e.kind = .layout ∨ e.kind = .layoutTrial) ∧
    p.source = (match p with
      | .updateOpen _ => .updateController
      | .updateAbort => .updateController
      | .sessionAbandon => .updateController
      | .trialAttempt => .resetController
      | .trialTimeout => .resetController
      | .bootFallback => .resetController
      | .ownerEpoch => .resetController
      | .responseErase _ _ => .responseUnit
      | _ => .engine)) ∧
  (∀ (j : Journal) (src : StoreSource), j.outstanding src = true ↔
    (∃ q ∈ j.queue, q.purpose.source = src) ∨ ∃ job, j.job = some job ∧ job.request.purpose.source = src) ∧
  ∀ (j : Journal) (f : Purpose → Bool), j.anyRequest f = true ↔ (∃ h ∈ j.held, f h.purpose = true) ∨
    (∃ q ∈ j.queue, f q.purpose = true) ∨ ∃ job, j.job = some job ∧ f job.request.purpose = true

/-! ### Power and time -/

/-- R17, R41, R48, R54, R56, R57, R85, R86, R101, R102, R116, R138, R140, R158, R172, R174: at power-on anchor memory
and the flash stand and every volatile item has its first value: the Journal Store's first scan read is the one
outstanding request, its keys and the identity key are those of the device secret. (The model's choices: the levels of
the lines and the waiting commands stand, SDOUT and the bus record are empty, layout source CURRENT, presented bank A,
and while the scan runs no active half, append point 0, index empty and owner epoch 1, boot check idle, log entry 4; the
fields of the empty bank record that R140 does not list, log entry 38; the millisecond count, log entry 2; the draw
count stands, log entry 3; which writes to anchor memory can be cut off, log entry 19. That the factory open mapping
follows the life cycle of the moment is read from R35 by inference, log entry 24.) -/
def Obligations.PowerOnGivesFirstValues : Prop :=
  ∀ s : State, ∃ t, exec .powerOn s = .next t ∧
    t.powered = true ∧ t.flash = s.flash ∧ t.anchor = { s.anchor with writes := [] } ∧
    t.lines = s.lines ∧ t.pending = s.pending ∧ t.fresh = s.fresh ∧
    t.port = { decode := none, wel := false, waitHigh := false, sdout := [] } ∧
    t.arbiter = { grant := .free, suspended := none, suspendDone := false, deferred := none
                  journal := some (.read 0xFC0000 256), measure := none, update := none, bus := [] } ∧
    t.checker = { layout := none, source := .current, openMapping := s.anchor.lifeCycle == .factory
                  freezeSet := 0, hideSet := 0, ring := [], sequence := 0, regionCounters := Vector.replicate 16 0
                  unmappedCounter := 0, allCounter := 0 } ∧
    t.window = { engine := .idle, request := [], tag := 0, result := 0xFF, body := [], overrun := false
                 command := none, pendingEvents := 0, mask := 0xFF } ∧
    t.time = { uptime := 0, clock := 0 } ∧
    t.rst.state = .start ∧ t.rst.lastCause = .powerOn ∧ t.rst.bootCounter = 0 ∧
    t.rst.counts.toList = [1, 0, 0, 0, 0, s.anchor.haltCount] ∧ t.rst.hold = none ∧ t.rst.pulse = none ∧
    t.rst.pulseWait = false ∧ t.rst.check = .idle ∧
    t.measure = { stage := 0, slots := Vector.replicate 8 0, log := [], truncated := false, history := []
                  mismatches := 0, advance := none, current := none } ∧
    t.signature = none ∧
    t.keys.authority = none ∧ t.keys.slots = Vector.replicate 16 none ∧ t.keys.disabled = 0 ∧
    t.keys.identity.publicKey = publicKey t.keys.identity.scalar ∧
    (let d (k : Nat) : Digest := hmacKey s.anchor.deviceSecret
        ([0x49, 0x44, 0x45, 0x4E, 0x54, 0x49, 0x54, 0x59] ++ [BitVec.ofNat 8 k])
     let inRange (k : Nat) : Prop := (d k).toNat ≠ 0 ∧ (d k).toNat < p256Order
     ∀ k, k < 256 → inRange k → (∀ j, j < k → ¬inRange j) → t.keys.identity.scalar = d k) ∧
    t.creds = { records := Vector.replicate 32 none, grant := none } ∧
    (let empty : BankInfo := { state := .empty, version := 0, images := [] }
     t.update = {
      record := { active := .a, bankA := empty, bankB := empty, trialPending := false, attempts := 0, trialLayout := false
                  raiseFloor := false, outcome := .none, floor := 0, layoutDigest := 0, recoveryDigest := 0 }
      layout := none, trialLayout := none, presented := .a, trialBoot := false, running := false, timer := none
      session := .idle, verification := .none, fallbacks := 0 }) ∧
    t.response = { causes := 0, table := [], fired := 0, armed := false, offered := false, eraseList := [] } ∧
    t.journal = { state := .scanning, active := none, appendPoint := 0, index := [], epoch := 1
                  tagKey := hmacKey s.anchor.deviceSecret [0x53, 0x54, 0x4F, 0x52, 0x45, 0x54, 0x41, 0x47]
                  storageKey := hmacKey s.anchor.deviceSecret [0x53, 0x54, 0x4F, 0x52, 0x45, 0x4B, 0x45, 0x59]
                  queue := [], held := [], job := none, scan := some (.probing .mib16 [] [] 0), provisioning := none }

/-- R86, R100: the loss of supply keeps anchor memory but for writes not complete, and every flash byte that no
operation in progress or suspended was changing. (The model's choices: that only bytes of the operation in progress or
suspended can be torn, log entries 28, 5; that grant, queue and every other volatile item are at their first values from
the loss on, not first at power-on, log entry 28; which writes to anchor memory can be incomplete, log entry 19.) -/
def Obligations.LossOfSupplyKeepsAnchorAndFlash : Prop :=
  ∀ (s : State) (torn : FlashCells), s.powered = true → ∃ t, exec (.lossOfSupply torn) s = .next t ∧
    t.powered = false ∧ t.anchor = { s.anchor with writes := [] } ∧
    (∀ a, (∀ w, s.arbiter.grant = .socWrite w → w.op.touches a = false) →
      (∀ r op, s.arbiter.grant = .internal r op ∨ s.arbiter.suspended = some (r, op) → op.touches a = false) →
      t.flash.read a = s.flash.read a) ∧
    t.creds.grant = none ∧ t.journal.queue = [] ∧ t.journal.job = none ∧ t.arbiter.deferred = none

/-- R54: at the end of each second the uptime goes up by 1, and after FFFFFFFFh it is 0; nothing else of the
spec's state changes. (The millisecond count is the model's, log entry 2.) -/
def Obligations.UptimeTickAddsASecond : Prop :=
  ∀ s : State, s.powered = true → ∃ t, exec .uptimeTick s = .next t ∧
    t = { s with time := t.time } ∧ t.time.uptime.toNat = (s.time.uptime.toNat + 1) % 4294967296 ∧
    t.time.clock = 1000 * (s.time.clock / 1000 + 1)

/-! ### The SoC Port and the Flash Port Arbiter -/

/-- R1, R4, R14, R15: a transaction that begins takes the Flash Port: a read chunk is ended, the request of one not
withdrawn left outstanding, an internal program or erase is suspended, a forwarded SoC write goes on. While SOC_RST is
asserted only the level of SSEL changes. A flash polled ready after the suspend (SUSPEND_COMPLETE) is readable. (That a
withdrawn chunk in progress is ended by a transaction as any other is read from R13, R15 and R17 by inference, log entry
44. The model's choices: that the polls of the flash are no steps and the bus record holds what was sent last, log entry
33; that SSEL is tracked without supply too, log entry 7.) -/
def Obligations.TransactionStartTakesTheFlashPort : Prop :=
  ∀ s : State,
    (s.powered = true → s.rst.state = .run → s.lines.ssel = false → s.port.decode = none → s.port.waitHigh = false →
      ∃ t, exec .transactionStart s = .next t ∧
        t = { s with lines := { s.lines with ssel := true }, port := { s.port with decode := t.port.decode },
                     arbiter := t.arbiter } ∧
        (∃ d, t.port.decode = some d ∧ d.phase = .opcode ∧ d.entry = none ∧ d.addressBytes = [] ∧
          d.dataCount = 0 ∧ d.violated = false ∧ d.run = none ∧ d.page = List.replicate 256 none) ∧
        (s.arbiter.grant = .free → t.arbiter = { s.arbiter with grant := .socRead }) ∧
        (∀ r a n, s.arbiter.grant = .internal r (.read a n) ∨ s.arbiter.grant = .internalWithdrawn r a n →
          t.arbiter = { s.arbiter with grant := .socRead }) ∧
        (∀ r op, s.arbiter.grant = .internal r op → (∀ a n, op ≠ .read a n) →
          t.arbiter = { s.arbiter with
            grant := .socRead, suspended := some (r, op), suspendDone := false
            bus := [[s.flashOp .suspend], [s.flashOp .statusRead]] }) ∧
        (s.arbiter.grant = .socRead → t.arbiter = s.arbiter) ∧
        (∀ w, s.arbiter.grant = .socWrite w → t.arbiter = s.arbiter)) ∧
    (s.rst.state ≠ .run → exec .transactionStart s = .next { s with lines := { s.lines with ssel := true } }) ∧
    (∀ x, s.powered = true → s.arbiter.suspended = some x → s.arbiter.grant = .socRead →
      exec .suspendComplete s = .next { s with arbiter := { s.arbiter with suspendDone := true } })

/-- R1, R4, R14 ~ R16: when a transaction ends its decode record is cleared; a grant of SOC_READ returns to the
suspended operation, which is resumed, else to the deferred write, which is forwarded, else to FREE; any other grant
stays. An SSEL that was low at the release of SOC_RST has now been waited out. (That a resumption does not wait for a
poll of the suspend is the model's choice, log entry 41, and so is the bus record, log entry 33; how an SSEL found low
is waited out is read from R4 by inference, log entry 31.) -/
def Obligations.TransactionEndReturnsTheFlashPort : Prop :=
  (∀ s : State, s.powered = true → s.port.decode = none → exec .transactionEnd s = .next
    { s with lines := { s.lines with ssel := false }, port := { s.port with waitHigh := false } }) ∧
  ∀ (s : State) (d : Decode), s.powered = true → s.port.decode = some d →
    ∃ t, exec .transactionEnd s = .next t ∧
      t = { s with lines := { s.lines with ssel := false }, port := { s.port with decode := none },
                   arbiter := t.arbiter } ∧
      (s.arbiter.grant = .socRead →
        (∀ r op, s.arbiter.suspended = some (r, op) → t.arbiter = { s.arbiter with
          grant := .internal r op, suspended := none, suspendDone := false
          bus := [[s.flashOp .resume], [s.flashOp .statusRead]] }) ∧
        (∀ w, s.arbiter.suspended = none → s.arbiter.deferred = some w → t.arbiter = { s.arbiter with
          grant := .socWrite w, deferred := none, bus := s.operationFrames w.flashOp w.op }) ∧
        (s.arbiter.suspended = none → s.arbiter.deferred = none → t.arbiter = { s.arbiter with grant := .free })) ∧
      (s.arbiter.grant ≠ .socRead → t.arbiter = s.arbiter)

/-- R1, R3: READ and FAST_READ take three address bytes and their entry's dummy bytes with SDOUT high; the
DATA phase begins when all have come, and bytes past them are none of this command's. -/
def Obligations.ReadsTakeAddressAndDummyBytes : Prop :=
  ∀ (s : State) (op : Byte) (received : Bytes) (d : Decode) (e : OpcodeEntry) (i : Instr) (c : OpClass),
    (i, c) ∈ [(Instr.read op received, OpClass.read), (Instr.fastRead op received, OpClass.fastRead)] →
    s.opens op c d e →
    let n := min received.length (3 + e.dummy)
    exec i s = .next { s with port := { s.port with
      sdout := List.replicate n 0xFF
      decode := some { d with
        opcode := e.opcode, entry := some e, addressBytes := received.take 3, dummyLeft := e.dummy - (n - 3)
        phase := if n < 3 then .address else if n < 3 + e.dummy then .dummy else .data } } }

/-- R5, R12, R15, R18, R19, R24 ~ R26, R32, R33, R35, R42, R174: each data byte of a read at presented address `p` is a
byte of the request or response area, the flash byte at the translated address of its region (or of the recovery image
in place of the boot-flagged region while contained), or FFh; the first byte that is denied or unmapped records the
read's one violation. Under the factory open mapping every address below the end E of the open range is the flash byte
of the same physical address in every stage, and from E to the window it is unmapped; with no layout in FIELD everything
below the window is unmapped. A flash byte that cannot be fetched reads FFh, and a run that does not go on begins a new
flash-side read (whose dummy bytes are sent as 00h by the model's choice, log entry 10). (The model's choices too: that
the command's operand says which bytes the chip misreads, log entry 5, and the bus record, log entry 33. A layout in
force has a RECOVERY region, R22; without one the bytes it would give read FFh.) -/
def Obligations.ReadDataByteComesFromItsSource : Prop :=
  ∀ (s : State) (misread : FlashCells) (d : Decode) (e : OpcodeEntry) (p : Nat),
    s.powered = true → s.port.decode = some d → d.phase = .data → d.entry = some e →
    (e.cls = .read ∨ e.cls = .fastRead) → p = (beNat (d.addressBytes.take 3) + d.dataCount) % 16777216 →
    let next (run : Option FlashRun) (violated : Bool) (out : Byte) : State :=
      { s with port := { s.port with
          decode := some { d with dataCount := d.dataCount + 1, run := run, violated := violated }, sdout := [out] } }
    let flashByte (region : Option Nat) (sub : Bool) (a : Nat) : State :=
      let run : FlashRun := { region := region, substituted := sub, next := a }
      let writing : Bool := match s.arbiter.grant with
        | .socWrite _ => true
        | _ => false
      if writing = false ∧ (s.arbiter.suspended = none ∨ s.arbiter.suspendDone = true) then
        let t := next (some { run with next := a + 1 }) d.violated (s.flash.readThrough misread a)
        if d.run = some run then t
        else { t with arbiter := { t.arbiter with bus :=
          [e.flashOp :: (beBytes 4 a ++ (if e.cls = .fastRead then List.replicate e.dummy 0 else []))] } }
      else next none d.violated 0xFF
    let denied (kind : ViolationKind) (region : Option Nat) : State :=
      if d.violated then next none true 0xFF else (next none true 0xFF).violate kind e.cls p region
    (0xFFF000 ≤ p → exec (.readDataByte misread) s = .next (next none d.violated (s.windowByte p))) ∧
    (p < 0xFFF000 → s.checker.openMapping = true →
      let capacity := match s.checker.layout with
        | some l => l.capacity.bytes
        | none => 16777216
      exec (.readDataByte misread) s = .next
        (if p < capacity - 262144 then flashByte none false p else denied .unmapped none)) ∧
    (p < 0xFFF000 → s.checker.openMapping = false → s.checker.layout = none →
      exec (.readDataByte misread) s = .next (denied .unmapped none)) ∧
    (∀ l, p < 0xFFF000 → s.checker.openMapping = false → s.checker.layout = some l →
      exec (.readDataByte misread) s = .next
        (match l.regionOf p with
          | none => denied .unmapped none
          | some (r, o) =>
            if s.checker.hideSet.getLsbD r.index = true ∨ r.readMask.getLsbD s.measure.stage.toNat = false then
              denied .readDenied (some r.index)
            else if r.boot = true ∧ s.response.causes ≠ 0 then
              (match l.recovery with
                | some rec =>
                  if o < rec.length then
                    (if s.checker.hideSet.getLsbD rec.index then denied .readDenied (some r.index)
                     else flashByte (some r.index) true (rec.physA.getD 0 + o))
                  else next none d.violated 0xFF
                | none => next none d.violated 0xFF)
            else flashByte (some r.index) false (s.physical r o)))

/-- R1, R6: WRITE_ENABLE sets the WEL and WRITE_DISABLE clears it, whatever it was; nothing is forwarded and
nothing recorded, and for each of the `n` bytes after the opcode SDOUT is high. -/
def Obligations.WriteEnableAndDisableSetTheLatch : Prop :=
  ∀ (s : State) (op : Byte) (n : Nat) (d : Decode) (e : OpcodeEntry),
    let past : Decode := { d with
      phase := .ended, opcode := op, entry := some e, dummyLeft := e.dummy - n, dataCount := d.dataCount + (n - e.dummy) }
    (s.opens op .writeEnable d e → exec (.writeEnable ⟨op, n⟩) s = .next (s.ended past true (List.replicate n 0xFF))) ∧
    (s.opens op .writeDisable d e → exec (.writeDisable ⟨op, n⟩) s = .next (s.ended past false (List.replicate n 0xFF)))

/-- R10: an ERASE_CHIP is never forwarded. With the WEL clear it is ignored; with the WEL set, busy or not,
the WEL is cleared and one OPCODE violation recorded, with address 000000h and no region index. -/
def Obligations.EraseChipIsNeverForwarded : Prop :=
  ∀ (s : State) (op : Byte) (n : Nat) (d : Decode) (e : OpcodeEntry), s.opens op .eraseChip d e →
    let past := s.ended { d with
      phase := .ended, opcode := op, entry := some e, dummyLeft := e.dummy - n
      dataCount := d.dataCount + (n - e.dummy) } false (List.replicate n 0xFF)
    (s.port.wel = false → exec (.eraseChip ⟨op, n⟩) s = .next past) ∧
    (s.port.wel = true → ∃ t, exec (.eraseChip ⟨op, n⟩) s = .next t ∧ t = past.violate .opcode .eraseChip 0 none ∧
      t.port = past.port ∧ t.arbiter = s.arbiter ∧ t.flash = s.flash)

/-- R8, R9: for each DATA byte of a STATUS_READ SDOUT carries the status byte: bit 0 while a forwarded SoC write is
in progress or one is deferred, bit 1 the WEL, bits 2 ~ 7 zero. For data byte k of an ID_READ it carries byte k of
the presented ID, and FFh after the third; while no layout has been provisioned the ID is 4Ah, 56h, 18h. Nothing
but the transaction's own record changes, whether the transaction begins with this command or goes on. -/
def Obligations.StatusAndIdReadsGiveTheirBytes : Prop :=
  (∀ (s : State) (op : Byte) (n : Nat) (d : Decode) (e : OpcodeEntry),
      let busy : Bool := (match s.arbiter.grant with
        | .socWrite _ => true
        | _ => false) || s.arbiter.deferred.isSome
      let status : Byte := (if busy then 1 else 0) + (if s.port.wel then 2 else 0)
      (s.opens op .statusRead d e → ∃ t, exec (.statusRead op n) s = .next t ∧
        t = { s with port := { s.port with decode := t.port.decode, sdout := t.port.sdout } } ∧
        t.port.sdout = List.replicate (min n e.dummy) 0xFF ++ List.replicate (n - e.dummy) status) ∧
      (s.powered = true → s.port.decode = some d → d.phase ≠ .opcode → d.phase ≠ .ended → d.opcode = op →
        d.entry = some e → e.cls = .statusRead → ∃ t, exec (.statusRead op n) s = .next t ∧
        t = { s with port := { s.port with decode := t.port.decode, sdout := t.port.sdout } } ∧
        t.port.sdout = List.replicate (min n d.dummyLeft) 0xFF ++ List.replicate (n - d.dummyLeft) status)) ∧
  (∀ (s : State) (op : Byte) (n : Nat) (d : Decode) (e : OpcodeEntry),
      let id : Bytes := match s.checker.layout with
        | some l => l.presentedId.take 3
        | none => [0x4A, 0x56, 0x18]
      (s.opens op .idRead d e → ∃ t, exec (.idRead op n) s = .next t ∧
        t = { s with port := { s.port with decode := t.port.decode, sdout := t.port.sdout } } ∧
        t.port.sdout = List.replicate (min n e.dummy) 0xFF ++
          (List.range (n - e.dummy)).map (fun k => id.getD (d.dataCount + k) 0xFF)) ∧
      (s.powered = true → s.port.decode = some d → d.phase ≠ .opcode → d.phase ≠ .ended → d.opcode = op →
        d.entry = some e → e.cls = .idRead → ∃ t, exec (.idRead op n) s = .next t ∧
        t = { s with port := { s.port with decode := t.port.decode, sdout := t.port.sdout } } ∧
        t.port.sdout = List.replicate (min n d.dummyLeft) 0xFF ++
          (List.range (n - d.dummyLeft)).map (fun k => id.getD (d.dataCount + k) 0xFF)))

/-- R2: an opcode held by no entry, or by an entry of class REFUSE, SUSPEND or RESUME, is refused: FFh for
every byte after it, one OPCODE violation with address 000000h and no region index, the WEL and the Flash Port
as they were. Later bytes of the transaction record nothing more. -/
def Obligations.RefusedOpcodeRecordsOneViolation : Prop :=
  ∀ (s : State) (op : Byte) (n : Nat) (d : Decode) (c : OpClass), s.powered = true → s.port.decode = some d →
    ((lookupOpcode s.opcodes op = none ∧ c = .refuse) ∨
      (∃ e, lookupOpcode s.opcodes op = some e ∧ e.cls = c ∧ (c = .refuse ∨ c = .suspend ∨ c = .resume))) →
    (d.phase = .opcode → ∃ t d', exec (.refusedOpcode op n) s = .next t ∧
      t = (s.withDecode d' (List.replicate n 0xFF)).violate .opcode c 0 none ∧
      d'.phase = .data ∧ d'.opcode = op ∧ d'.violated = true ∧
      t.port.wel = s.port.wel ∧ t.arbiter = s.arbiter ∧ t.flash = s.flash) ∧
    (d.phase = .data → d.opcode = op → d.violated = true → exec (.refusedOpcode op n) s = .next
      (s.withDecode { d with dataCount := d.dataCount + n } (List.replicate n 0xFF)))

/-- R4, R7 (1), (2): a PROGRAM, ERASE_4K or ERASE_64K that ends incomplete has no effect; a complete one with
the WEL clear is ignored; with the WEL set and the busy indication 1 the WEL is cleared and the transaction
dropped as WRITE_WHILE_BUSY, without reference to rights. -/
def Obligations.WritesNeedTheLatchAndNoBusy : Prop :=
  (∀ a : Arbiter, a.busy = true ↔ (∃ w, a.grant = .socWrite w) ∨ a.deferred ≠ none) ∧
  ∀ (s : State) (op : Byte) (received : Bytes) (d : Decode) (e : OpcodeEntry) (i : Instr) (c : OpClass) (least : Nat),
    (i, c, least) ∈ [(Instr.program op received, OpClass.program, 4 + e.dummy),
      (Instr.erase4k op received, OpClass.erase4k, 3), (Instr.erase64k op received, OpClass.erase64k, 3)] →
    s.opens op c d e →
    let p := beNat (received.take 3)
    let out : Bytes := List.replicate received.length 0xFF
    let index : Option Nat := match s.lookup p with
      | .region r _ => some r.index
      | _ => none
    (received.length < least → ∃ d', exec i s = .next (s.ended d' s.port.wel out)) ∧
    (least ≤ received.length → s.port.wel = false → ∃ d', d'.phase = .ended ∧ exec i s = .next (s.ended d' false out)) ∧
    (least ≤ received.length → s.port.wel = true → s.arbiter.busy = true → ∃ d', d'.phase = .ended ∧
      exec i s = .next ((s.ended d' false out).violate .writeWhileBusy c p index))

/-- R7 (3), R11, R16, R19, R24, R27, R28, R34: with the WEL set and the busy indication 0 a PROGRAM in a region is
tested in the order of R24. Refused, it is dropped and recorded with the kind of the first test that fails; allowed, it
is forwarded to its translated address with the bytes of its page image, or deferred while an internal program or erase
is in progress or suspended. In unmapped space it is dropped as UNMAPPED. (That the bus record holds the transactions of
the last thing sent is the model's choice, log entry 33.) -/
def Obligations.ProgramIsTestedThenForwarded : Prop :=
  (∀ a : Arbiter, a.internalWriting = true ↔
    a.suspended ≠ none ∨ ∃ r op, a.grant = .internal r op ∧ ∀ base n, op ≠ .read base n) ∧
  ∀ (s : State) (op : Byte) (received : Bytes) (d : Decode) (e : OpcodeEntry) (l : Layout) (p : Nat),
    s.opens op .program d e → 4 + e.dummy ≤ received.length → s.port.wel = true → s.arbiter.busy = false →
    s.checker.openMapping = false → s.checker.layout = some l → p = beNat (received.take 3) → p < 0xFFF000 →
    let n := received.length
    let data := received.drop (3 + e.dummy)
    ∃ d', d'.phase = .ended ∧
      let past := s.ended d' false (List.replicate n 0xFF)
      exec (.program op received) s = .next (match l.regionOf p with
        | none => past.violate .unmapped .program p none
        | some (r, o) =>
          if r.boot = true ∧ s.response.causes ≠ 0 then past.violate .programDenied .program p (some r.index)
          else if s.checker.hideSet.getLsbD r.index then past.violate .programDenied .program p (some r.index)
          else if r.programMask.getLsbD s.measure.stage.toNat = false then
            past.violate .programDenied .program p (some r.index)
          else if s.checker.freezeSet.getLsbD r.index then past.violate .frozen .program p (some r.index)
          else if r.kind = .stage ∧ s.update.session.isStaging = false then
            past.violate .programDenied .program p (some r.index)
          else
            let a := s.physical r o
            let w : SocWrite := { cls := .program, flashOp := e.flashOp, address := a
                                  data := imageData (pageImage p data) p }
            if s.arbiter.internalWriting then { past with arbiter := { past.arbiter with deferred := some w } }
            else { past with arbiter := { past.arbiter with
              grant := .socWrite w
              bus := [[s.flashOp .writeEnable], e.flashOp :: (beBytes 4 a ++ imageData (pageImage p data) p),
                [s.flashOp .statusRead]] } })

/-- R27: data byte k of a PROGRAM lands at position (P mod 256 + k) mod 256 of its page image, a later byte in
place of an earlier one, and the bytes sent begin at position P mod 256. -/
def Obligations.PageImageKeepsTheLastByte : Prop :=
  ∀ (p : Nat) (data : Bytes), data ≠ [] →
    (pageImage p data).length = 256 ∧
    (∀ k (h : k < data.length), data.length ≤ k + 256 → (pageImage p data)[(p % 256 + k) % 256]? = some (some data[k])) ∧
    (∀ j, j < 256 → data.length ≤ j → (pageImage p data)[(p % 256 + j) % 256]? = some none) ∧
    (imageData (pageImage p data) p).length = min data.length 256 ∧
    (data.length ≤ 256 → imageData (pageImage p data) p = data)

/-- R7 (3), R11, R16, R19, R24, R29, R30: with the WEL set and the busy indication 0 an erase outside the control window
is placed by its whole unit: in one region it is tested in the order of R24 and, allowed, forwarded or deferred at the
unit's translated base; wholly unmapped it is dropped as UNMAPPED; else as STRADDLE. (That the bus record holds the
transactions of the last thing sent is the model's choice, log entry 33.) -/
def Obligations.EraseIsPlacedByItsUnit : Prop :=
  ∀ (s : State) (op : Byte) (received : Bytes) (d : Decode) (e : OpcodeEntry) (l : Layout) (p : Nat)
    (i : Instr) (c : OpClass) (size : Nat),
    (i, c, size) ∈ [(Instr.erase4k op received, OpClass.erase4k, 4096), (Instr.erase64k op received, OpClass.erase64k, 65536)] →
    s.opens op c d e → 3 ≤ received.length → s.port.wel = true → s.arbiter.busy = false →
    s.checker.openMapping = false → s.checker.layout = some l → p = beNat (received.take 3) → p < 0xFFF000 →
    let u := p / size * size
    ∃ d', d'.phase = .ended ∧
      let past := s.ended d' false (List.replicate received.length 0xFF)
      let drop (k : ViolationKind) (r : Option Nat) : State := past.violate k c p r
      exec i s = .next (match l.regionOf p with
        | none =>
          if u + size ≤ 0xFFF000 ∧ (∀ x ∈ l.presentedRanges, x.1 + x.2 ≤ u ∨ u + size ≤ x.1) then drop .unmapped none
          else drop .straddle none
        | some (r, o) =>
          if r.base.getD 0 ≤ u ∧ u + size ≤ r.base.getD 0 + r.length then
            (if r.boot = true ∧ s.response.causes ≠ 0 then drop .eraseDenied (some r.index)
             else if s.checker.hideSet.getLsbD r.index then drop .eraseDenied (some r.index)
             else if r.eraseMask.getLsbD s.measure.stage.toNat = false then drop .eraseDenied (some r.index)
             else if s.checker.freezeSet.getLsbD r.index then drop .frozen (some r.index)
             else if r.kind = .stage ∧ s.update.session.isStaging = false then drop .eraseDenied (some r.index)
             else
              let a := s.physical r (o - (p - u))
              let w : SocWrite := { cls := c, flashOp := e.flashOp, address := a, data := [] }
              if s.arbiter.internalWriting then { past with arbiter := { past.arbiter with deferred := some w } }
              else { past with arbiter := { past.arbiter with
                grant := .socWrite w
                bus := [[s.flashOp .writeEnable], e.flashOp :: beBytes 4 a, [s.flashOp .statusRead]] } })
          else drop .straddle (some r.index))

/-- R35: under the factory open mapping a PROGRAM below the end E of the open range is forwarded or deferred at the
physical address of the same value, without reference to stage, hide set, freeze set or containment; from E to the
window it is dropped as UNMAPPED. An erase is allowed when its unit ends at or below E. (That the bus record holds the
transactions of the last thing sent is the model's choice, log entry 33.) -/
def Obligations.FactoryOpenMappingAllowsWritesBelowE : Prop :=
  ∀ (s : State) (op : Byte) (received : Bytes) (d : Decode) (e : OpcodeEntry) (p : Nat)
    (i : Instr) (c : OpClass) (least size : Nat),
    (i, c, least, size) ∈ [(Instr.program op received, OpClass.program, 4 + e.dummy, 1),
      (Instr.erase4k op received, OpClass.erase4k, 3, 4096), (Instr.erase64k op received, OpClass.erase64k, 3, 65536)] →
    s.opens op c d e → least ≤ received.length → s.port.wel = true → s.arbiter.busy = false →
    s.checker.openMapping = true → p = beNat (received.take 3) → p < 0xFFF000 →
    let capacity := match s.checker.layout with
      | some l => l.capacity.bytes
      | none => 16777216
    let E := min (capacity - 262144) 0xFFF000
    let u := p / size * size
    ∃ d', d'.phase = .ended ∧
      let past := s.ended d' false (List.replicate received.length 0xFF)
      (u + size ≤ E → ∃ w : SocWrite, w.cls = c ∧ w.flashOp = e.flashOp ∧ w.address = u ∧
        (c = .program → w.data = imageData (pageImage p (received.drop (3 + e.dummy))) p) ∧
        exec i s = .next (if s.arbiter.internalWriting then { past with arbiter := { past.arbiter with deferred := some w } }
          else past.forward w)) ∧
      (E ≤ u → u + size ≤ 0xFFF000 → exec i s = .next (past.violate .unmapped c p none)) ∧
      (u < E → E < u + size → exec i s = .next (past.violate .straddle c p none)) ∧
      (0xFFF000 < u + size → exec i s = .next (past.violate .straddle c p none))

/-! ### The control window -/

/-- R43, R44: with the WEL set and the busy indication 0 a PROGRAM in the request area replaces exactly the
bytes of its filled positions, unless the engine is BUSY, when it is discarded and the overrun flag set; a
PROGRAM in the response area changes no buffer and records one WINDOW violation. -/
def Obligations.WindowProgramWritesTheRequest : Prop :=
  ∀ (s : State) (op : Byte) (received : Bytes) (d : Decode) (e : OpcodeEntry) (p : Nat),
    s.opens op .program d e → 4 + e.dummy ≤ received.length → s.port.wel = true → s.arbiter.busy = false →
    p = beNat (received.take 3) → 0xFFF000 ≤ p → s.window.request.wf = true →
    let image := pageImage p (received.drop (3 + e.dummy))
    ∃ d', d'.phase = .ended ∧
      let past := s.ended d' false (List.replicate received.length 0xFF)
      (p < 0xFFF800 → s.window.engine = .busy →
        exec (.program op received) s = .next { past with window := { past.window with overrun := true } }) ∧
      (p < 0xFFF800 → s.window.engine ≠ .busy → ∃ t, exec (.program op received) s = .next t ∧
        t = { past with window := { past.window with request := t.window.request } } ∧
        ∀ k, t.window.request.read k =
          if k / 256 = (p - 0xFFF000) / 256 then ((image[k % 256]?).join).getD (s.window.request.read k)
          else s.window.request.read k) ∧
      (0xFFF800 ≤ p → exec (.program op received) s = .next (past.violate .window .program p none))

/-- R45, R46: with the WEL set and the busy indication 0 an erase in the control window is a submission. In
BUSY it is discarded and the overrun flag set; else the response is cleared, the header examined in order, and
the command completes at once with MALFORMED, UNKNOWN or LIFECYCLE or is handed to its owning block with its
body. (That a malformed frame with the code of EVENTS raises DONE is the model's choice, log entry 35.) -/
def Obligations.WindowEraseSubmitsTheRequest : Prop :=
  ∀ (s : State) (op : Byte) (received : Bytes) (d : Decode) (e : OpcodeEntry) (i : Instr) (c : OpClass),
    (i, c) ∈ [(Instr.erase4k op received, OpClass.erase4k), (Instr.erase64k op received, OpClass.erase64k)] →
    s.opens op c d e → 3 ≤ received.length → s.port.wel = true → s.arbiter.busy = false →
    0xFFF000 ≤ beNat (received.take 3) →
    let w := s.window
    let off := beNat (w.request.readBytes 2 2)
    let len := beNat (w.request.readBytes 4 2)
    let k := (w.request.read 0).toNat
    let cleared : Window :=
      { w with engine := .busy, overrun := false, tag := w.request.read 1, result := 0xFF, body := [], command := none }
    let taken : Prop :=
      (s.anchor.lifeCycle = .factory → ¬(k = 0x20 ∨ k = 0x30 ∨ (0x32 ≤ k ∧ k ≤ 0x34) ∨ (0x40 ≤ k ∧ k ≤ 0x55))) ∧
      (s.anchor.lifeCycle = .field → k < 0x70 ∧
        (s.checker.openMapping = true → k ≤ 0x04 ∨ k = 0x12 ∨ k = 0x13 ∨ k = 0x31 ∨ k = 0x35 ∨ k = 0x60 ∨ k = 0x61))
    ∃ d', d'.phase = .ended ∧
      let past := s.ended d' false (List.replicate received.length 0xFF)
      let answered (r : Byte) : State :=
        { past with window := { cleared with engine := .done, result := r, pendingEvents := w.pendingEvents ||| 1 } }
      (w.engine = .busy → exec i s = .next { past with window := { w with overrun := true } }) ∧
      (w.engine ≠ .busy →
        (¬(6 ≤ off ∧ off ≤ 2047 ∧ off + len ≤ 2048) → exec i s = .next (answered 0x10)) ∧
        (6 ≤ off → off ≤ 2047 → off + len ≤ 2048 →
          (Command.ofCode (w.request.read 0) = none → exec i s = .next (answered 0x11)) ∧
          (∀ cmd, Command.ofCode (w.request.read 0) = some cmd →
            (taken → exec i s = .next { past with window := { cleared with
              command := some { command := cmd, body := w.request.readBytes off len, taken := false } } }) ∧
            (¬taken → exec i s = .next (answered 0x12)))))

/-! ### The Flash Port at work -/

/-- R13: an internal requester is granted the Flash Port only while the grant is FREE, the SoC Port idle, nothing
suspended and nothing deferred, and then Journal Store before Measurement Unit before Update Controller; nothing but the
grant and what the Flash Port sends changes. (That the SoC Port counts as idle also while it waits out an SSEL found low
at the release is read from R4 by inference, log entry 31; that the bus record holds what was sent last is the model's
choice, log entry 33.) -/
def Obligations.InternalGrantFollowsItsOrder : Prop :=
  ∀ s : State, s.powered = true →
    let open_ := s.arbiter.grant = .free ∧ s.port.decode = none ∧ s.arbiter.suspended = none ∧ s.arbiter.deferred = none
    let granted (r : Requester) (op : FlashOp) : State :=
      { s with arbiter := { s.arbiter with grant := .internal r op, bus := s.operationFrames (s.flashOp op.cls) op } }
    (open_ → ∀ op, s.arbiter.journal = some op → exec .internalGrant s = .next (granted .journal op)) ∧
    (open_ → s.arbiter.journal = none → ∀ op, s.arbiter.measure = some op →
      exec .internalGrant s = .next (granted .measure op)) ∧
    (open_ → s.arbiter.journal = none → s.arbiter.measure = none → ∀ op, s.arbiter.update = some op →
      exec .internalGrant s = .next (granted .update op)) ∧
    (¬open_ ∨ (s.arbiter.journal = none ∧ s.arbiter.measure = none ∧ s.arbiter.update = none) →
      exec .internalGrant s = .next s)

/-- R11, R13, R14, R16, R27, R87, R91, R93, R146: a program or erase that completes, a forwarded SoC write or an
internal operation, sets the bytes of its erase unit to FFh, or clears bits of its program's bytes within the page, and
leaves every other flash byte; one that the chip carries out otherwise changes no byte outside its unit or bytes. The
grant of a SoC write returns to the SoC Port's transaction or to FREE; an internal operation forwards the deferred
write, else its grant is FREE. (That the grant becomes SOC_READ where a transaction is being decoded is read from R14 by
inference: no rule says it, log entry 34. The model's choices: that the chip can carry out an operation otherwise, as
the command's operand says, and even then changes no byte outside the unit or the bytes of the operation, log entry 5;
that the row is the poll that reads ready, log entry 33.) -/
def Obligations.FlashOperationChangesItsBytes : Prop :=
  let erased (s t : State) (size base : Nat) : Prop :=
    ∀ a, t.flash.read a = if a / size = base / size then 0xFF else s.flash.read a
  let programmed (s t : State) (base : Nat) (data : Bytes) : Prop :=
    data.length ≤ 256 → s.flash.wf = true → ∀ a, t.flash.read a =
      if a / 256 = base / 256 ∧ (a + 256 - base % 256) % 256 < data.length then
        s.flash.read a &&& data.getD ((a + 256 - base % 256) % 256) 0xFF
      else s.flash.read a
  (∀ (s : State) (w : SocWrite), s.powered = true → s.arbiter.grant = .socWrite w →
    ∃ t, exec (.flashOperationComplete []) s = .next t ∧
      t = { s with flash := t.flash
                   arbiter := { s.arbiter with grant := if s.port.decode.isSome then .socRead else .free } } ∧
      (w.cls = .erase4k → erased s t 4096 w.address) ∧ (w.cls = .erase64k → erased s t 65536 w.address) ∧
      (w.cls = .program → programmed s t w.address w.data)) ∧
  (∀ (s : State) (r : Requester) (op : FlashOp), s.powered = true → s.arbiter.grant = .internal r op →
    (∀ a n, op ≠ .read a n) → ∃ t, exec (.flashOperationComplete []) s = .next t ∧
      (∀ base, op = .erase4k base → erased s t 4096 base) ∧ (∀ base, op = .erase64k base → erased s t 65536 base) ∧
      (∀ base data, op = .program base data → programmed s t base data) ∧
      (s.arbiter.deferred = none → t.arbiter.grant = .free)) ∧
  (∀ base a : Nat, (∀ n, (FlashOp.read base n).touches a = false) ∧
    (∀ data, (FlashOp.program base data).touches a = true ↔
      a / 256 = base / 256 ∧ (a + 256 - base % 256) % 256 < data.length) ∧
    ((FlashOp.erase4k base).touches a = true ↔ a / 4096 = base / 4096) ∧
    ((FlashOp.erase64k base).touches a = true ↔ a / 65536 = base / 65536)) ∧
  (∀ (s : State) (op : FlashOp) (failed : FlashCells), s.powered = true → (∀ a n, op ≠ .read a n) →
    ((∃ w, s.arbiter.grant = .socWrite w ∧ op = w.op) ∨ (∃ r, s.arbiter.grant = .internal r op)) →
    ∃ t, exec (.flashOperationComplete failed) s = .next t ∧
      ∀ a, op.touches a = false → t.flash.read a = s.flash.read a) ∧
  (∀ (s : State) (w : SocWrite) (op : FlashOp) (failed : FlashCells), s.powered = true →
    s.arbiter.grant = .internal .journal op → (∀ a n, op ≠ .read a n) → s.arbiter.deferred = some w →
    ∃ t, exec (.flashOperationComplete failed) s = .next t ∧
      t.arbiter.grant = .socWrite w ∧ t.arbiter.deferred = none ∧ t.arbiter.busy = true)

/-- R13, R17, R70, R147: a read chunk that completes before the last of a region's measurement, or of a target's
verification, feeds its bytes and asks for the next chunk of at most 256 bytes; nothing else changes. (That a chunk its
requester has withdrawn ends the same way, its bytes given to nobody and a request made since then left as it is, is
read from R13 and R17 by inference, log entry 44.) (That the command's operand says which bytes the chip misreads is the
model's choice, log entry 5.) -/
def Obligations.ReadChunkFeedsTheDigest : Prop :=
  ∀ (s : State) (misread : FlashCells) (base n : Nat), s.powered = true →
    let bytes := s.flash.readBytesThrough misread base n
    (∀ m : Measuring, s.arbiter.grant = .internal .measure (.read base n) → s.measure.current = some m →
      m.fed.length + n < m.length → exec (.readChunkComplete misread) s = .next { s with
        arbiter := { s.arbiter with
          grant := .free
          measure := some (.read (m.base + (m.fed.length + n)) (min 256 (m.length - (m.fed.length + n)))) }
        measure := { s.measure with current := some { m with fed := m.fed ++ bytes } } }) ∧
    (∀ r : Requester, s.arbiter.grant = .internalWithdrawn r base n →
      exec (.readChunkComplete misread) s = .next { s with arbiter := { s.arbiter with grant := .free } }) ∧
    (∀ (mf : Manifest) (tg : Target) (rest : List Target) (fed : Bytes) (hashed : Nat),
      s.arbiter.grant = .internal .update (.read base n) →
      s.update.session = .verifying mf { todo := tg :: rest, fed := fed } hashed → fed.length + n < tg.length →
      exec (.readChunkComplete misread) s = .next { s with
        arbiter := { s.arbiter with
          grant := .free
          update := some (.read (s.stagedBase tg.region + (fed.length + n)) (min 256 (tg.length - (fed.length + n)))) }
        update := { s.update with session := .verifying mf { todo := tg :: rest, fed := fed ++ bytes } (hashed + n) } })

/-- R59, R63, R67, R68, R70, R71, R73 ~ R77, R79, R80, R154: when the last chunk of a region completes, its digest
extends the slot and the log and is compared with its reference; a wrong one counts, and raises MISMATCH. With a region
left of a STAGE ADVANCE or a boot check pass the next one is begun, what the wrong digest asks for noted. The last
region of a STAGE ADVANCE completes it, after a wrong digest of policy CONTAIN under cause REGION_MISMATCH. The last
region of a boot check pass decides the boot: with no mismatch that calls for action BOOT_MISMATCH leaves the cause set
and the SoC is released, or with another cause left the recovery image measured; with a bank to fall back to its entry
is placed, the SoC held; else BOOT_MISMATCH is set and the recovery image measured. The recovery image with the right
digest releases the SoC; with a wrong one it is held in HALT. (The model's choices: that the command's operand says
which bytes the chip misreads, log entry 5; that the halt count is in anchor memory with the same step, log entry
19.) -/
def Obligations.AdvanceCompletesWithItsLastRegion : Prop :=
  ∀ (s : State) (misread : FlashCells) (base n : Nat) (m : Measuring) (r : Region) (l : Layout), s.powered = true →
    s.arbiter.grant = .internal .measure (.read base n) → s.measure.current = some m →
    s.checker.layout = some l → l.region? m.region = some r → m.length ≤ m.fed.length + n →
    let d := sha256 (m.fed ++ s.flash.readBytesThrough misread base n)
    let reference : Option Digest := match r.kind with
      | .banked => some ((((s.update.record.bank s.update.presented).images[l.banked.idxOf r.index]?).map Image.digest).getD 0)
      | .recovery => some s.update.record.recoveryDigest
      | _ => none
    let wrong : Prop := ∃ x, reference = some x ∧ x ≠ d
    (∀ (a : Advance) (slot : Nat) (body : Bytes), s.measure.advance = some a → r.slot = some slot →
      slot < 8 → s.window.command = some { command := .stageAdvance, body := body, taken := true } →
      let stage := match r.measureAt with
        | .stage k => k
        | _ => 0
      let regions := a.done ++ [r.index]
      let advanced (x : State) (mismatched : BitVec 16) : State := State.posted { x with measure := { x.measure with
          stage := BitVec.ofNat 3 a.target
          history := x.measure.history ++
            [{ stage := a.target, uptime := x.time.uptime, logLength := x.measure.log.length }]
          advance := none } } 0
        ([BitVec.ofNat 8 a.target, BitVec.ofNat 8 regions.length] ++ regions.map (BitVec.ofNat 8) ++
          beBytes 2 mismatched.toNat)
      let onward (x t : State) (mismatched : BitVec 16) : Prop :=
        (a.todo = [] → t = advanced x mismatched) ∧
        (∀ i rest g, a.todo = i :: rest → l.region? i = some g → (l.hashed s.update.record s.update.presented g).2 ≠ 0 →
          t = State.begun { x with measure := { x.measure with
            advance := some { target := a.target, todo := rest, done := regions, mismatched := mismatched } } } l g)
      ∃ u t, exec (.readChunkComplete misread) s = .next t ∧
        Compared wrong (s.digestTaken slot .region r.index stage d) u ∧
        (¬wrong → onward u t a.mismatched) ∧
        (wrong → r.onMismatch ≠ some .contain → onward u t (a.mismatched ||| BitVec.twoPow 16 r.index)) ∧
        (wrong → r.onMismatch = some .contain →
          onward (u.contain .regionMismatch) t (a.mismatched ||| BitVec.twoPow 16 r.index))) ∧
    (∀ (p : Pass) (slot i : Nat) (rest : List Nat) (g : Region), s.measure.advance = none →
      s.rst.check = .measuring p → p.todo = i :: rest → l.region? i = some g → (l.hashed s.update.record s.update.presented g).2 ≠ 0 →
      r.slot = some slot → slot < 8 →
      let acts : Prop := wrong ∧ (r.onMismatch = some .fallback ∨ r.onMismatch = some .contain)
      let contains : Prop := acts ∧ r.onMismatch = some .contain ∧ s.update.trialBoot = false
      ∃ u t fallback contain, exec (.readChunkComplete misread) s = .next t ∧
        Compared wrong (s.digestTaken slot .region r.index 0 d) u ∧
        (fallback = true ↔ p.needFallback = true ∨ (acts ∧ ¬contains)) ∧
        (contain = true ↔ p.needContain = true ∨ contains) ∧
        t = State.begun { u with rst := { u.rst with check := .measuring {
          second := p.second, todo := rest, needFallback := fallback, needContain := contain } } } l g) ∧
    (∀ (p : Pass) (slot : Nat), s.measure.advance = none → s.rst.check = .measuring p → p.todo = [] →
      r.slot = some slot → slot < 8 →
      let trial := s.update.trialBoot
      let old := s.update.record
      let acts : Prop := wrong ∧ (r.onMismatch = some .fallback ∨ r.onMismatch = some .contain)
      let needContain : Prop := p.needContain = true ∨ (acts ∧ r.onMismatch = some .contain ∧ trial = false)
      let needFallback : Prop := p.needFallback = true ∨ (acts ∧ ¬(r.onMismatch = some .contain ∧ trial = false))
      let bank := if trial = true then old.active else s.update.presented.other
      let may : Prop := p.second = false ∧ needFallback ∧ ¬needContain ∧ (old.bank bank).state = .good ∧
        s.anchor.floor.toNat ≤ (old.bank bank).version.toNat
      let new : BankRecord := if trial = true then
          { old.setState old.trialBank .rejected with
            trialPending := false, trialLayout := false, raiseFloor := false, outcome := .fellBackMismatch }
        else { old.setState s.update.presented .rejected with active := bank }
      ∃ u t, exec (.readChunkComplete misread) s = .next t ∧
        Compared wrong (s.digestTaken slot .region r.index 0 d) u ∧
        (¬needFallback → ¬needContain →
          let left : Byte := u.response.causes &&& 0xFE
          let passed : State := { u with response := { u.response with causes := left } }
          (left = 0 → t = passed.released) ∧
          (∀ rec, left ≠ 0 → l.recovery = some rec → rec.length ≠ 0 → t = passed.recovering rec)) ∧
        (may → u.journal.freeFor .resetController →
          t = State.queued { u with rst := { u.rst with check := .waitFallback } } {
            purpose := .bootFallback
            live := true
            entries := [{ kind := .bank, id := 0, epoch := 0, secret := false, payload := new.payload }]
            floorRaise := none
            authorityHash := none
            record := some new }) ∧
        (∀ rec, (needFallback ∨ needContain) → ¬may → l.recovery = some rec → rec.length ≠ 0 →
          t = (u.contain .bootMismatch).recovering rec)) ∧
    (∀ (boot : Region) (slot : Nat), s.measure.advance = none → s.rst.check = .recovery → r.kind = .recovery →
      l.bootRegion = some boot → boot.slot = some slot → slot < 8 →
      ∃ u t, exec (.readChunkComplete misread) s = .next t ∧
        Compared (s.update.record.recoveryDigest ≠ d) (s.digestTaken slot .recovery r.index 0 d) u ∧
        (s.update.record.recoveryDigest = d → t = u.released) ∧
        (s.update.record.recoveryDigest ≠ d → t = u.halted))

/-! ### The Journal Store -/

/-- R57, R88 ~ R92, R95 ~ R100, R137, R171, R174; R58, R62, R76, R108, R112, R123, R126, R127, R134, R142, R145, R150 ~
R154, R156, R158, R175 ~ R177 for the answers: a chunk of the scan is kept and the next asked for; with the last of an
area both halves are judged, chain and append point found, the capacity and the generations compared (of entries with
distinct generations, as the part writes them). Each live object is read again and handed over, or with an incorrect tag
the store is STALE; after the last one START ends. An entry that reads back as sent is durable at once: generation,
append point, and the index, where it is its object's record if the object is now live. One that does not is spoiled at
its tag, the rest as it was. A tag spoiled reads 00h: the entry is written once more behind it under the same
generation, after compaction where it does not fit; else it is spoiled again; after the second failure the request ends
in FAULT. With the next entry of a request the same begins again, or with no number left it ends in FAULT; with the last
one durable its anchor memory writes are asked for, or the answer OK is given: the owner takes key, credential record,
count or bank record, a trial attempt, timeout or boot fallback presents its bank and layout, counts, and begins its
pass, and the waiting command goes on or answers. Then held requests, the erase list, a waiting check and a pulse go on.
A durable OWNER-EPOCH entry makes the new epoch: older credentials and owner keys are gone, the grant cleared and OWNER
raised. (The model's choices: log entries 5 (misread bytes), 8 (kind codes), 18 (containment and the taking of an entry
before the answer), 17 (abandoned requests are taken, unheeded), 19 (when anchor memory is written), 20 (hand-over one
read at a time), 22, 54 (what a second failure leaves), 36 (an OWNER-EPOCH entry that fails its second reading), 37, 55,
58 (what an abandoned command's request meets), 42 (empty bodies), 43, 46, 51 ~ 53 (second epoch request, order of
restored counts, second authority key, secret flag of a removal, layout source after a confirm). Read by inference: 16,
24, 25, 29.) -/
def Obligations.StoreChunkJudgesTheReadBack : Prop :=
  ∀ (s : State) (misread : FlashCells) (base n : Nat), s.powered = true →
    s.arbiter.grant = .internal .journal (.read base n) →
    let bytes := s.flash.readBytesThrough misread base n
    let freed : State := { s with arbiter := { s.arbiter with grant := .free, journal := none } }
    (∀ area h0 h1 k, s.journal.scan = some (.probing area h0 h1 k) → k + 256 < 262144 →
      exec (.storeReadChunkComplete misread) s = .next { s with
        arbiter := { s.arbiter with grant := .free, journal := some (.read (area.privateBase + (k + 256)) 256) }
        journal := { s.journal with scan := some (.probing area
          (if k < 131072 then h0.writeBytes k bytes else h0)
          (if k < 131072 then h1 else h1.writeBytes (k - 131072) bytes) (k + 256)) } }) ∧
    ((∀ area h0 h1 k, s.journal.scan = some (.probing area h0 h1 k) → k + 256 = 262144 →
        h0.wf = true → h1.wf = true →
        let half1 := h1.writeBytes (k - 131072) bytes
        (∀ f, s.journal.finds h0 half1 f → f.entries.Pairwise (fun a b => a.generation ≠ b.generation)) →
        ∃ t, exec (.storeReadChunkComplete misread) s = .next t ∧ AreaJudged freed area h0 half1 t) ∧
      (∀ outcome r rest got, s.journal.scan = some (.handing outcome (r :: rest) got) →
        (got.length + n < r.length → exec (.storeReadChunkComplete misread) s = .next { s with
          arbiter := { s.arbiter with
            grant := .free
            journal := some (.read (s.halfBase r.half + r.offset + (got.length + n))
              (min 256 (r.length - (got.length + n)))) }
          journal := { s.journal with scan := some (.handing outcome (r :: rest) (got ++ bytes)) } }) ∧
        (r.length ≤ got.length + n → ∃ u t, exec (.storeReadChunkComplete misread) s = .next t ∧
          (∀ half e, s.journal.holds half r.offset e → half.readBytes r.offset e.length = got ++ bytes →
            Handed freed e u ∧ HandsOn u outcome rest t) ∧
          (tagCorrect s.journal.tagKey (got ++ bytes) = false →
            u = freed.contain .storeStale ∧ HandsOn u .stale rest t)))) ∧
    (∀ job g w got e rest, s.journal.scan = none → s.journal.job = some job → job.step = .readingBack (.entry g) w got →
      job.todo = e :: rest → got ++ bytes = w.bytes → ∃ t, exec (.storeReadChunkComplete misread) s = .next t ∧
        t.anchor.generation = g ∧ t.journal.appendPoint = w.offset + w.bytes.length ∧ t.flash = s.flash ∧
        (e.kind ≠ .ownerEpoch →
          let live : Prop := e.payload ≠ [] ∧ (e.epoch = 0 ∨ e.epoch = s.journal.epoch) ∧ e.kind ≠ .checkpoint ∧
            (e.kind = .count → ∃ x ∈ s.journal.index, x.kind = .cred ∧ x.id = e.id)
          let q := job.request
          ∃ index : List IndexRecord,
            let past : State := { freed with
              anchor := { s.anchor with generation := g }
              journal := { s.journal with index := index, appendPoint := w.offset + w.bytes.length, job := none }
              update := { s.update with
                layout := if e.kind = .layout then Layout.parse e.payload else s.update.layout
                trialLayout := if e.kind = .layoutTrial then Layout.parse e.payload else s.update.trialLayout } }
            (∀ x, x ∈ index ↔
              (live ∧ x = { kind := e.kind, id := e.id, half := w.half, offset := w.offset, length := w.bytes.length
                            generation := g, epoch := e.epoch }) ∨
              (x ∈ s.journal.index ∧ ¬(x.kind = e.kind ∧ x.id = e.id) ∧
                ¬(e.kind = .cred ∧ x.kind = .count ∧ x.id = e.id))) ∧
            t.journal.index = index ∧
            (∀ more todo h, rest = more :: todo → s.journal.active = some h → g ≠ 0xFFFFFFFF →
              (more.kind = .ownerEpoch → s.journal.epoch ≠ 0xFFFFFFFF) →
              let next (op : FlashOp) (step : JobStep) : State := { past with
                arbiter := { past.arbiter with journal := some op }
                journal := { past.journal with job := some { job with todo := rest, step := step } } }
              let size := entryLength (s.journal.filled more).payload.length
              let v := s.written h (w.offset + w.bytes.length) (s.journal.filled more) (g + 1)
              (w.offset + w.bytes.length + size ≤ 131072 → ∃ pages, Paged (s.halfBase h + v.offset) v.bytes pages ∧
                t = next (s.firstPage v) (.programming (.entry (g + 1)) v pages)) ∧
              (131072 < w.offset + w.bytes.length + size →
                t = next (.erase64k (s.halfBase h.other)) (.erasing false))) ∧
            (∀ more todo, rest = more :: todo →
              (g = 0xFFFFFFFF ∨ (more.kind = .ownerEpoch ∧ s.journal.epoch = 0xFFFFFFFF)) → RequestFailed past q t) ∧
            (rest = [] → (q.floorRaise = none ∧ q.authorityHash = none → RequestAnswered past q t) ∧
              (q.floorRaise ≠ none ∨ q.authorityHash ≠ none → t = { past with
                journal := { past.journal with job := some { job with todo := [], step := .anchorWriting } }
                anchor := { past.anchor with
                  writes := s.anchor.writes ++ [.request q.floorRaise q.authorityHash] } })))) ∧
    (∀ job g w got, s.journal.scan = none → s.journal.job = some job → job.step = .readingBack (.entry g) w got →
      w.bytes.length ≤ got.length + n → got ++ bytes ≠ w.bytes →
      exec (.storeReadChunkComplete misread) s = .next { s with
        arbiter := { s.arbiter with
          grant := .free
          journal := some (.program (s.halfBase w.half + w.offset + (w.bytes.length - 16)) (List.replicate 16 0)) }
        journal := { s.journal with job := some { job with step := .spoiling w job.failed } } }) ∧
    (∀ job w final, s.journal.scan = none → s.journal.job = some job → job.step = .spoilReading w final →
      (∀ e es h, final = false → bytes = List.replicate 16 0 → job.todo = e :: es → s.journal.active = some h →
        s.anchor.generation ≠ 0xFFFFFFFF → (e.kind = .ownerEpoch → s.journal.epoch ≠ 0xFFFFFFFF) →
        let past := w.offset + w.bytes.length
        let size := entryLength (s.journal.filled e).payload.length
        let g := s.anchor.generation + 1
        let v := s.written h past (s.journal.filled e) g
        let again (op : FlashOp) (step : JobStep) : State := { s with
          arbiter := { s.arbiter with grant := .free, journal := some op }
          journal := { s.journal with
            appendPoint := past, job := some { job with failed := true, step := step } } }
        (past + size ≤ 131072 → ∃ pages, Paged (s.halfBase h + past) v.bytes pages ∧
          exec (.storeReadChunkComplete misread) s = .next (again (s.firstPage v) (.programming (.entry g) v pages))) ∧
        (131072 < past + size → exec (.storeReadChunkComplete misread) s =
          .next (again (.erase64k (s.halfBase h.other)) (.erasing false)))) ∧
      (final = false → bytes ≠ List.replicate 16 0 → exec (.storeReadChunkComplete misread) s = .next { s with
        arbiter := { s.arbiter with
          grant := .free
          journal := some (.program (s.halfBase w.half + w.offset + (w.bytes.length - 16)) (List.replicate 16 0)) }
        journal := { s.journal with job := some { job with step := .spoiling w true } } }) ∧
      (final = true → ∃ t, exec (.storeReadChunkComplete misread) s = .next t ∧ RequestFailed freed job.request t)) ∧
    (∀ job g w got e, s.journal.scan = none → s.journal.job = some job →
      job.step = .readingBack (.entry g) w got → job.todo = [e] → got ++ bytes = w.bytes →
      e.kind = .ownerEpoch → job.request.floorRaise = none → job.request.authorityHash = none →
      let epoch := s.journal.epoch + 1
      ∃ u t, exec (.storeReadChunkComplete misread) s = .next t ∧ RequestAnswered u job.request t ∧
        u = { freed with
          anchor := { s.anchor with generation := g }
          journal := { s.journal with
            epoch := epoch, index := u.journal.index, appendPoint := w.offset + w.bytes.length, job := none }
          creds := { records := u.creds.records, grant := none }
          keys := { s.keys with slots := u.keys.slots }
          window := { s.window with pendingEvents := s.window.pendingEvents ||| 128 } } ∧
        (∀ x ∈ u.journal.index, x.kind = .cred ∨ x.kind = .count ∨ x.kind = .key → x.epoch = 0 ∨ x.epoch = epoch) ∧
        (∀ id x, u.creds.get id = some x ↔ s.creds.get id = some x ∧ x.epoch = epoch) ∧
        (∀ slot k, u.keys.held slot = some k ↔ s.keys.held slot = some k ∧ (k.cls = .owner → k.epoch = epoch)))

/-- R87, R90 ~ R95, R98, R100: in READY the oldest request is taken when none is in progress and its first entry, an
OWNER-EPOCH entry with the next epoch filled in, is programmed at the append point with the next generation, page by
page, no program across a 256-byte boundary, and then read back. Where it does not fit the other half is erased first,
and in a blank store half 0: two 64 KiB erases, the live entries copied in the order of their generations, each read,
its tag checked, programmed and read back before the next, then a CHECKPOINT with their count; once that reads back, the
half is active and the entry goes after it. A copy with an incorrect tag, or a copy or CHECKPOINT that reads back
otherwise, begins the compaction again with the half erased anew; as the request's second failure it ends the request,
with what was just programmed spoiled first. With no generation or no epoch left the request ends in FAULT. In STALE and
FAULT it is answered STORE_FAULT without a flash write, with cause STORE_FAULT. In SCANNING, and while a request is in
progress, it waits. (The model's choices: that the second failure of a compaction spoils only the copy or CHECKPOINT
just programmed, a copy with an incorrect tag nothing, log entry 22; what stands where a compaction has completed before
the second failure, log entry 54; the lower block erased first, 50; containment before the answer, 18; the generation in
anchor memory at once, 19; kind codes, 8; misread bytes, 5. An answer STORE_FAULT and what follows it rest on 16, 17,
24, 42, 43, 46, 52 as StoreChunkJudgesTheReadBack does.) -/
def Obligations.OldestRequestIsTakenOrRefused : Prop :=
  (∀ s : State,
    (s.journal.provisioning = some .mib16 → s.halfBase .zero = 0xFC0000 ∧ s.halfBase .one = 0xFE0000) ∧
    (s.journal.provisioning = some .mib32 → s.halfBase .zero = 0x1FC0000 ∧ s.halfBase .one = 0x1FE0000)) ∧
  (∀ (s : State) (q : StoreRequest) (rest : List StoreRequest), s.powered = true → s.journal.queue = q :: rest →
    (∀ e es, s.journal.job = none → s.journal.state = .ready → q.entries = e :: es →
      s.anchor.generation ≠ 0xFFFFFFFF → (e.kind = .ownerEpoch → s.journal.epoch ≠ 0xFFFFFFFF) →
      let e' := s.journal.filled e
      let size := entryLength e'.payload.length
      let taken (op : FlashOp) (step : JobStep) : State := { s with
        arbiter := { s.arbiter with journal := some op }
        journal := { s.journal with
          queue := rest, job := some { request := q, todo := q.entries, failed := false, step := step } } }
      (∀ h, s.journal.active = some h → s.journal.appendPoint + size ≤ 131072 →
        let g := s.anchor.generation + 1
        let w := s.written h s.journal.appendPoint e' g
        ∃ pages, Paged (s.halfBase h + s.journal.appendPoint) w.bytes pages ∧
          exec .storeRequestTaken s = .next (taken (s.firstPage w) (.programming (.entry g) w pages))) ∧
      (∀ h, s.journal.active = some h → 131072 < s.journal.appendPoint + size →
        exec .storeRequestTaken s = .next (taken (.erase64k (s.halfBase h.other)) (.erasing false))) ∧
      (s.journal.active = none →
        exec .storeRequestTaken s = .next (taken (.erase64k (s.halfBase .zero)) (.erasing false)))) ∧
    (∀ e es, s.journal.job = none → s.journal.state = .ready → q.entries = e :: es →
      (s.anchor.generation = 0xFFFFFFFF ∨ (e.kind = .ownerEpoch ∧ s.journal.epoch = 0xFFFFFFFF)) →
      ∃ t, exec .storeRequestTaken s = .next t ∧ RequestFailed { s with journal := { s.journal with queue := rest } } q t) ∧
    (s.journal.job = none → (s.journal.state = .stale ∨ s.journal.state = .fault) →
      ∃ t, exec .storeRequestTaken s = .next t ∧ RequestRefused { s with journal := { s.journal with queue := rest } } q t ∧
        t.contained = true ∧ t.response.causes.getLsbD 3 = true ∧
        t.journal.state = s.journal.state ∧ t.journal.index = s.journal.index ∧ t.flash = s.flash ∧
        t.arbiter.journal = s.arbiter.journal ∧ t.anchor.generation = s.anchor.generation ∧
        (q.purpose.source = .engine → q.live = true → t.window.engine = .done ∧ t.window.result = 0x21 ∧
          t.window.body = [])) ∧
    ((s.journal.state = .scanning ∨ s.journal.job ≠ none) → exec .storeRequestTaken s = .next s)) ∧
  (∀ (s : State) (job : Job) (op : FlashOp) (failed : FlashCells), s.powered = true → s.journal.job = some job →
    s.arbiter.grant = .internal .journal op → (∀ a k, op ≠ .read a k) →
    let half := match s.journal.active with
      | some h => h.other
      | none => Half.zero
    (∀ k w p page rest, job.step = .programming k w (p :: page :: rest) →
      ∃ t, exec (.flashOperationComplete failed) s = .next t ∧ t.arbiter.journal = some (.program page.1 page.2) ∧
        t.journal = { s.journal with job := some { job with step := .programming k w (page :: rest) } }) ∧
    (∀ k w p, job.step = .programming k w [p] → ∃ t, exec (.flashOperationComplete failed) s = .next t ∧
      t.arbiter.journal = some (.read (s.halfBase w.half + w.offset) (min 256 w.bytes.length)) ∧
      t.journal = { s.journal with job := some { job with step := .readingBack k w [] } }) ∧
    (∀ w final, job.step = .spoiling w final → ∃ t, exec (.flashOperationComplete failed) s = .next t ∧
      t.arbiter.journal = some (.read (s.halfBase w.half + w.offset + (w.bytes.length - 16)) 16) ∧
      t.journal = { s.journal with job := some { job with step := .spoilReading w final } }) ∧
    (job.step = .erasing false → ∃ t, exec (.flashOperationComplete failed) s = .next t ∧
      t.arbiter.journal = some (.erase64k (s.halfBase half + 65536)) ∧
      t.journal = { s.journal with job := some { job with step := .erasing true } }) ∧
    (job.step = .erasing true → s.journal.index = [] → ∃ t pages, exec (.flashOperationComplete failed) s = .next t ∧
      let w := s.written half 0 { kind := .checkpoint, id := 0, epoch := 0, secret := false, payload := [0, 0] }
        (s.anchor.generation + 1)
      Paged (s.halfBase half) w.bytes pages ∧ t.arbiter.journal = some (s.firstPage w) ∧
      t.journal = { s.journal with job := some { job with step := .programming (.checkpoint []) w pages } }) ∧
    (job.step = .erasing true → s.journal.index ≠ [] → ∃ t x more, exec (.flashOperationComplete failed) s = .next t ∧
      (x :: more).Perm s.journal.index ∧ (x :: more).Pairwise (fun a b => a.generation.toNat ≤ b.generation.toNat) ∧
      t.arbiter.journal = some (.read (s.recordBase x) (min 256 x.length)) ∧
      t.journal = { s.journal with job := some { job with step := .copyReading x more [] [] } })) ∧
  (∀ (s : State) (misread : FlashCells) (base n : Nat) (job : Job), s.powered = true →
    s.arbiter.grant = .internal .journal (.read base n) → s.journal.scan = none → s.journal.job = some job →
    let bytes := s.flash.readBytesThrough misread base n
    let half := match s.journal.active with
      | some h => h.other
      | none => Half.zero
    let programming (k : WriteKind) (w : Writing) (pages : List (Nat × Bytes)) : State := { s with
      arbiter := { s.arbiter with grant := .free, journal := some (s.firstPage w) }
      journal := { s.journal with job := some { job with step := .programming k w pages } } }
    let reading (base length done : Nat) (step : JobStep) : State := { s with
      arbiter := { s.arbiter with grant := .free, journal := some (.read (base + done) (min 256 (length - done))) }
      journal := { s.journal with job := some { job with step := step } } }
    let anew : State := { s with
      arbiter := { s.arbiter with grant := .free, journal := some (.erase64k (s.halfBase half)) }
      journal := { s.journal with job := some { job with failed := true, step := .erasing false } } }
    (∀ x more copied got, job.step = .copyReading x more copied got → x.length ≤ got.length + n →
      tagCorrect s.journal.tagKey (got ++ bytes) = true → got ++ bytes ≠ [] →
      let w : Writing := { half := half, offset := (copied.map IndexRecord.length).sum, bytes := got ++ bytes }
      ∃ pages, Paged (s.halfBase half + w.offset) w.bytes pages ∧
        exec (.storeReadChunkComplete misread) s = .next (programming (.copy x more copied) w pages)) ∧
    (∀ x more copied got, job.step = .copyReading x more copied got → got.length + n < x.length →
      exec (.storeReadChunkComplete misread) s = .next (reading (s.recordBase x) x.length (got.length + n)
        (.copyReading x more copied (got ++ bytes)))) ∧
    (∀ k w got, job.step = .readingBack k w got → got.length + n < w.bytes.length →
      exec (.storeReadChunkComplete misread) s = .next (reading (s.halfBase w.half + w.offset) w.bytes.length
        (got.length + n) (.readingBack k w (got ++ bytes)))) ∧
    (∀ x copied w got, job.step = .readingBack (.copy x [] copied) w got → got ++ bytes = w.bytes →
      let all := copied ++ [{ x with half := w.half, offset := w.offset }]
      let v := s.written half (all.map IndexRecord.length).sum
        { kind := .checkpoint, id := 0, epoch := 0, secret := false, payload := beBytes 2 all.length }
        (s.anchor.generation + 1)
      ∃ pages, Paged (s.halfBase half + v.offset) v.bytes pages ∧
        exec (.storeReadChunkComplete misread) s = .next (programming (.checkpoint all) v pages)) ∧
    (∀ x y rest copied w got, job.step = .readingBack (.copy x (y :: rest) copied) w got → got ++ bytes = w.bytes →
      exec (.storeReadChunkComplete misread) s = .next (reading (s.recordBase y) y.length 0
        (.copyReading y rest (copied ++ [{ x with half := w.half, offset := w.offset }]) []))) ∧
    (∀ x more copied got, job.step = .copyReading x more copied got → x.length ≤ got.length + n →
      tagCorrect s.journal.tagKey (got ++ bytes) = false →
      (job.failed = false → exec (.storeReadChunkComplete misread) s = .next anew) ∧
      (job.failed = true → ∃ t, exec (.storeReadChunkComplete misread) s = .next t ∧
        RequestFailed { s with arbiter := { s.arbiter with grant := .free, journal := none } } job.request t)) ∧
    (∀ k w got, job.step = .readingBack k w got → (∀ g, k ≠ .entry g) → w.bytes.length ≤ got.length + n →
      got ++ bytes ≠ w.bytes →
      (job.failed = false → exec (.storeReadChunkComplete misread) s = .next anew) ∧
      (job.failed = true → exec (.storeReadChunkComplete misread) s = .next { s with
        arbiter := { s.arbiter with
          grant := .free
          journal := some (.program (s.halfBase w.half + w.offset + (w.bytes.length - 16)) (List.replicate 16 0)) }
        journal := { s.journal with job := some { job with step := .spoiling w true } } })) ∧
    (∀ copied w got e es, job.step = .readingBack (.checkpoint copied) w got → got ++ bytes = w.bytes →
      job.todo = e :: es → s.anchor.generation + 1 ≠ 0xFFFFFFFF → (e.kind = .ownerEpoch → s.journal.epoch ≠ 0xFFFFFFFF) →
      w.offset + w.bytes.length + entryLength (s.journal.filled e).payload.length ≤ 131072 →
      let g := s.anchor.generation + 1 + 1
      let v := s.written w.half (w.offset + w.bytes.length) (s.journal.filled e) g
      ∃ pages, Paged (s.halfBase w.half + v.offset) v.bytes pages ∧ exec (.storeReadChunkComplete misread) s = .next { s with
        arbiter := { s.arbiter with grant := .free, journal := some (s.firstPage v) }
        anchor := { s.anchor with generation := s.anchor.generation + 1 }
        journal := { s.journal with
          active := some w.half
          appendPoint := w.offset + w.bytes.length
          index := copied
          job := some { job with step := .programming (.entry g) v pages } } }))

/-! ### The Signature Unit -/

/-- R106, R107, R110, R111, R114, R117, R123, R163: when the Signature Unit completes, a use of a key is tested again
(DISABLED, then containment, then the grant) and answers the signature or value of the key it was taken with, whatever
has become of the slot; ATTEST answers the report with its signature; a key created is placed as its store request, and
so is a VERIFIER with its salt and the SHA-256 of salt and value. (The random values, the salt among them, are free, log
entry 3.) (That a use of a key ends with the key it was taken with is read from R110 by inference, log entry 15; the
empty body of a refusal is the model's choice, log entry 42.) -/
def Obligations.SignatureUnitAnswersItsCommand : Prop :=
  ∀ (s : State) (c : Command) (body : Bytes), s.powered = true →
    s.window.command = some { command := c, body := body, taken := true } → c ≠ .events →
    let idle : State := { s with signature := none }
    let drawn (k : Nat) : State := { idle with fresh := s.fresh + k }
    let used (t : State) (n : Nat) (k : KeyRecord) (result : Bytes) : State :=
      if s.keys.disabled.getLsbD n then t.posted 0x22 []
      else if s.response.causes ≠ 0 ∧ (k.cls = .owner ∨ k.containedOk = false) then t.posted 0x15 []
      else if k.needsGrant = true ∧ s.creds.grant = none then t.posted 0x18 []
      else t.posted 0 (BitVec.ofNat 8 n :: result)
    (∀ n k d, s.signature = some (.sign n k d) →
      exec .signatureUnitComplete s = .next (used (drawn signDraws) n k (pairBytes (ecdsaSign k.secret d s.fresh)))) ∧
    (∀ n k message, s.signature = some (.derive n k message) →
      exec .signatureUnitComplete s = .next (used idle n k (digestBytes (hmacKey k.secret message)))) ∧
    (∀ report, s.signature = some (.attest report) → exec .signatureUnitComplete s = .next ((drawn signDraws).posted 0
      (report ++ pairBytes (ecdsaSign s.keys.identity.scalar (sha256 report) s.fresh)))) ∧
    (∀ n cls sign mask needsGrant containedOk bind,
      s.signature = some (.createKey n cls sign mask needsGrant containedOk bind) → s.journal.freeFor .engine →
      ∃ k : KeyRecord, k.cls = cls ∧ k.stageMask = mask ∧ k.needsGrant = needsGrant ∧ k.containedOk = containedOk ∧
        k.epoch = (if cls = .owner then s.journal.epoch else 0) ∧
        (sign = true → k.usage = .sign (publicKey k.secret)) ∧ (sign = false → k.usage = .derive bind) ∧
        exec .signatureUnitComplete s = .next ((drawn 1).queued {
          purpose := .keyCreate n k
          live := true
          entries := [{ kind := .key, id := n, epoch := k.epoch, secret := true, payload := k.payload }]
          floorRaise := none
          authorityHash := none
          record := none })) ∧
    (∀ n v value, s.signature = some (.salt n v value) → s.journal.freeFor .engine → ∃ salt : BitVec 128,
      let made : Credential :=
        .verifier { v with salt := salt, verifier := sha256 (beBytes 16 salt.toNat ++ value) }
      exec .signatureUnitComplete s = .next ((drawn 1).queued {
        purpose := .credStore n made s.journal.epoch
        live := true
        entries := [{ kind := .cred, id := n, epoch := s.journal.epoch, secret := false, payload := made.payload }]
        floorRaise := none
        authorityHash := none
        record := none }))

/-! ### The Reset Controller -/

/-- R56, R58, R60: RST_REQ asserted leads from CHECK (abandoned), RUN (with the SoC reset) and PULSE to REQUEST and
records REQUEST; in START, REQUEST and HALT only the level is noted. Deasserted, it leads from REQUEST into CHECK and
elsewhere is only noted. (The model's choices: an abandoned check's requests stay, unheeded, log entry 17; the bus
record, log entry 33; what becomes of a suspend still polled, log entry 41; the order of the restored counts, log entry
46. When the factory open mapping leaves is read from R35 by inference, log entry 24; that a withdrawn read chunk in
progress keeps its grant and loses its bytes is read from R17 by inference, log entry 44.) -/
def Obligations.ResetRequestLineIsALevel : Prop :=
  ∀ s : State, s.powered = true →
    let low : State := { s with lines := { s.lines with rstReq := true } }
    let high : State := { s with lines := { s.lines with rstReq := false } }
    let bumped : Word16 := if s.rst.counts[1] = 65535 then 65535 else s.rst.counts[1] + 1
    let requested (r : ResetController) : ResetController :=
      { r with state := .request, lastCause := .request, counts := s.rst.counts.set 1 bumped, pulse := none, pulseWait := false }
    (s.lines.rstReq = false →
      ((s.rst.state = .start ∨ s.rst.state = .request ∨ s.rst.state = .halt) → exec .rstReqAsserted s = .next low) ∧
      (s.rst.state = .pulse → exec .rstReqAsserted s = .next { low with rst := requested s.rst }) ∧
      (s.rst.state = .check → exec .rstReqAsserted s = .next { low with
        rst := requested { s.rst with check := .idle }
        measure := { s.measure with current := none }
        arbiter := { s.arbiter with
          measure := none
          grant := (match s.arbiter.grant with
            | .internal .measure (.read a n) => .internalWithdrawn .measure a n
            | g => g) }
        journal := s.journal.unheeded }) ∧
      (s.rst.state = .run → ∃ t, exec .rstReqAsserted s = .next t ∧
        t.rst = requested s.rst ∧ t.lines = low.lines ∧ SocResetDone s t)) ∧
    (s.lines.rstReq = true →
      (s.rst.state = .request → ∃ t, exec .rstReqDeasserted s = .next t ∧ CheckEntered high t) ∧
      (s.rst.state ≠ .request → exec .rstReqDeasserted s = .next high))

/-- R61, R62: a pulse whose time has passed leads into CHECK, but an owner-reset pulse whose epoch request is not yet
answered waits for that. A pulse whose time has not passed goes on. (That the pulse waits for every owner-epoch request,
a second one too, is the model's choice, log entry 43, and so are the clock, log entry 2, and the order of the restored
counts, log entry 46. When the factory open mapping leaves is read from R35 by inference, log entry 24.) -/
def Obligations.PulseEndEntersCheck : Prop :=
  ∀ (s : State) (tm : Timer), s.powered = true → s.rst.state = .pulse → s.rst.pulse = some tm →
    let past : State := { s with rst := { s.rst with pulse := none } }
    let waits : Prop := s.rst.pulseWait = true ∧ s.journal.anyRequest (fun p => p == .ownerEpoch) = true
    (tm.start + tm.span ≤ s.time.clock → ¬waits → ∃ t, exec .pulseEnd s = .next t ∧ CheckEntered past t) ∧
    (tm.start + tm.span ≤ s.time.clock → waits → exec .pulseEnd s = .next past) ∧
    (s.time.clock < tm.start + tm.span → exec .pulseEnd s = .next s)

/-- R62, R139: OWNER_CLR asserted starts the 10 s hold timer, except in START; deasserted, it discards it. At expiry
OWNER_RESET is recorded; in FIELD the grant is cleared and an owner-epoch request made; RUN goes to PULSE with the SoC
reset; CHECK, abandoned, goes to PULSE with its 20 ms begun and no second SoC reset: beyond the check, its requests and
in FIELD the grant every block keeps what it has; PULSE, REQUEST and HALT stay. (The model's choices: an abandoned
check's requests stay, unheeded, log entry 17; the bus record, log entry 33; what becomes of a suspend still polled, log
entry 41; the clock, log entry 2; that a withdrawn read chunk in progress keeps its grant and loses its bytes is read
from R17 by inference, log entry 44; that in PULSE the 20 ms of the running pulse and what it waits for stay as they
are, read from R62 by inference, log entry 26.) -/
def Obligations.OwnerButtonMakesTheOwnerReset : Prop :=
  ∀ s : State, s.powered = true →
    let bumped : Word16 := if s.rst.counts[4] = 65535 then 65535 else s.rst.counts[4] + 1
    let field : Bool := s.anchor.lifeCycle == .field
    let asked : State := if field then s.place .ownerEpoch false else s
    let recorded : ResetController := { s.rst with
      lastCause := .ownerReset, counts := s.rst.counts.set 4 bumped, hold := none }
    let pulsed (r : ResetController) : ResetController := { r with
      state := .pulse, pulse := some { start := s.time.clock, span := 20 }, pulseWait := field }
    let granted : Creds := { s.creds with grant := if field then none else s.creds.grant }
    (s.lines.ownerClr = false → s.rst.state ≠ .start → exec .ownerClrAsserted s = .next { s with
      lines := { s.lines with ownerClr := true }
      rst := { s.rst with hold := some { start := s.time.clock, span := 10000 } } }) ∧
    (s.lines.ownerClr = false → s.rst.state = .start → exec .ownerClrAsserted s = .next { s with
      lines := { s.lines with ownerClr := true } }) ∧
    (s.lines.ownerClr = true → exec .ownerClrDeasserted s = .next { s with
      lines := { s.lines with ownerClr := false }, rst := { s.rst with hold := none } }) ∧
    (∀ tm, s.rst.hold = some tm → tm.start + tm.span ≤ s.time.clock →
      ∃ t, exec .ownerReset s = .next t ∧
        (field = true → t.journal.anyRequest (fun p => p == .ownerEpoch) = true) ∧
        (s.rst.state = .run → t.rst = pulsed recorded ∧ t.creds.grant = none ∧ SocResetDone asked t) ∧
        (s.rst.state = .check → t = { s with
          rst := { pulsed recorded with check := .idle }
          measure := { s.measure with current := none }
          creds := granted
          arbiter := { s.arbiter with
            measure := none
            grant := (match s.arbiter.grant with
              | .internal .measure (.read a n) => .internalWithdrawn .measure a n
              | g => g) }
          journal := asked.journal.unheeded }) ∧
        ((s.rst.state = .pulse ∨ s.rst.state = .request ∨ s.rst.state = .halt) →
          t = { s with rst := recorded, creds := granted, journal := asked.journal }))

/-- R55, R61, R64: RESET SOC taken in RUN with an empty body, and the trial timer's expiry in RUN, record their cause
and begin a 20 ms pulse with the SoC reset; RESET SOC gets no response. RESET SOC with any other body answers MALFORMED.
(The model's choices: an abandoned check's requests stay, unheeded, log entry 17; the bus record, log entry 33; what
becomes of a suspend still polled, log entry 41; the clock, log entry 2; that a withdrawn read chunk in progress keeps
its grant and loses its bytes is read from R17 by inference, log entry 44.) (That a refusal's body is empty is the
model's choice, log entry 42.) -/
def Obligations.DevicePulseResetsTheSoc : Prop :=
  ∀ (s : State) (body : Bytes), s.powered = true → s.rst.state = .run →
    let pulsed (k : Fin 6) (c : ResetCause) (t : State) : Prop :=
      t.rst = { s.rst with
        state := .pulse, lastCause := c, pulse := some { start := s.time.clock, span := 20 }, pulseWait := false
        counts := s.rst.counts.set k (if s.rst.counts[k] = 65535 then 65535 else s.rst.counts[k] + 1) } ∧
      SocResetDone s t
    (s.hands .resetSoc body → body = [] → ∃ t, exec .resetSoc s = .next t ∧ pulsed 2 .command t) ∧
    (s.hands .resetSoc body → body ≠ [] → exec .resetSoc s = .next (s.posted 0x10 [])) ∧
    (∀ tm, s.update.timer = some tm → tm.start + tm.span ≤ s.time.clock →
      ∃ t, exec .trialTimerExpiry s = .next t ∧ pulsed 3 .trialExpiry t)

/-- R56, R65: CAUSE CLEAR with an empty body reports the cause record; with the current boot counter it sets the six
counts, and the halt count of anchor memory, to 0 and reports; with another value it answers STALE_CLEAR, and with a
body of another length MALFORMED, with nothing changed. (That a refusal's body is empty is the model's choice, log entry
42.) (That the halt count is in anchor memory with the same step is the model's choice, log entry 19.) -/
def Obligations.CauseClearReportsAndClears : Prop :=
  ∀ (s : State) (body : Bytes), s.hands .causeClear body →
    let report (counts : List Word16) : Bytes :=
      beBytes 4 s.rst.bootCounter.toNat ++ [s.rst.lastCause.code] ++ counts.flatMap (fun c => beBytes 2 c.toNat)
    (body = [] → exec .causeClear s = .next (s.posted 0 (report s.rst.counts.toList))) ∧
    (body.length = 4 → BitVec.ofNat 32 (beNat body) = s.rst.bootCounter → exec .causeClear s = .next
      (State.posted { s with rst := { s.rst with counts := Vector.replicate 6 0 }
                             anchor := { s.anchor with haltCount := 0 } } 0 (report [0, 0, 0, 0, 0, 0]))) ∧
    (body.length = 4 → BitVec.ofNat 32 (beNat body) ≠ s.rst.bootCounter →
      exec .causeClear s = .next (s.posted 0x20 [])) ∧
    (body ≠ [] → body.length ≠ 4 → exec .causeClear s = .next (s.posted 0x10 []))

/-! ### General commands -/

/-- R51 ~ R53: STATUS answers OK with the part's state in the order of 3.9 and changes nothing else. EVENTS takes the
pending kinds out of the set, sets the mask to the low eight bits of a 2-byte body, and answers both without raising
DONE; a body of another length gives MALFORMED. (That a grant whose time has passed and whose expiry has not been taken
reports 1 second is the model's choice, log entry 2.) (That a refusal's body is empty is the model's choice, log entry
42.) -/
def Obligations.StatusAndEventsReport : Prop :=
  (∀ (s : State) (body : Bytes), s.hands .status body →
      exec .status s = .next (s.posted 0
        ([s.anchor.lifeCycle.code, BitVec.ofNat 8 s.measure.stage.toNat,
          (if s.response.causes = 0 then 0 else 1), s.response.causes, (if s.claimed then 1 else 0)] ++
         beBytes 2 (match s.creds.grant with
           | none => 0
           | some tm => max 1 ((tm.start + tm.span - s.time.clock + 999) / 1000)) ++
         [s.update.session.code,
          (if s.update.running then 2 else if s.update.record.trialPending then 1 else 0),
          (if s.anchor.lifeCycle = .field then s.update.presented.code else Bank.a.code)] ++
         beBytes 4 s.rst.bootCounter.toNat ++ beBytes 4 s.time.uptime.toNat ++
         [0, s.window.pendingEvents, 0, s.window.mask]))) ∧
  (∀ (s : State) (body : Bytes), s.hands .events body →
      (∀ mask : Byte, (body = [] ∧ mask = s.window.mask) ∨ (∃ high, body = [high, mask]) →
        exec .events s = .next { s with window := { s.window with
          engine := .done, result := 0, command := none, pendingEvents := 0, mask := mask
          body := [0, s.window.pendingEvents, 0, mask] } }) ∧
      (body.length ≠ 0 → body.length ≠ 2 → exec .events s = .next { s with window := { s.window with
          engine := .done, result := 0x10, command := none, body := [] } }))

/-! ### The Measurement Unit -/

/-- R69, R79, R80: STAGE ADVANCE with no region to measure completes at once in its target stage, with its history
entry; with regions to measure every one of them is frozen, the first is begun and the stage stays; a target not above
the stage, or above 7, gives STAGE_ORDER. Its regions are exactly those of the layout in force whose measure-at stage
lies above the current stage and not above the target, each once and in increasing index; in FACTORY there are none.
(That in FIELD the regions are listed under the open mapping too is the model's choice, log entry 45.) (That a refusal's
body is empty is the model's choice, log entry 42.) -/
def Obligations.StageAdvanceFreezesThenMeasures : Prop :=
  (∀ (s : State) (target : Byte),
      (∀ body : Bytes, body.length ≠ 1 → s.hands .stageAdvance body → exec .stageAdvance s = .next (s.posted 0x10 [])) ∧
      (s.hands .stageAdvance [target] →
      let c := s.measure.stage.toNat
      let k := target.toNat
      let todo := s.advanceList c k
      ((k ≤ c ∨ 7 < k) → exec .stageAdvance s = .next (s.posted 0x14 [])) ∧
      (c < k → k ≤ 7 → todo = [] → exec .stageAdvance s = .next (State.posted { s with measure := { s.measure with
          stage := BitVec.ofNat 3 k
          history := s.measure.history ++ [{ stage := k, uptime := s.time.uptime, logLength := s.measure.log.length }]
          advance := none } } 0 [target, 0, 0, 0])) ∧
      (∀ i rest r l, c < k → k ≤ 7 → todo = i :: rest → s.checker.layout = some l → l.region? i = some r →
        r.index = i → (s.measuredRange r).2 ≠ 0 → ∃ t, exec .stageAdvance s = .next t ∧
          t.window = (s.waiting .stageAdvance [target]).window ∧ t.measure.stage = s.measure.stage ∧
          t.measure.slots = s.measure.slots ∧ t.measure.log = s.measure.log ∧ t.measure.history = s.measure.history ∧
          t.measure.advance = some { target := k, todo := rest, done := [], mismatched := 0 } ∧
          (∃ m, t.measure.current = some m ∧ m.region = i ∧ m.fed = [] ∧ (m.base, m.length) = s.measuredRange r ∧
            t.arbiter.measure = some (.read m.base (min 256 m.length))) ∧
          (∀ j ∈ todo, j < 16 → t.checker.freezeSet.getLsbD j = true) ∧
          (∀ j, s.checker.freezeSet.getLsbD j = true → t.checker.freezeSet.getLsbD j = true) ∧
          t.checker = { s.checker with freezeSet := t.checker.freezeSet } ∧ t.flash = s.flash))) ∧
  (∀ (s : State) (c k : Nat),
      (s.anchor.lifeCycle = .factory → s.advanceList c k = []) ∧
      (∀ l, s.anchor.lifeCycle = .field → s.checker.layout = some l →
        (s.advanceList c k).Pairwise (· < ·) ∧
        ∀ i, i ∈ s.advanceList c k ↔
          i < 16 ∧ ∃ r n, l.region? i = some r ∧ r.measureAt = .stage n ∧ c < n ∧ n ≤ k))

/-- R67, R68, R82: MEASURE EXTEND folds its digest into the slot with source kind SOC, index 00h and the current stage,
and appends the log entry, or sets the truncated flag when the log is full and answers index FFh; with the stage outside
the slot's extend mask it answers STAGE, and with another form MALFORMED. (That a refusal's body is empty is the model's
choice, log entry 42.) -/
def Obligations.MeasureExtendFoldsTheDigest : Prop :=
  (∀ s : State, s.hands .measureExtend [] → exec .measureExtend s = .next (s.posted 0x10 [])) ∧
  ∀ (s : State) (slot : Byte) (bytes : Bytes), s.hands .measureExtend (slot :: bytes) →
    let n := slot.toNat
    let stage := s.measure.stage.toNat
    let d : Digest := BitVec.ofNat 256 (beNat bytes)
    let mask : Byte := if s.anchor.lifeCycle = .field then
        (match s.checker.layout with
          | some l => l.extendMasks.getD n 0
          | none => 0)
      else 0xFF
    let new : Digest := sha256 (digestBytes ((s.measure.slots[n]?).getD 0) ++ [1, 0, BitVec.ofNat 8 stage, 0] ++ digestBytes d)
    let full : Bool := decide (64 ≤ s.measure.log.length)
    ((bytes.length ≠ 32 ∨ 7 < n) → exec .measureExtend s = .next (s.posted 0x10 [])) ∧
    (bytes.length = 32 → n ≤ 7 → mask.getLsbD stage = false → exec .measureExtend s = .next (s.posted 0x13 [])) ∧
    (bytes.length = 32 → n ≤ 7 → mask.getLsbD stage = true → exec .measureExtend s = .next
      (State.posted { s with measure := { s.measure with
        slots := s.measure.slots.setIfInBounds n new
        log := if full then s.measure.log else
          s.measure.log ++ [{ slot := n, kind := .soc, index := 0, stage := stage, digest := d }]
        truncated := s.measure.truncated || full } } 0
        ([slot] ++ digestBytes new ++ [if full then 0xFF else BitVec.ofNat 8 s.measure.log.length])))

/-- R83, R84: MEASURE READ reports stage, log count, truncated flag, stage history and the eight slots; LOG READ returns
at most 55 entries from its starting index on, each with its index; neither changes anything. A body for MEASURE READ,
and for LOG READ a body of another length or an index above 63, gives MALFORMED. (That a refusal's body is empty is the
model's choice, log entry 42.) -/
def Obligations.MeasureAndLogReadsReport : Prop :=
  (∀ (s : State) (body : Bytes), s.hands .measureRead body →
      (body ≠ [] → exec .measureRead s = .next (s.posted 0x10 [])) ∧
      (body = [] → exec .measureRead s = .next (s.posted 0
        ([BitVec.ofNat 8 s.measure.stage.toNat, BitVec.ofNat 8 s.measure.log.length,
          (if s.measure.truncated then 1 else 0), BitVec.ofNat 8 s.measure.history.length] ++
         s.measure.history.flatMap (fun h =>
           [BitVec.ofNat 8 h.stage] ++ beBytes 4 h.uptime.toNat ++ [BitVec.ofNat 8 h.logLength]) ++
         s.measure.slots.toList.flatMap digestBytes)))) ∧
  (∀ (s : State) (body : Bytes), s.hands .logRead body →
      (∀ i : Byte, body = [i] → i.toNat ≤ 63 →
        let k := min 55 (s.measure.log.length - i.toNat)
        exec .logRead s = .next (s.posted 0
          ([BitVec.ofNat 8 s.measure.log.length, (if s.measure.truncated then 1 else 0), i, BitVec.ofNat 8 k] ++
           (List.range k).flatMap (fun j => match s.measure.log[i.toNat + j]? with
             | some x => [BitVec.ofNat 8 (i.toNat + j), BitVec.ofNat 8 x.slot, x.kind.code, BitVec.ofNat 8 x.index,
                 BitVec.ofNat 8 x.stage] ++ digestBytes x.digest
             | none => [])))) ∧
      ((∀ i : Byte, body = [i] → 63 < i.toNat) → exec .logRead s = .next (s.posted 0x10 [])))

/-- R159 ~ R162: ATTEST takes the snapshot of the report when it is taken, laid out as section 3.9 gives, and hands it
to the Signature Unit; a body not of 34 bytes, or with any of bits 12 ~ 15 of the mask set, gives MALFORMED. (That a
refusal's body is empty is the model's choice, log entry 42.) -/
def Obligations.AttestTakesItsSnapshot : Prop :=
  ∀ (s : State) (nonce : Bytes) (m1 m0 : Byte), nonce.length = 32 → s.hands .attest (nonce ++ [m1, m0]) →
    let mask := m1.toNat * 256 + m0.toNat
    let r := s.update.record
    let part (bit : Nat) (bytes : Bytes) : Bytes := if mask.testBit bit then bytes else []
    let fields : Bytes :=
      (List.range 8).flatMap (fun n => part n (digestBytes ((s.measure.slots[n]?).getD 0))) ++
      part 8 [BitVec.ofNat 8 s.measure.log.length, (if s.measure.truncated then 1 else 0)] ++
      part 9 (BitVec.ofNat 8 s.measure.history.length :: s.measure.history.flatMap (fun h =>
        [BitVec.ofNat 8 h.stage] ++ beBytes 4 h.uptime.toNat ++ [BitVec.ofNat 8 h.logLength])) ++
      part 10 (s.rst.lastCause.code :: s.rst.counts.toList.flatMap (fun c => beBytes 2 c.toNat)) ++
      part 11 (beBytes 4 s.checker.sequence.toNat)
    (16 ≤ m1.toNat → exec .attest s = .next (s.posted 0x10 [])) ∧
    (m1.toNat < 16 → exec .attest s = .next { s.waiting .attest (nonce ++ [m1, m0]) with
      signature := some (.attest
        ([1] ++ beBytes 2 (100 + fields.length + 64) ++ digestBytes (sha256 (pairBytes s.keys.identity.publicKey)) ++
         nonce ++ [m1, m0] ++ [BitVec.ofNat 8 s.measure.stage.toNat] ++ beBytes 4 s.rst.bootCounter.toNat ++
         beBytes 4 s.time.uptime.toNat ++ [s.anchor.lifeCycle.code, (if s.response.causes = 0 then 0 else 1),
          s.response.causes, r.active.code] ++ beBytes 4 r.bankA.version.toNat ++ beBytes 4 r.bankB.version.toNat ++
         [r.bankA.state.code, r.bankB.state.code] ++ beBytes 4 s.anchor.floor.toNat ++
         [(if s.update.running then 2 else if r.trialPending then 1 else 0), BitVec.ofNat 8 r.attempts, r.outcome.code,
          (if s.claimed then 1 else 0)] ++ fields)) }) ∧
    (∀ (s' : State) (body : Bytes), s'.hands .attest body → body.length ≠ 34 →
      exec .attest s' = .next (s'.posted 0x10 []))

/-! ### The Key Store -/

/-- R107, R112: KEY CREATE and KEY DESTROY are tested in the order of their rules, and the first test that fails gives
the result with nothing changed. Past the last, KEY CREATE waits for the Signature Unit and KEY DESTROY for its removal
entry. (That a slot byte above 15 in KEY DESTROY is MALFORMED is read from R109's form, log entry 11.) (That a refusal's
body is empty is the model's choice, log entry 42.) (That a removal entry has its secret flag clear is the model's
choice, log entry 52.) (That an abandoned command's request in the queue does not count is the model's choice, log entry
58.) -/
def Obligations.KeyCreateAndDestroyAreTestedInOrder : Prop :=
  ∀ s : State,
    (∀ body : Bytes, body.length ≠ 6 → s.hands .keyCreate body → exec .keyCreate s = .next (s.posted 0x10 [])) ∧
    (∀ slot cls usage mask flags bind : Byte, s.hands .keyCreate [slot, cls, usage, mask, flags, bind] →
      let n := slot.toNat
      exec .keyCreate s = .next (
        if 15 < n ∨ 1 < cls.toNat ∨ 1 < usage.toNat ∨ 3 < flags.toNat ∨ ¬(bind = 0xFF ∨ bind.toNat ≤ 7 ∧ usage = 1) then
          s.posted 0x10 []
        else if n < 2 then s.posted 0x17 []
        else if s.keys.disabled.getLsbD n = true ∨ (s.keys.held n).isSome = true then s.posted 0x22 []
        else if mask.getLsbD s.measure.stage.toNat = false then s.posted 0x13 []
        else if s.response.causes ≠ 0 then s.posted 0x15 []
        else if cls = 1 ∧ s.creds.grant = none then s.posted 0x18 []
        else { s.waiting .keyCreate [slot, cls, usage, mask, flags, bind] with
          signature := some (.createKey n (if cls = 0 then .platform else .owner) (usage == 0) mask
            (flags.getLsbD 0) (flags.getLsbD 1) (if bind = 0xFF then none else some bind.toNat)) })) ∧
    (∀ body : Bytes, body.length ≠ 1 → s.hands .keyDestroy body → exec .keyDestroy s = .next (s.posted 0x10 [])) ∧
    (∀ slot : Byte, s.hands .keyDestroy [slot] → s.journal.freeFor .engine →
      let n := slot.toNat
      exec .keyDestroy s = .next (
        if 15 < n then s.posted 0x10 []
        else if n < 2 then s.posted 0x17 []
        else match s.keys.held n with
          | none => s.posted 0x16 []
          | some k =>
            if s.keys.disabled.getLsbD n = true then s.posted 0x22 []
            else if k.stageMask.getLsbD s.measure.stage.toNat = false then s.posted 0x13 []
            else if s.response.causes ≠ 0 ∧ (k.cls = .owner ∨ k.containedOk = false) then s.posted 0x15 []
            else if (k.cls = .owner ∨ k.needsGrant = true) ∧ s.creds.grant = none then s.posted 0x18 []
            else (s.waiting .keyDestroy [slot]).queued {
              purpose := .keyDestroy n
              live := true
              entries := [{ kind := .key, id := n, epoch := 0, secret := false, payload := [] }]
              floorRaise := none
              authorityHash := none
              record := none }))

/-- R105, R110, R111: KEY SIGN and KEY DERIVE are tested in the order of R105, the first test that fails gives the
result, and nothing changes; past the last the Signature Unit is given the digest as it came, or the label followed by
the value of the bound measurement slot. (That a slot byte above 15 is MALFORMED is log entry 11.) (That a refusal's
body is empty is the model's choice, log entry 42.) -/
def Obligations.KeyUseIsTestedInOrder : Prop :=
  ∀ (s : State) (i : Instr) (c : Command) (sign : Bool),
    (i, c, sign) ∈ [(Instr.keySign, Command.keySign, true), (Instr.keyDerive, Command.keyDerive, false)] →
    (s.hands c [] → exec i s = .next (s.posted 0x10 [])) ∧
    ∀ (slot : Byte) (tail : Bytes), s.hands c (slot :: tail) →
      let n := slot.toNat
      let fits (u : KeyUsage) : Bool := match u with
        | .sign _ => sign
        | .derive _ => !sign
      let message (u : KeyUsage) : Bytes := match u with
        | .derive (some b) => tail ++ digestBytes ((s.measure.slots[b]?).getD 0)
        | _ => tail
      exec i s = .next (
        if 15 < n ∨ (sign = true ∧ tail.length ≠ 32) ∨ (sign = false ∧ (tail.length < 1 ∨ 256 < tail.length)) then
          s.posted 0x10 []
        else if n < 2 then s.posted 0x17 []
        else match s.keys.held n with
          | none => if s.keys.disabled.getLsbD n then s.posted 0x22 [] else s.posted 0x16 []
          | some k =>
            if s.keys.disabled.getLsbD n then s.posted 0x22 []
            else if fits k.usage = false then s.posted 0x17 []
            else if k.stageMask.getLsbD s.measure.stage.toNat = false then s.posted 0x13 []
            else if s.response.causes ≠ 0 ∧ (k.cls = .owner ∨ k.containedOk = false) then s.posted 0x15 []
            else if k.needsGrant = true ∧ s.creds.grant = none then s.posted 0x18 []
            else { s.waiting c (slot :: tail) with
              signature := some (if sign then .sign n k (BitVec.ofNat 256 (beNat tail)) else .derive n k (message k.usage)) })

/-- R109, R113: KEY PUBLIC returns the public key of a slot whatever the stage, the latch and the grant, and KEY LIST
reports the sixteen slots and the owner epoch; neither changes anything. (That a refusal's body is empty is the model's
choice, log entry 42.) -/
def Obligations.KeyPublicAndListReportTheSlots : Prop :=
  ∀ (s : State) (body : Bytes),
    (s.hands .keyPublic body → (∀ slot : Byte, body = [slot] → 15 < slot.toNat) →
      exec .keyPublic s = .next (s.posted 0x10 [])) ∧
    (∀ slot : Byte, s.hands .keyPublic [slot] → slot.toNat ≤ 15 → exec .keyPublic s = .next (
      if slot = 0 then s.posted 0 (slot :: pairBytes s.keys.identity.publicKey)
      else if slot = 1 then
        (match s.keys.authority with
          | none => s.posted 0x16 []
          | some key => s.posted 0 (slot :: pairBytes key))
      else match s.keys.held slot.toNat with
        | none => s.posted 0x16 []
        | some k => (match k.usage with
          | .sign key => s.posted 0 (slot :: pairBytes key)
          | .derive _ => s.posted 0x17 []))) ∧
    (s.hands .keyList body →
      let general (n : Nat) : Bytes :=
        let disabled := s.keys.disabled.getLsbD n
        match s.keys.held n with
        | none => [BitVec.ofNat 8 n, if disabled then 2 else 0, 0xFF, 0xFF, 0, 0, 0xFF]
        | some k => [BitVec.ofNat 8 n, if disabled then 2 else 1, if k.cls = .platform then 0 else 1,
            match k.usage with
              | .sign _ => 0
              | .derive _ => 1,
            k.stageMask, (if k.needsGrant then 1 else 0) + (if k.containedOk then 2 else 0) + 4,
            match k.usage with
              | .derive (some b) => BitVec.ofNat 8 b
              | _ => 0xFF]
      exec .keyList s = .next (s.posted 0
        ([0, 1, 0xFF, 0, 0, 4, 0xFF] ++
         (if s.keys.authority.isSome then [1, 1, 0xFF, 2, 0, 4, 0xFF] else [1, 0, 0xFF, 0xFF, 0, 0, 0xFF]) ++
         (List.range 14).flatMap (fun j => general (j + 2)) ++ beBytes 4 s.journal.epoch.toNat)))

/-! ### The Credential Store -/

/-- R118, R122, R123, R133: the part is CLAIMED while an owner-gate VERIFIER of the current epoch exists. CRED STORE and
CRED ERASE are tested in order (form, record, and the grant while CLAIMED). A SECRET's entry, and a removal, is placed
with its epoch; a VERIFIER, its throttle fields clamped, waits for its salt. (That a refusal's body is empty is the
model's choice, log entry 42.) (That a removal entry has its secret flag clear is the model's choice, log entry 52.)
(That an abandoned command's request in the queue does not count is the model's choice, log entry 58.) -/
def Obligations.CredStoreAndEraseAskTheStore : Prop :=
  (∀ s : State, s.claimed = true ↔
    ∃ id r v, s.creds.get id = some r ∧ r.content = .verifier v ∧ v.ownerGate = true ∧ r.epoch = s.journal.epoch) ∧
  ∀ s : State, s.journal.freeFor .engine →
    let gateShut : Prop := s.claimed = true ∧ s.creds.grant = none
    (∀ body : Bytes, body.length < 22 → s.hands .credStore body → exec .credStore s = .next (s.posted 0x10 [])) ∧
    (∀ (id kind flags mask f d len : Byte) (label c q value : Bytes),
      label.length = 8 → c.length = 4 → q.length = 2 →
      let body : Bytes := [id, kind, flags, mask] ++ label ++ [f, d] ++ c ++ q ++ [len] ++ value
      let n := id.toNat
      let formed : Prop := n ≤ 31 ∧ ((kind = 0 ∧ (flags = 0 ∨ flags = 1)) ∨ (kind = 1 ∧ (flags = 0 ∨ flags = 2))) ∧
        1 ≤ len.toNat ∧ len.toNat ≤ 64 ∧ len.toNat = value.length
      let delay := max 1 d.toNat
      let v : Verifier :=
        { ownerGate := flags == 1, verifyMask := mask, label := label, salt := 0, verifier := 0
          free := min 15 f.toNat, delay := delay, ceiling := max delay (min 86400 (beNat c)), decay := min 1440 (beNat q) }
      let secret : Secret := { needsGrant := flags == 2, releaseMask := mask, label := label, value := value }
      s.hands .credStore body →
      (¬formed → exec .credStore s = .next (s.posted 0x10 [])) ∧
      (formed → gateShut → exec .credStore s = .next (s.posted 0x18 [])) ∧
      (formed → ¬gateShut → kind = 0 → exec .credStore s = .next
        { s.waiting .credStore body with signature := some (.salt n v value) }) ∧
      (formed → ¬gateShut → kind = 1 → exec .credStore s = .next ((s.waiting .credStore body).queued {
        purpose := .credStore n (.secret secret) s.journal.epoch
        live := true
        entries := [{ kind := .cred, id := n, epoch := s.journal.epoch, secret := true
                      payload := (Credential.secret secret).payload }]
        floorRaise := none
        authorityHash := none
        record := none }))) ∧
    (∀ body : Bytes, s.hands .credErase body → (∀ id : Byte, body = [id] → 31 < id.toNat) →
      exec .credErase s = .next (s.posted 0x10 [])) ∧
    (∀ id : Byte, s.hands .credErase [id] → id.toNat ≤ 31 →
      let n := id.toNat
      (s.creds.get n = none → exec .credErase s = .next (s.posted 0x16 [])) ∧
      (∀ r, s.creds.get n = some r →
        (gateShut → exec .credErase s = .next (s.posted 0x18 [])) ∧
        (¬gateShut → exec .credErase s = .next ((s.waiting .credErase [id]).queued {
          purpose := .credErase n r.epoch
          live := true
          entries := [{ kind := .cred, id := n, epoch := r.epoch, secret := false, payload := [] }]
          floorRaise := none
          authorityHash := none
          record := none }))))

/-- R121, R124: GRANT DROP clears the owner grant and answers OK whether it was held or not; CRED RELEASE is tested in
order (form, record, kind, stage, containment, grant) and hands over the value, changing nothing else. (That a refusal's
body is empty is the model's choice, log entry 42.) -/
def Obligations.ReleaseIsTestedAndGrantDropClears : Prop :=
  ∀ s : State,
    (∀ body, s.hands .grantDrop body →
      exec .grantDrop s = .next (State.posted { s with creds := { s.creds with grant := none } } 0 [])) ∧
    (∀ body : Bytes, s.hands .credRelease body → (∀ id : Byte, body = [id] → 31 < id.toNat) →
      exec .credRelease s = .next (s.posted 0x10 [])) ∧
    (∀ id : Byte, s.hands .credRelease [id] → id.toNat ≤ 31 → exec .credRelease s = .next (
      match s.creds.get id.toNat with
      | none => s.posted 0x16 []
      | some r => match r.content with
        | .verifier _ => s.posted 0x17 []
        | .secret v =>
          if v.releaseMask.getLsbD s.measure.stage.toNat = false then s.posted 0x13 []
          else if s.response.causes ≠ 0 then s.posted 0x15 []
          else if v.needsGrant = true ∧ s.creds.grant = none then s.posted 0x18 []
          else s.posted 0 ([id, BitVec.ofNat 8 v.value.length] ++ v.value)))

/-- R119, R125 ~ R129: CRED VERIFY is tested in order; past the last test the raised count is placed and the decay timer
stopped before anything is compared. With that count durable it is taken and the candidate compared: a wrong one answers
MISMATCH with the delay, which starts; a right one places a count of 0, and with that durable answers MATCH with the
count 0: an owner-gate record sets the owner grant for the grant time of the layout in force where the state is CLAIMED
and the latch clear, whatever the count was. A record that is no longer there as a VERIFIER of the entry's epoch gives
NOT_FOUND. Of an abandoned command the count is taken and its delay begins, or after a match the count is 0, and nothing
is answered. (That a delay which an abandoned command started meanwhile does not keep a candidate from its comparison is
the model's choice, log entry 37.) (That a refusal's body is empty is the model's choice, log entry 42.) (The answer
where the record has gone is read from R126 by inference, log entry 29; where a CRED STORE has replaced it, the model's
choice, log entry 55, and so are the clock, log entry 2, and what an abandoned command's request still does, log entries
17, 58.) -/
def Obligations.CredVerifyCountsBeforeItCompares : Prop :=
  (∀ s : State, s.hands .credVerify [] → exec .credVerify s = .next (s.posted 0x10 [])) ∧
  (∀ (s : State) (id : Byte) (candidate : Bytes), s.hands .credVerify (id :: candidate) → s.journal.freeFor .engine →
    let n := id.toNat
    exec .credVerify s = .next (
      if 31 < n ∨ candidate.length < 1 ∨ 64 < candidate.length then s.posted 0x10 []
      else match s.creds.get n with
        | none => s.posted 0x16 []
        | some r => match r.content with
          | .secret _ => s.posted 0x17 []
          | .verifier v =>
            if v.verifyMask.getLsbD s.measure.stage.toNat = false then s.posted 0x13 []
            else match r.delayTimer with
              | some tm => s.posted 0x19
                  ([id, r.count] ++ beBytes 4 (max 1 ((tm.start + tm.span - s.time.clock + 999) / 1000)))
              | none =>
                let raised : Byte := if r.count = 255 then 255 else r.count + 1
                let stopped : State := { s with creds := { s.creds with
                  records := s.creds.records.setIfInBounds n (some { r with decayTimer := none }) } }
                (stopped.waiting .credVerify (id :: candidate)).queued {
                  purpose := .credCount n raised r.epoch candidate
                  live := true
                  entries := [{ kind := .count, id := n, epoch := r.epoch, secret := false, payload := [raised] }]
                  floorRaise := none
                  authorityHash := none
                  record := none })) ∧
  (∀ (s : State) (n : Nat) (count : Byte) (candidate : Bytes) (r : CredRecord) (v : Verifier),
    s.creds.get n = some r → r.content = .verifier v →
    let t := s.countWritten true n count r.epoch candidate
    (∃ r', t.creds.get n = some r' ∧ r'.content = r.content ∧ r'.count = count) ∧
    (sha256 (beBytes 16 v.salt.toNat ++ candidate) ≠ v.verifier →
      t.window.engine = .done ∧ t.window.result = 2 ∧
      t.window.body = [BitVec.ofNat 8 n, count] ++ beBytes 4 (v.delayAt count.toNat) ∧
      (v.delayAt count.toNat ≠ 0 → ∃ r', t.creds.get n = some r' ∧
        r'.delayTimer = some { start := s.time.clock, span := 1000 * v.delayAt count.toNat })) ∧
    (sha256 (beBytes 16 v.salt.toNat ++ candidate) = v.verifier →
      t.window.command = s.window.command ∧ t.window.engine = s.window.engine ∧
      t.journal.anyRequest (fun p => p == .credMatch n r.epoch) = true)) ∧
  (∀ (s : State) (n : Nat) (r : CredRecord) (v : Verifier), s.creds.get n = some r → r.content = .verifier v →
    let t := s.matchWritten true n r.epoch
    t.window.engine = .done ∧ t.window.result = 1 ∧
    t.creds.get n = some { r with count := 0, delayTimer := none, decayTimer := none } ∧
    (v.ownerGate = true ∧ s.claimed = true ∧ s.response.causes = 0 →
      t.creds.grant = some { start := s.time.clock, span := 1000 * s.grantTime } ∧
      t.window.body = [BitVec.ofNat 8 n, 0] ++ beBytes 2 (max 1 ((1000 * s.grantTime + 999) / 1000))) ∧
    (¬(v.ownerGate = true ∧ s.claimed = true ∧ s.response.causes = 0) →
      t.creds.grant = s.creds.grant ∧ t.window.body = [BitVec.ofNat 8 n, 0, 0, 0])) ∧
  (∀ (s : State) (live : Bool) (n : Nat) (count : Byte) (epoch : Word32) (candidate : Bytes),
    (∀ r v, s.creds.get n = some r → r.content = .verifier v → r.epoch ≠ epoch) →
    s.countWritten live n count epoch candidate = s.answered live 0x16 [] ∧
    s.matchWritten live n epoch = s.answered live 0x16 []) ∧
  (∀ (s : State) (n : Nat) (count : Byte) (candidate : Bytes) (r : CredRecord) (v : Verifier),
    s.creds.get n = some r → r.content = .verifier v →
    let put (r' : CredRecord) : State :=
      { s with creds := { s.creds with records := s.creds.records.setIfInBounds n (some r') } }
    let taken : State := if r.count = count then put { r with count := count }
      else (put { r with count := count }).offer (.failures n) r.count.toNat count.toNat
    s.countWritten true n count r.epoch candidate =
      (if sha256 (beBytes 16 v.salt.toNat ++ candidate) = v.verifier then taken.place (.credMatch n r.epoch) true
       else (taken.startDelay n).answered true 2 ([BitVec.ofNat 8 n, count] ++ beBytes 4 (v.delayAt count.toNat))) ∧
    s.countWritten false n count r.epoch candidate = taken.startDelay n ∧
    s.matchWritten false n r.epoch = put { r with count := 0, delayTimer := none, decayTimer := none })

/-- R120, R130, R132: the delay at a failure count is 0 up to the free attempts and doubles from the base delay up to
the ceiling. A delay that has run out lets the decay timer start; a decay step lowers the volatile count by 1 and starts
the timer again while it is above 0; a grant whose time has passed is cleared. A guess's delay of 0 starts the decay
timer instead, which starts only with a decay time and a count, with no timer running and no CRED VERIFY of the record
under way. Before its time has passed a timer's expiry does nothing (the model's clock, log entry 2). -/
def Obligations.CredentialTimersExpire : Prop :=
  (∀ (v : Verifier) (f : Nat), (f ≤ v.free → v.delayAt f = 0) ∧
    (v.free < f → 1 ≤ v.delay → v.ceiling ≤ 86400 → v.delayAt f = min v.ceiling (v.delay * 2 ^ (f - v.free - 1)))) ∧
  (∀ (s : State) (n : Nat) (r : CredRecord) (v : Verifier) (tm : Timer), s.powered = true →
    s.creds.get n = some r → r.content = .verifier v →
    let free : Prop := s.verifyOutstanding n = false
    let decaying : Timer := { start := s.time.clock, span := 60000 * v.decay }
    let put (r' : CredRecord) : State :=
      { s with creds := { s.creds with records := s.creds.records.setIfInBounds n (some r') } }
    (r.delayTimer = some tm → tm.start + tm.span ≤ s.time.clock → r.decayTimer = none → free →
      exec (.delayExpiry n) s = .next (put { r with
        delayTimer := none
        decayTimer := if v.decay = 0 ∨ r.count = 0 then none else some decaying })) ∧
    (r.delayTimer = some tm → s.time.clock < tm.start + tm.span → exec (.delayExpiry n) s = .next s) ∧
    (r.decayTimer = some tm → tm.start + tm.span ≤ s.time.clock → r.delayTimer = none → free → r.count ≠ 0 →
      ∃ t, exec (.decayExpiry n) s = .next t ∧
        t.creds.get n = some { r with
          count := r.count - 1
          decayTimer := if v.decay = 0 ∨ r.count = 1 then none else some decaying } ∧
        (∀ m, m ≠ n → t.creds.get m = s.creds.get m) ∧
        ResponseOnly { s with creds := { s.creds with records := t.creds.records } } t) ∧
    (r.decayTimer = some tm → s.time.clock < tm.start + tm.span → exec (.decayExpiry n) s = .next s)) ∧
  (∀ (s : State) (n : Nat) (r : CredRecord) (v : Verifier), s.creds.get n = some r → r.content = .verifier v →
    let put (r' : CredRecord) : State :=
      { s with creds := { s.creds with records := s.creds.records.setIfInBounds n (some r') } }
    let seconds := v.delayAt r.count.toNat
    s.startDecay n = (if v.decay ≠ 0 ∧ r.count ≠ 0 ∧ r.delayTimer = none ∧ r.decayTimer = none ∧
        s.verifyOutstanding n = false then
      put { r with decayTimer := some { start := s.time.clock, span := 60000 * v.decay } } else s) ∧
    s.startDelay n = (if seconds = 0 then s.startDecay n
      else put { r with delayTimer := some { start := s.time.clock, span := 1000 * seconds } })) ∧
  (∀ (s : State) (n : Nat), s.verifyOutstanding n = true ↔
    ∃ p ∈ s.journal.held.map HeldRequest.purpose ++
        s.journal.queue.map StoreRequest.purpose ++ (s.journal.job.map (fun j => j.request.purpose)).toList,
      (∃ count epoch candidate, p = .credCount n count epoch candidate) ∨ ∃ epoch, p = .credMatch n epoch) ∧
  (∀ (s : State) (tm : Timer), s.powered = true → s.creds.grant = some tm →
    (tm.start + tm.span ≤ s.time.clock →
      exec .grantExpiry s = .next { s with creds := { s.creds with grant := none } }) ∧
    (s.time.clock < tm.start + tm.span → exec .grantExpiry s = .next s))

/-! ### The Update Controller -/

/-- R144, R145: UPDATE OPEN is tested in order: form, stage, session, trial as it is taken; signature, targets, version
and layout block when the Signature Unit completes. Past the last, the entry that empties the inactive bank is placed;
answered OK while the command waits, the session is STAGING. (That the later tests read the state at the completion is
read from R144 by inference, log entry 21.) (That a refusal's body is empty is the model's choice, log entry 42.) (What
argument byte a response source without an argument must have is the model's choice, log entry 49.) (That an abandoned
command's request in the queue does not count is the model's choice, log entry 58.) -/
def Obligations.UpdateOpenIsTestedInOrder : Prop :=
  (∀ (s : State) (body : Bytes), s.hands .updateOpen body →
    let targets := (body.getD 6 0).toNat
    let blockLength := field body (7 + 37 * targets) 2
    let formed : Prop := body.length ≤ 2040 ∧ body.getD 0 0 = 1 ∧ (body.getD 5 0).toNat ≤ 1 ∧ 1 ≤ targets ∧ targets ≤ 4 ∧
      body.length = 9 + 37 * targets + blockLength + 64 ∧
      (blockLength = 0 ∨ blockFormOk (slice body (9 + 37 * targets) blockLength) = true)
    let mask : Byte := match s.checker.layout with
      | some l => l.updateMask
      | none => 0
    (¬formed → exec .updateOpen s = .next (s.posted 0x10 [])) ∧
    (formed → exec .updateOpen s = .next (
      if mask.getLsbD s.measure.stage.toNat = false then s.posted 0x13 []
      else if s.update.session ≠ .idle then s.posted 0x1D []
      else if s.update.record.trialPending then s.posted 0x1E []
      else { s.waiting .updateOpen body with signature := some (.manifest body) }))) ∧
  (∀ (s : State) (body : Bytes) (l : Layout), s.powered = true → s.signature = some (.manifest body) →
    s.window.command = some { command := .updateOpen, body := body, taken := true } → s.checker.layout = some l →
    let idle : State := { s with signature := none }
    let n := body.length - 64
    let signed : Prop := ∃ key, s.keys.authority = some key ∧ ecdsaVerify key (sha256 (body.take n)) (pairAt body n) = true
    let targets := manifestTargetList body
    let exact : Prop := targets.map Target.region = l.banked ∧
      ∀ tg ∈ targets, ∃ r, l.region? tg.region = some r ∧ tg.length ≤ r.length
    let version := BitVec.ofNat 32 (field body 1 4)
    let blockLength := field body (7 + 37 * targets.length) 2
    let block := slice body (9 + 37 * targets.length) blockLength
    let placed (new : Option Layout) : Prop := s.journal.freeFor .updateController →
      let m : Manifest := { version := version, raiseFloor := (body.getD 5 0).getLsbD 0, targets := targets, layout := new }
      exec .signatureUnitComplete s = .next (idle.queued {
        purpose := .updateOpen m
        live := true
        entries := [{ kind := .bank, id := 0, epoch := 0, secret := false, payload := s.emptiedRecord.payload }]
        floorRaise := none
        authorityHash := none
        record := some s.emptiedRecord })
    (¬signed → exec .signatureUnitComplete s = .next (idle.posted 0x1A [])) ∧
    (signed → ¬exact → exec .signatureUnitComplete s = .next (idle.posted 0x10 [])) ∧
    (signed → exact → version.toNat < s.anchor.floor.toNat → exec .signatureUnitComplete s = .next (idle.posted 0x1B [])) ∧
    (signed → exact → s.anchor.floor.toNat ≤ version.toNat →
      (blockLength = 0 → placed none) ∧
      (blockLength ≠ 0 →
        (∀ new, Layout.parse block = some new → new.valid = true → new.capacity = l.capacity → new.sameBanked l = true →
          placed (some new)) ∧
        ((∀ new, Layout.parse block = some new → ¬(new.valid = true ∧ new.capacity = l.capacity ∧ new.sameBanked l = true)) →
          exec .signatureUnitComplete s = .next (idle.posted 0x1C []))))) ∧
  (∀ (s : State) (m : Manifest) (body : Bytes),
    s.window.command = some { command := .updateOpen, body := body, taken := true } → s.opened true m = State.posted { s with update := { s.update with session := .staging m, verification := .none } } 0
      [1, if s.update.presented = .a then 1 else 0])

/-- R147, R148: UPDATE VERIFY in STAGING freezes the STAGE regions, asks for the first chunk and answers STARTED at
once; in another session state it answers SESSION, and with a body MALFORMED. The last chunk of a target is judged: on a
match the next target begins, one of length 0 judged at once; with none left the session is VERIFIED, the STAGE regions
still frozen; on a mismatch the session ends REJECTED with the target's region, the STAGE regions thawed, and later
targets are not read. UPDATE is raised at either end. (That a refusal's body is empty is the model's choice, log entry
42, and so is the operand that says which bytes the chip misreads, log entry 5.) -/
def Obligations.UpdateVerifyHashesTheTargets : Prop :=
  (∀ (s : State) (body : Bytes), s.hands .updateVerify body →
    let started (session : Session) (verification : Verification) : State := State.posted { s with
      update := { s.update with session := session, verification := verification }
      checker := { s.checker with freezeSet := s.checker.freezeSet ||| s.stageRegions } } 3 []
    (body ≠ [] → exec .updateVerify s = .next (s.posted 0x10 [])) ∧
    (body = [] → (∀ m, s.update.session ≠ .staging m) → exec .updateVerify s = .next (s.posted 0x1D [])) ∧
    (∀ m, body = [] → s.update.session = .staging m → ∃ t, exec .updateVerify s = .next t ∧
      VerifiesOn (started (.verifying m { todo := m.targets, fed := [] } 0) s.update.verification) m 0 m.targets t)) ∧
  (∀ (s : State) (misread : FlashCells) (base n hashed : Nat) (m : Manifest) (tg : Target) (rest : List Target)
      (fed : Bytes), s.powered = true → s.arbiter.grant = .internal .update (.read base n) →
    s.update.session = .verifying m { todo := tg :: rest, fed := fed } hashed → tg.length ≤ fed.length + n →
    let matched : Prop := sha256 (fed ++ s.flash.readBytesThrough misread base n) = tg.digest
    let freed : State := { s with arbiter := { s.arbiter with grant := .free, update := none } }
    (matched → ∃ t, exec (.readChunkComplete misread) s = .next t ∧ VerifiesOn freed m (hashed + n) rest t) ∧
    (¬matched → exec (.readChunkComplete misread) s = .next { freed with
      update := { s.update with session := .idle, verification := .rejected tg.region }
      checker := { s.checker with freezeSet := s.checker.freezeSet &&& ~~~s.stageRegions }
      window := { s.window with pendingEvents := s.window.pendingEvents ||| 32 } })) ∧
  ∀ (s : State) (i : Nat), i < 16 → (s.stageRegions.getLsbD i = true ↔
    ∃ l g, s.checker.layout = some l ∧ l.region? i = some g ∧ g.kind = .stage)

/-- R150, R151, R156: UPDATE COMMIT needs VERIFIED, UPDATE ABORT an open session, UPDATE CONFIRM a running trial, the
confirm stage and no containment; each refuses a body as MALFORMED. COMMIT and ABORT end the session, CONFIRM stops the
trial timer, and each places its request with the bank record its rule gives. (That a refusal's body is empty is the
model's choice, log entry 42.) (That a withdrawn read chunk in progress keeps its grant and loses its bytes is read from
R17 by inference, log entry 44.) (That a request is formed when it is placed is read from R142 by inference, log entry
16.) -/
def Obligations.UpdateCommitAbortConfirmPlaceTheirRecord : Prop :=
  ∀ (s : State) (body : Bytes),
    let r := s.update.record
    let inactive := s.update.presented.other
    let ended : State := { s with
      update := { s.update with session := .idle, verification := .none }
      checker := { s.checker with freezeSet := s.checker.freezeSet &&& ~~~s.stageRegions }
      arbiter := { s.arbiter with
        update := none
        grant := (match s.arbiter.grant with
          | .internal .update (.read a n) => .internalWithdrawn .update a n
          | g => g) } }
    let bank (x : BankRecord) : StoreEntry := { kind := .bank, id := 0, epoch := 0, secret := false, payload := x.payload }
    let stored (kind : ObjectKind) (l : Layout) : StoreEntry :=
      { kind := kind, id := 0, epoch := 0, secret := false, payload := l.block }
    let request (p : Purpose) (entries : List StoreEntry) (floor : Option Word32) (x : BankRecord) : StoreRequest :=
      { purpose := p, live := true, entries := entries, floorRaise := floor, authorityHash := none, record := some x }
    (∀ (i : Instr) (c : Command), (i, c) ∈ [(Instr.updateCommit, Command.updateCommit),
        (Instr.updateAbort, Command.updateAbort), (Instr.updateConfirm, Command.updateConfirm)] →
      s.hands c body → body ≠ [] → exec i s = .next (s.posted 0x10 [])) ∧
    (s.hands .updateCommit [] → (∀ m, s.update.session ≠ .verified m) → exec .updateCommit s = .next (s.posted 0x1D [])) ∧
    (∀ m, s.hands .updateCommit [] → s.update.session = .verified m → s.journal.freeFor .engine →
      let staged : BankInfo :=
        { state := .staged, version := m.version, images := m.targets.map (fun x => ⟨x.length, x.digest⟩) }
      let new : BankRecord := { r.setBank inactive staged with
        trialPending := true
        attempts := (match s.checker.layout with
          | some l => l.trialCount
          | none => 0)
        raiseFloor := m.raiseFloor
        trialLayout := m.layout.isSome }
      let hit (x : Option Layout) : Bool := match x with
        | some l => sha256 l.block == r.layoutDigest
        | none => false
      let copied : List StoreEntry :=
        if hit s.update.layout = false ∧ hit s.update.trialLayout = true then (s.update.trialLayout.map (stored .layout)).toList else []
      exec .updateCommit s = .next ((ended.waiting .updateCommit []).queued
        (request (.updateCommit m) (copied ++ (m.layout.map (stored .layoutTrial)).toList ++ [bank new]) none new))) ∧
    (s.hands .updateAbort [] → s.update.session = .idle → exec .updateAbort s = .next (s.posted 0x1D [])) ∧
    (s.hands .updateAbort [] → s.update.session ≠ .idle → s.journal.freeFor .updateController →
      ∃ new : BankRecord,
        (new.bank inactive).state = .empty ∧ (new.bank inactive).version = 0 ∧
        (∀ x ∈ (new.bank inactive).images, x.length = 0 ∧ x.digest = 0) ∧
        new = r.setBank inactive (new.bank inactive) ∧
        exec .updateAbort s = .next ((ended.waiting .updateAbort []).queued (request .updateAbort [bank new] none new))) ∧
    (s.hands .updateConfirm [] → s.update.running = false → exec .updateConfirm s = .next (s.posted 0x1D [])) ∧
    (∀ l, s.hands .updateConfirm [] → s.update.running = true → s.checker.layout = some l →
      (s.measure.stage.toNat < l.confirmStage → exec .updateConfirm s = .next (s.posted 0x13 [])) ∧
      (l.confirmStage ≤ s.measure.stage.toNat → s.response.causes ≠ 0 →
        exec .updateConfirm s = .next (s.posted 0x15 [])) ∧
      (l.confirmStage ≤ s.measure.stage.toNat → s.response.causes = 0 → s.journal.freeFor .engine →
        let trial := r.active.other
        let version := (r.bank trial).version
        let floor := if version.toNat < s.anchor.floor.toNat then s.anchor.floor else version
        ∃ new : BankRecord,
          new.active = trial ∧ (new.bank trial) = { r.bank trial with state := .good } ∧
          (new.bank r.active) = { r.bank r.active with
            state := if r.raiseFloor = true ∧ (r.bank r.active).version.toNat < floor.toNat then .retired
                     else (r.bank r.active).state } ∧
          new.trialPending = false ∧ new.attempts = 0 ∧ new.trialLayout = false ∧ new.raiseFloor = false ∧
          new.outcome = .confirmed ∧ new.floor = (if r.raiseFloor then floor else r.floor) ∧
          new.recoveryDigest = r.recoveryDigest ∧
          (r.trialLayout = false → new.layoutDigest = r.layoutDigest) ∧
          (∀ x, r.trialLayout = true → s.update.trialLayout = some x → new.layoutDigest = sha256 x.block) ∧
          exec .updateConfirm s = .next
            ((State.waiting { s with update := { s.update with timer := none } } .updateConfirm []).queued
              (request .updateConfirm
                ([bank new] ++ (if r.trialLayout then (s.update.trialLayout.map (stored .layout)).toList else []))
                (if r.raiseFloor then some version else none) new))))

/-! ### The commands that report -/

/-- R39, R40, R135, R149: UPDATE STATUS, VIOLATION READ, LAYOUT READ and CRED LIST answer with their state in the order
of 3.9 and change nothing. UPDATE STATUS answers DIGEST while REJECTED stands, LAYOUT READ NOT_FOUND with no layout to
report. (The hashed and total bytes before VERIFY are the model's choice, log entry 12, and so is the 1 second that an
overdue timer reports, log entry 2. That the substitution flag is the latch, under the factory open mapping too, is read
from R33 and R40 by inference, log entry 23.) (That a refusal's body is empty is the model's choice, log entry 42.) -/
def Obligations.ReportsGiveTheStateInOrder : Prop :=
  ∀ (s : State) (body : Bytes),
    let seconds (tm : Option Timer) : Nat := match tm with
      | none => 0
      | some x => max 1 ((x.start + x.span - s.time.clock + 999) / 1000)
    let u := s.update
    let r := u.record
    (s.hands .updateStatus body → exec .updateStatus s = .next (s.posted
      (match u.verification with
        | .rejected _ => 0x1F
        | _ => 0)
      ([u.session.code, u.verification.code,
        match u.verification with
          | .rejected i => BitVec.ofNat 8 i
          | _ => 0xFF] ++
       beBytes 4 (match u.session with
         | .idle => 0
         | .staging m => m.version.toNat
         | .verifying m _ _ => m.version.toNat
         | .verified m => m.version.toNat) ++
       beBytes 4 (match u.session with
         | .verifying _ _ hashed => hashed
         | .verified m => (m.targets.map Target.length).sum
         | _ => 0) ++
       beBytes 4 (match u.session with
         | .verifying m _ _ => (m.targets.map Target.length).sum
         | .verified m => (m.targets.map Target.length).sum
         | _ => 0) ++
       [(if u.running then 2 else if r.trialPending then 1 else 0), BitVec.ofNat 8 r.attempts] ++
       beBytes 2 (seconds u.timer) ++ [r.outcome.code, r.active.code, u.presented.code, r.bankA.state.code] ++
       beBytes 4 r.bankA.version.toNat ++ [r.bankB.state.code] ++ beBytes 4 r.bankB.version.toNat ++
       beBytes 4 s.anchor.floor.toNat))) ∧
    (s.hands .violationRead body → exec .violationRead s = .next (s.posted 0
      (beBytes 4 s.checker.sequence.toNat ++ [BitVec.ofNat 8 s.checker.ring.length] ++
       s.checker.ring.flatMap (fun v => beBytes 4 v.sequence.toNat ++ [v.kind.code, v.cls.code] ++ beBytes 3 v.address ++
         [(match v.region with
           | some i => BitVec.ofNat 8 i
           | none => 0xFF), BitVec.ofNat 8 v.stage.toNat] ++ beBytes 4 v.uptime.toNat) ++
       beBytes 2 s.checker.unmappedCounter.toNat ++ beBytes 2 s.checker.allCounter.toNat ++
       s.checker.regionCounters.toList.flatMap (fun c => beBytes 2 c.toNat)))) ∧
    (s.hands .layoutRead body →
      let open_ := s.checker.openMapping
      exec .layoutRead s = .next (match (if open_ then s.layoutNow else s.checker.layout) with
        | none => s.posted 0x16 []
        | some l => s.posted 0
          ([(if open_ then 2 else if s.checker.source = .trial then 1 else 0),
            (if open_ then 0 else u.presented.code)] ++
           beBytes 2 s.checker.freezeSet.toNat ++ beBytes 2 s.checker.hideSet.toNat ++
           [if s.response.causes = 0 then 0 else 1] ++ beBytes 2 l.block.length ++ l.block))) ∧
    (s.hands .credList body →
      let listed := (List.range 32).filter (fun n => (s.creds.get n).isSome)
      let entry (n : Nat) : Bytes := match s.creds.get n with
        | none => []
        | some x => match x.content with
          | .verifier v => [BitVec.ofNat 8 n, 0, (if v.ownerGate then 1 else 0), v.verifyMask] ++ v.label ++ [x.count] ++
              beBytes 4 (seconds x.delayTimer) ++ [BitVec.ofNat 8 v.free, BitVec.ofNat 8 v.delay] ++
              beBytes 4 v.ceiling ++ beBytes 2 v.decay
          | .secret v => [BitVec.ofNat 8 n, 1, (if v.needsGrant then 2 else 0), v.releaseMask] ++ v.label ++
              List.replicate 13 0
      exec .credList s = .next (s.posted 0
        ([(if s.claimed then 1 else 0)] ++ beBytes 4 s.journal.epoch.toNat ++ beBytes 2 (seconds s.creds.grant) ++
         [BitVec.ofNat 8 listed.length] ++ listed.flatMap entry)))

/-! ### Provisioning -/

/-- R175 ~ R177: PROVISION LAYOUT, AUTHORITY and BANK are tested in the order of their rules, and past the last test
each places one request with the entries and the anchor memory writes its rule gives; PROVISION LAYOUT sets the
provisioning state where it was unset. (That a layout passes with a BANK object live and none stored is the model's
choice, log entry 39.) (That a layout of another capacity passes behind an abandoned one, and that a bank record is made
for the layout stored at its taking, are the model's choices, log entries 47, 48.) (That a refusal's body is empty is
the model's choice, log entry 42.) (What argument byte a response source without an argument must have, and that an
authority key passes behind an abandoned one, are the model's choices, log entries 49, 51.) (That such a request does
not count either for a bank's floor and for the BANKED regions of a layout, log entries 56, 57, and in general, 58.) -/
def Obligations.ProvisionCommandsPlaceTheirRequest : Prop :=
  ∀ (s : State) (body : Bytes), s.journal.freeFor .engine →
    let stored (l : Layout) : StoreEntry := { kind := .layout, id := 0, epoch := 0, secret := false, payload := l.block }
    let bank (x : BankRecord) : StoreEntry := { kind := .bank, id := 0, epoch := 0, secret := false, payload := x.payload }
    (s.hands .provisionLayout body →
      let formed : Prop := body.getD 0 0 = 1 ∧ body.length = 85 + 25 * (body.getD 19 0).toNat + 6 * (body.getD 20 0).toNat
      let live : Bool := s.journal.index.any (fun x => x.kind == .bank)
      let fits (l : Layout) : Prop := l.valid = true ∧ ∀ old, s.layoutNow = some old →
        l.capacity = old.capacity ∧ (live = true → l.sameBanked old = true)
      (¬formed → exec .provisionLayout s = .next (s.posted 0x10 [])) ∧
      (formed → (∀ l, Layout.parse body = some l → ¬fits l) → exec .provisionLayout s = .next (s.posted 0x1C [])) ∧
      (∀ l, formed → Layout.parse body = some l → fits l →
        let t : State := { s with journal := { s.journal with
          provisioning := some (s.journal.provisioning.getD l.capacity) } }
        let digested : BankRecord := { s.update.record with layoutDigest := sha256 l.block }
        exec .provisionLayout s = .next ((t.waiting .provisionLayout body).queued {
          purpose := .provisionLayout l
          live := true
          entries := if live then [stored l, bank digested] else [stored l]
          floorRaise := none
          authorityHash := none
          record := if live then some digested else none }))) ∧
    (s.hands .provisionAuthority body →
      let key : Pair := BitVec.ofNat 512 (field body 0 64)
      exec .provisionAuthority s = .next (
        if body.length ≠ 64 ∨ onCurve key = false then s.posted 0x10 []
        else if s.layoutNow = none then s.posted 0x16 []
        else if s.anchor.authorityHash ≠ 0 then s.posted 0x22 []
        else (s.waiting .provisionAuthority body).queued {
          purpose := .provisionAuthority key
          live := true
          entries := [{ kind := .key, id := 1, epoch := 0, secret := false, payload := pairBytes key }]
          floorRaise := none
          authorityHash := some (sha256 (pairBytes key))
          record := none })) ∧
    (s.hands .provisionBank body → (s.layoutNow = none → exec .provisionBank s = .next (s.posted 0x16 [])) ∧
      ∀ l, s.layoutNow = some l →
        (body.length ≠ 47 + 72 * l.banked.length → exec .provisionBank s = .next (s.posted 0x10 [])) ∧
        (body.length = 47 + 72 * l.banked.length →
          (provisionedRecord l body = none → exec .provisionBank s = .next (s.posted 0x10 [])) ∧
          (∀ r, provisionedRecord l body = some r →
            let sound (i : BankInfo) : Prop :=
              (i.state = .good ∨ (i.state = .empty ∧ i.version = 0 ∧ ∀ x ∈ i.images, x.length = 0 ∧ x.digest = 0)) ∧
              ∀ x ∈ i.images.zip l.banked, ∃ g, l.region? x.2 = some g ∧ x.1.length ≤ g.length
            let ready : Prop := sound r.bankA ∧ sound r.bankB ∧ (r.bank r.active).state = .good
            let floors : Prop := s.anchor.floor.toNat ≤ r.floor.toNat ∧ r.floor.toNat ≤ (r.bank r.active).version.toNat
            r.trialPending = false ∧ r.attempts = 0 ∧ r.trialLayout = false ∧ r.raiseFloor = false ∧ r.outcome = .none ∧
            r.floor = BitVec.ofNat 32 (field body 1 4) ∧ r.layoutDigest = sha256 l.block ∧
            r.recoveryDigest = BitVec.ofNat 256 (field body (15 + 72 * l.banked.length) 32) ∧
            (¬ready → exec .provisionBank s = .next (s.posted 0x10 [])) ∧
            (ready → ¬floors → exec .provisionBank s = .next (s.posted 0x1B [])) ∧
            (ready → floors → exec .provisionBank s = .next ((s.waiting .provisionBank body).queued {
              purpose := .provisionBank r
              live := true
              entries := [bank r]
              floorRaise := some r.floor
              authorityHash := none
              record := some r })))))

/-- R157, R176, R178: PROVISION FINISH is tested in order and begins the write of FIELD to anchor memory; when that
write completes the life cycle is FIELD and the command answers OK. The writes of a request, done before its answer OK
(R91), raise the floor to the larger of the two and set the authority key hash. (That these writes end at
ANCHOR_MEMORY_WRITE_COMPLETE is the model's choice, log entry 19, and so is that the first FIELD write to complete
answers the command, log entry 40.) (That a refusal's body is empty is the model's choice, log entry 42.) (What the
answer does rests on the log entries that StoreChunkJudgesTheReadBack names: 16 ~ 18, 24, 29, 37, 43, 46, 51 ~ 53, 55,
58.) -/
def Obligations.ProvisionFinishWritesField : Prop :=
  (∀ (s : State) (body : Bytes), s.hands .provisionFinish body → exec .provisionFinish s = .next (
    if body ≠ [] then s.posted 0x10 []
    else if s.layoutNow = none ∨ s.keys.authority = none ∨ s.journal.index.all (fun x => x.kind != .bank) = true then s.posted 0x16 []
    else if s.journal.state ≠ .ready then s.posted 0x21 []
    else { s.waiting .provisionFinish body with anchor := { s.anchor with writes := s.anchor.writes ++ [.field] } })) ∧
  (∀ (s : State) (rest : List AnchorWrite), s.powered = true → s.anchor.writes = .field :: rest →
    let t : State := { s with anchor := { s.anchor with lifeCycle := .field, writes := rest } }
    (∀ body, s.window.command = some { command := .provisionFinish, body := body, taken := true } →
      exec .anchorMemoryWriteComplete s = .next (t.posted 0 [])) ∧
    (s.window.command = none → exec .anchorMemoryWriteComplete s = .next t)) ∧
  (∀ (s : State) (floor : Option Word32) (hash : Option Digest) (rest : List AnchorWrite), s.powered = true →
    s.anchor.writes = .request floor hash :: rest → ∃ t, exec .anchorMemoryWriteComplete s = .next t ∧
      t.anchor.floor = (match floor with
        | none => s.anchor.floor
        | some v => if s.anchor.floor.toNat < v.toNat then v else s.anchor.floor) ∧
      t.anchor.authorityHash = (match hash with
        | none => s.anchor.authorityHash
        | some d => d) ∧
      t.anchor.lifeCycle = s.anchor.lifeCycle ∧ t.anchor.generation = s.anchor.generation ∧
      ∀ job, s.journal.job = some job → job.step = .anchorWriting → RequestAnswered { s with
        anchor := { s.anchor with writes := rest, floor := t.anchor.floor, authorityHash := t.anchor.authorityHash }
        journal := { s.journal with job := none } } job.request t)
end

