-- ==== Sys2Proof/Laws/State.lean ====
section
/-! SUPPORT. For each plain update of the state, what every field of the state is after it: each by
computation, so that no proof unfolds an update. -/

namespace Sys2Proof.Machine

variable (s : State)

@[simp] theorem State.raise_pending (e : Event) : (s.raise e).pending = s.pending := rfl
@[simp] theorem State.raise_powered (e : Event) : (s.raise e).powered = s.powered := rfl
@[simp] theorem State.raise_lines (e : Event) : (s.raise e).lines = s.lines := rfl
@[simp] theorem State.raise_port (e : Event) : (s.raise e).port = s.port := rfl
@[simp] theorem State.raise_arbiter (e : Event) : (s.raise e).arbiter = s.arbiter := rfl
@[simp] theorem State.raise_flash (e : Event) : (s.raise e).flash = s.flash := rfl
@[simp] theorem State.raise_checker (e : Event) : (s.raise e).checker = s.checker := rfl
@[simp] theorem State.raise_window (e : Event) : (s.raise e).window = s.window.raise e := rfl
@[simp] theorem State.raise_time (e : Event) : (s.raise e).time = s.time := rfl
@[simp] theorem State.raise_rst (e : Event) : (s.raise e).rst = s.rst := rfl
@[simp] theorem State.raise_measure (e : Event) : (s.raise e).measure = s.measure := rfl
@[simp] theorem State.raise_anchor (e : Event) : (s.raise e).anchor = s.anchor := rfl
@[simp] theorem State.raise_journal (e : Event) : (s.raise e).journal = s.journal := rfl
@[simp] theorem State.raise_keys (e : Event) : (s.raise e).keys = s.keys := rfl
@[simp] theorem State.raise_signature (e : Event) : (s.raise e).signature = s.signature := rfl
@[simp] theorem State.raise_fresh (e : Event) : (s.raise e).fresh = s.fresh := rfl
@[simp] theorem State.raise_creds (e : Event) : (s.raise e).creds = s.creds := rfl
@[simp] theorem State.raise_update (e : Event) : (s.raise e).update = s.update := rfl
@[simp] theorem State.raise_response (e : Event) : (s.raise e).response = s.response := rfl

@[simp] theorem State.finish_pending (r : Result) (body : Bytes) : (s.finish r body).pending = s.pending := rfl
@[simp] theorem State.finish_powered (r : Result) (body : Bytes) : (s.finish r body).powered = s.powered := rfl
@[simp] theorem State.finish_lines (r : Result) (body : Bytes) : (s.finish r body).lines = s.lines := rfl
@[simp] theorem State.finish_port (r : Result) (body : Bytes) : (s.finish r body).port = s.port := rfl
@[simp] theorem State.finish_arbiter (r : Result) (body : Bytes) : (s.finish r body).arbiter = s.arbiter := rfl
@[simp] theorem State.finish_flash (r : Result) (body : Bytes) : (s.finish r body).flash = s.flash := rfl
@[simp] theorem State.finish_checker (r : Result) (body : Bytes) : (s.finish r body).checker = s.checker := rfl
@[simp] theorem State.finish_window (r : Result) (body : Bytes) : (s.finish r body).window = s.window.complete r body := rfl
@[simp] theorem State.finish_time (r : Result) (body : Bytes) : (s.finish r body).time = s.time := rfl
@[simp] theorem State.finish_rst (r : Result) (body : Bytes) : (s.finish r body).rst = s.rst := rfl
@[simp] theorem State.finish_measure (r : Result) (body : Bytes) : (s.finish r body).measure = s.measure := rfl
@[simp] theorem State.finish_anchor (r : Result) (body : Bytes) : (s.finish r body).anchor = s.anchor := rfl
@[simp] theorem State.finish_journal (r : Result) (body : Bytes) : (s.finish r body).journal = s.journal := rfl
@[simp] theorem State.finish_keys (r : Result) (body : Bytes) : (s.finish r body).keys = s.keys := rfl
@[simp] theorem State.finish_signature (r : Result) (body : Bytes) : (s.finish r body).signature = s.signature := rfl
@[simp] theorem State.finish_fresh (r : Result) (body : Bytes) : (s.finish r body).fresh = s.fresh := rfl
@[simp] theorem State.finish_creds (r : Result) (body : Bytes) : (s.finish r body).creds = s.creds := rfl
@[simp] theorem State.finish_update (r : Result) (body : Bytes) : (s.finish r body).update = s.update := rfl
@[simp] theorem State.finish_response (r : Result) (body : Bytes) : (s.finish r body).response = s.response := rfl

@[simp] theorem State.refuse_pending (r : Result) : (s.refuse r).pending = s.pending := rfl
@[simp] theorem State.refuse_powered (r : Result) : (s.refuse r).powered = s.powered := rfl
@[simp] theorem State.refuse_lines (r : Result) : (s.refuse r).lines = s.lines := rfl
@[simp] theorem State.refuse_port (r : Result) : (s.refuse r).port = s.port := rfl
@[simp] theorem State.refuse_arbiter (r : Result) : (s.refuse r).arbiter = s.arbiter := rfl
@[simp] theorem State.refuse_flash (r : Result) : (s.refuse r).flash = s.flash := rfl
@[simp] theorem State.refuse_checker (r : Result) : (s.refuse r).checker = s.checker := rfl
@[simp] theorem State.refuse_window (r : Result) : (s.refuse r).window = s.window.complete r [] := rfl
@[simp] theorem State.refuse_time (r : Result) : (s.refuse r).time = s.time := rfl
@[simp] theorem State.refuse_rst (r : Result) : (s.refuse r).rst = s.rst := rfl
@[simp] theorem State.refuse_measure (r : Result) : (s.refuse r).measure = s.measure := rfl
@[simp] theorem State.refuse_anchor (r : Result) : (s.refuse r).anchor = s.anchor := rfl
@[simp] theorem State.refuse_journal (r : Result) : (s.refuse r).journal = s.journal := rfl
@[simp] theorem State.refuse_keys (r : Result) : (s.refuse r).keys = s.keys := rfl
@[simp] theorem State.refuse_signature (r : Result) : (s.refuse r).signature = s.signature := rfl
@[simp] theorem State.refuse_fresh (r : Result) : (s.refuse r).fresh = s.fresh := rfl
@[simp] theorem State.refuse_creds (r : Result) : (s.refuse r).creds = s.creds := rfl
@[simp] theorem State.refuse_update (r : Result) : (s.refuse r).update = s.update := rfl
@[simp] theorem State.refuse_response (r : Result) : (s.refuse r).response = s.response := rfl

@[simp] theorem State.wait_pending : (s.wait).pending = s.pending := rfl
@[simp] theorem State.wait_powered : (s.wait).powered = s.powered := rfl
@[simp] theorem State.wait_lines : (s.wait).lines = s.lines := rfl
@[simp] theorem State.wait_port : (s.wait).port = s.port := rfl
@[simp] theorem State.wait_arbiter : (s.wait).arbiter = s.arbiter := rfl
@[simp] theorem State.wait_flash : (s.wait).flash = s.flash := rfl
@[simp] theorem State.wait_checker : (s.wait).checker = s.checker := rfl
@[simp] theorem State.wait_window : (s.wait).window = { s.window with command := s.window.command.map (fun c => { c with taken := true }) } := rfl
@[simp] theorem State.wait_time : (s.wait).time = s.time := rfl
@[simp] theorem State.wait_rst : (s.wait).rst = s.rst := rfl
@[simp] theorem State.wait_measure : (s.wait).measure = s.measure := rfl
@[simp] theorem State.wait_anchor : (s.wait).anchor = s.anchor := rfl
@[simp] theorem State.wait_journal : (s.wait).journal = s.journal := rfl
@[simp] theorem State.wait_keys : (s.wait).keys = s.keys := rfl
@[simp] theorem State.wait_signature : (s.wait).signature = s.signature := rfl
@[simp] theorem State.wait_fresh : (s.wait).fresh = s.fresh := rfl
@[simp] theorem State.wait_creds : (s.wait).creds = s.creds := rfl
@[simp] theorem State.wait_update : (s.wait).update = s.update := rfl
@[simp] theorem State.wait_response : (s.wait).response = s.response := rfl

@[simp] theorem State.clearGrant_pending : (s.clearGrant).pending = s.pending := rfl
@[simp] theorem State.clearGrant_powered : (s.clearGrant).powered = s.powered := rfl
@[simp] theorem State.clearGrant_lines : (s.clearGrant).lines = s.lines := rfl
@[simp] theorem State.clearGrant_port : (s.clearGrant).port = s.port := rfl
@[simp] theorem State.clearGrant_arbiter : (s.clearGrant).arbiter = s.arbiter := rfl
@[simp] theorem State.clearGrant_flash : (s.clearGrant).flash = s.flash := rfl
@[simp] theorem State.clearGrant_checker : (s.clearGrant).checker = s.checker := rfl
@[simp] theorem State.clearGrant_window : (s.clearGrant).window = s.window := rfl
@[simp] theorem State.clearGrant_time : (s.clearGrant).time = s.time := rfl
@[simp] theorem State.clearGrant_rst : (s.clearGrant).rst = s.rst := rfl
@[simp] theorem State.clearGrant_measure : (s.clearGrant).measure = s.measure := rfl
@[simp] theorem State.clearGrant_anchor : (s.clearGrant).anchor = s.anchor := rfl
@[simp] theorem State.clearGrant_journal : (s.clearGrant).journal = s.journal := rfl
@[simp] theorem State.clearGrant_keys : (s.clearGrant).keys = s.keys := rfl
@[simp] theorem State.clearGrant_signature : (s.clearGrant).signature = s.signature := rfl
@[simp] theorem State.clearGrant_fresh : (s.clearGrant).fresh = s.fresh := rfl
@[simp] theorem State.clearGrant_creds : (s.clearGrant).creds = { s.creds with grant := none } := rfl
@[simp] theorem State.clearGrant_update : (s.clearGrant).update = s.update := rfl
@[simp] theorem State.clearGrant_response : (s.clearGrant).response = s.response := rfl

@[simp] theorem State.contain_pending (c : ContainCause) : (s.contain c).pending = s.pending := rfl
@[simp] theorem State.contain_powered (c : ContainCause) : (s.contain c).powered = s.powered := rfl
@[simp] theorem State.contain_lines (c : ContainCause) : (s.contain c).lines = s.lines := rfl
@[simp] theorem State.contain_port (c : ContainCause) : (s.contain c).port = s.port := rfl
@[simp] theorem State.contain_arbiter (c : ContainCause) : (s.contain c).arbiter = s.arbiter := rfl
@[simp] theorem State.contain_flash (c : ContainCause) : (s.contain c).flash = s.flash := rfl
@[simp] theorem State.contain_checker (c : ContainCause) : (s.contain c).checker = s.checker := rfl
@[simp] theorem State.contain_window (c : ContainCause) : (s.contain c).window = if inSet s.response.causes c.bit then s.window else s.window.raise .contain := rfl
@[simp] theorem State.contain_time (c : ContainCause) : (s.contain c).time = s.time := rfl
@[simp] theorem State.contain_rst (c : ContainCause) : (s.contain c).rst = s.rst := rfl
@[simp] theorem State.contain_measure (c : ContainCause) : (s.contain c).measure = s.measure := rfl
@[simp] theorem State.contain_anchor (c : ContainCause) : (s.contain c).anchor = s.anchor := rfl
@[simp] theorem State.contain_journal (c : ContainCause) : (s.contain c).journal = s.journal := rfl
@[simp] theorem State.contain_keys (c : ContainCause) : (s.contain c).keys = s.keys := rfl
@[simp] theorem State.contain_signature (c : ContainCause) : (s.contain c).signature = s.signature := rfl
@[simp] theorem State.contain_fresh (c : ContainCause) : (s.contain c).fresh = s.fresh := rfl
@[simp] theorem State.contain_creds (c : ContainCause) : (s.contain c).creds = if s.response.latch then s.creds else { s.creds with grant := none } := rfl
@[simp] theorem State.contain_update (c : ContainCause) : (s.contain c).update = s.update := rfl
@[simp] theorem State.contain_response (c : ContainCause) : (s.contain c).response = s.response.addCause c := rfl

@[simp] theorem State.askFlash_pending (r : Requester) (op : FlashOp) : (s.askFlash r op).pending = s.pending := rfl
@[simp] theorem State.askFlash_powered (r : Requester) (op : FlashOp) : (s.askFlash r op).powered = s.powered := rfl
@[simp] theorem State.askFlash_lines (r : Requester) (op : FlashOp) : (s.askFlash r op).lines = s.lines := rfl
@[simp] theorem State.askFlash_port (r : Requester) (op : FlashOp) : (s.askFlash r op).port = s.port := rfl
@[simp] theorem State.askFlash_arbiter (r : Requester) (op : FlashOp) : (s.askFlash r op).arbiter = s.arbiter.setRequest r (some op) := rfl
@[simp] theorem State.askFlash_flash (r : Requester) (op : FlashOp) : (s.askFlash r op).flash = s.flash := rfl
@[simp] theorem State.askFlash_checker (r : Requester) (op : FlashOp) : (s.askFlash r op).checker = s.checker := rfl
@[simp] theorem State.askFlash_window (r : Requester) (op : FlashOp) : (s.askFlash r op).window = s.window := rfl
@[simp] theorem State.askFlash_time (r : Requester) (op : FlashOp) : (s.askFlash r op).time = s.time := rfl
@[simp] theorem State.askFlash_rst (r : Requester) (op : FlashOp) : (s.askFlash r op).rst = s.rst := rfl
@[simp] theorem State.askFlash_measure (r : Requester) (op : FlashOp) : (s.askFlash r op).measure = s.measure := rfl
@[simp] theorem State.askFlash_anchor (r : Requester) (op : FlashOp) : (s.askFlash r op).anchor = s.anchor := rfl
@[simp] theorem State.askFlash_journal (r : Requester) (op : FlashOp) : (s.askFlash r op).journal = s.journal := rfl
@[simp] theorem State.askFlash_keys (r : Requester) (op : FlashOp) : (s.askFlash r op).keys = s.keys := rfl
@[simp] theorem State.askFlash_signature (r : Requester) (op : FlashOp) : (s.askFlash r op).signature = s.signature := rfl
@[simp] theorem State.askFlash_fresh (r : Requester) (op : FlashOp) : (s.askFlash r op).fresh = s.fresh := rfl
@[simp] theorem State.askFlash_creds (r : Requester) (op : FlashOp) : (s.askFlash r op).creds = s.creds := rfl
@[simp] theorem State.askFlash_update (r : Requester) (op : FlashOp) : (s.askFlash r op).update = s.update := rfl
@[simp] theorem State.askFlash_response (r : Requester) (op : FlashOp) : (s.askFlash r op).response = s.response := rfl

@[simp] theorem State.withdraw_pending (r : Requester) : (s.withdraw r).pending = s.pending := rfl
@[simp] theorem State.withdraw_powered (r : Requester) : (s.withdraw r).powered = s.powered := rfl
@[simp] theorem State.withdraw_lines (r : Requester) : (s.withdraw r).lines = s.lines := rfl
@[simp] theorem State.withdraw_port (r : Requester) : (s.withdraw r).port = s.port := rfl
@[simp] theorem State.withdraw_arbiter (r : Requester) : (s.withdraw r).arbiter = s.arbiter.withdraw r := rfl
@[simp] theorem State.withdraw_flash (r : Requester) : (s.withdraw r).flash = s.flash := rfl
@[simp] theorem State.withdraw_checker (r : Requester) : (s.withdraw r).checker = s.checker := rfl
@[simp] theorem State.withdraw_window (r : Requester) : (s.withdraw r).window = s.window := rfl
@[simp] theorem State.withdraw_time (r : Requester) : (s.withdraw r).time = s.time := rfl
@[simp] theorem State.withdraw_rst (r : Requester) : (s.withdraw r).rst = s.rst := rfl
@[simp] theorem State.withdraw_measure (r : Requester) : (s.withdraw r).measure = s.measure := rfl
@[simp] theorem State.withdraw_anchor (r : Requester) : (s.withdraw r).anchor = s.anchor := rfl
@[simp] theorem State.withdraw_journal (r : Requester) : (s.withdraw r).journal = s.journal := rfl
@[simp] theorem State.withdraw_keys (r : Requester) : (s.withdraw r).keys = s.keys := rfl
@[simp] theorem State.withdraw_signature (r : Requester) : (s.withdraw r).signature = s.signature := rfl
@[simp] theorem State.withdraw_fresh (r : Requester) : (s.withdraw r).fresh = s.fresh := rfl
@[simp] theorem State.withdraw_creds (r : Requester) : (s.withdraw r).creds = s.creds := rfl
@[simp] theorem State.withdraw_update (r : Requester) : (s.withdraw r).update = s.update := rfl
@[simp] theorem State.withdraw_response (r : Requester) : (s.withdraw r).response = s.response := rfl

@[simp] theorem State.forward_pending (w : SocWrite) : (s.forward w).pending = s.pending := rfl
@[simp] theorem State.forward_powered (w : SocWrite) : (s.forward w).powered = s.powered := rfl
@[simp] theorem State.forward_lines (w : SocWrite) : (s.forward w).lines = s.lines := rfl
@[simp] theorem State.forward_port (w : SocWrite) : (s.forward w).port = s.port := rfl
@[simp] theorem State.forward_arbiter (w : SocWrite) : (s.forward w).arbiter = { s.arbiter with grant := .socWrite w, bus := s.operationFrames w.flashOp w.op } := rfl
@[simp] theorem State.forward_flash (w : SocWrite) : (s.forward w).flash = s.flash := rfl
@[simp] theorem State.forward_checker (w : SocWrite) : (s.forward w).checker = s.checker := rfl
@[simp] theorem State.forward_window (w : SocWrite) : (s.forward w).window = s.window := rfl
@[simp] theorem State.forward_time (w : SocWrite) : (s.forward w).time = s.time := rfl
@[simp] theorem State.forward_rst (w : SocWrite) : (s.forward w).rst = s.rst := rfl
@[simp] theorem State.forward_measure (w : SocWrite) : (s.forward w).measure = s.measure := rfl
@[simp] theorem State.forward_anchor (w : SocWrite) : (s.forward w).anchor = s.anchor := rfl
@[simp] theorem State.forward_journal (w : SocWrite) : (s.forward w).journal = s.journal := rfl
@[simp] theorem State.forward_keys (w : SocWrite) : (s.forward w).keys = s.keys := rfl
@[simp] theorem State.forward_signature (w : SocWrite) : (s.forward w).signature = s.signature := rfl
@[simp] theorem State.forward_fresh (w : SocWrite) : (s.forward w).fresh = s.fresh := rfl
@[simp] theorem State.forward_creds (w : SocWrite) : (s.forward w).creds = s.creds := rfl
@[simp] theorem State.forward_update (w : SocWrite) : (s.forward w).update = s.update := rfl
@[simp] theorem State.forward_response (w : SocWrite) : (s.forward w).response = s.response := rfl

@[simp] theorem State.portIdle_pending : (s.portIdle).pending = s.pending := rfl
@[simp] theorem State.portIdle_powered : (s.portIdle).powered = s.powered := rfl
@[simp] theorem State.portIdle_lines : (s.portIdle).lines = s.lines := rfl
@[simp] theorem State.portIdle_port : (s.portIdle).port = s.port := rfl
@[simp] theorem State.portIdle_flash : (s.portIdle).flash = s.flash := rfl
@[simp] theorem State.portIdle_checker : (s.portIdle).checker = s.checker := rfl
@[simp] theorem State.portIdle_window : (s.portIdle).window = s.window := rfl
@[simp] theorem State.portIdle_time : (s.portIdle).time = s.time := rfl
@[simp] theorem State.portIdle_rst : (s.portIdle).rst = s.rst := rfl
@[simp] theorem State.portIdle_measure : (s.portIdle).measure = s.measure := rfl
@[simp] theorem State.portIdle_anchor : (s.portIdle).anchor = s.anchor := rfl
@[simp] theorem State.portIdle_journal : (s.portIdle).journal = s.journal := rfl
@[simp] theorem State.portIdle_keys : (s.portIdle).keys = s.keys := rfl
@[simp] theorem State.portIdle_signature : (s.portIdle).signature = s.signature := rfl
@[simp] theorem State.portIdle_fresh : (s.portIdle).fresh = s.fresh := rfl
@[simp] theorem State.portIdle_creds : (s.portIdle).creds = s.creds := rfl
@[simp] theorem State.portIdle_update : (s.portIdle).update = s.update := rfl
@[simp] theorem State.portIdle_response : (s.portIdle).response = s.response := rfl

@[simp] theorem State.recordCause_pending (c : ResetCause) : (s.recordCause c).pending = s.pending := rfl
@[simp] theorem State.recordCause_powered (c : ResetCause) : (s.recordCause c).powered = s.powered := rfl
@[simp] theorem State.recordCause_lines (c : ResetCause) : (s.recordCause c).lines = s.lines := rfl
@[simp] theorem State.recordCause_port (c : ResetCause) : (s.recordCause c).port = s.port := rfl
@[simp] theorem State.recordCause_arbiter (c : ResetCause) : (s.recordCause c).arbiter = s.arbiter := rfl
@[simp] theorem State.recordCause_flash (c : ResetCause) : (s.recordCause c).flash = s.flash := rfl
@[simp] theorem State.recordCause_checker (c : ResetCause) : (s.recordCause c).checker = s.checker := rfl
@[simp] theorem State.recordCause_window (c : ResetCause) : (s.recordCause c).window = s.window := rfl
@[simp] theorem State.recordCause_time (c : ResetCause) : (s.recordCause c).time = s.time := rfl
@[simp] theorem State.recordCause_rst (c : ResetCause) : (s.recordCause c).rst = s.rst.recordCause c := rfl
@[simp] theorem State.recordCause_measure (c : ResetCause) : (s.recordCause c).measure = s.measure := rfl
@[simp] theorem State.recordCause_anchor (c : ResetCause) : (s.recordCause c).anchor = s.anchor := rfl
@[simp] theorem State.recordCause_journal (c : ResetCause) : (s.recordCause c).journal = s.journal := rfl
@[simp] theorem State.recordCause_keys (c : ResetCause) : (s.recordCause c).keys = s.keys := rfl
@[simp] theorem State.recordCause_signature (c : ResetCause) : (s.recordCause c).signature = s.signature := rfl
@[simp] theorem State.recordCause_fresh (c : ResetCause) : (s.recordCause c).fresh = s.fresh := rfl
@[simp] theorem State.recordCause_creds (c : ResetCause) : (s.recordCause c).creds = s.creds := rfl
@[simp] theorem State.recordCause_update (c : ResetCause) : (s.recordCause c).update = s.update := rfl
@[simp] theorem State.recordCause_response (c : ResetCause) : (s.recordCause c).response = s.response := rfl

@[simp] theorem State.withDecode_pending (d : Decode) (out : Bytes) : (s.withDecode d out).pending = s.pending := rfl
@[simp] theorem State.withDecode_powered (d : Decode) (out : Bytes) : (s.withDecode d out).powered = s.powered := rfl
@[simp] theorem State.withDecode_lines (d : Decode) (out : Bytes) : (s.withDecode d out).lines = s.lines := rfl
@[simp] theorem State.withDecode_port (d : Decode) (out : Bytes) : (s.withDecode d out).port = { s.port with decode := some d, sdout := out } := rfl
@[simp] theorem State.withDecode_arbiter (d : Decode) (out : Bytes) : (s.withDecode d out).arbiter = s.arbiter := rfl
@[simp] theorem State.withDecode_flash (d : Decode) (out : Bytes) : (s.withDecode d out).flash = s.flash := rfl
@[simp] theorem State.withDecode_checker (d : Decode) (out : Bytes) : (s.withDecode d out).checker = s.checker := rfl
@[simp] theorem State.withDecode_window (d : Decode) (out : Bytes) : (s.withDecode d out).window = s.window := rfl
@[simp] theorem State.withDecode_time (d : Decode) (out : Bytes) : (s.withDecode d out).time = s.time := rfl
@[simp] theorem State.withDecode_rst (d : Decode) (out : Bytes) : (s.withDecode d out).rst = s.rst := rfl
@[simp] theorem State.withDecode_measure (d : Decode) (out : Bytes) : (s.withDecode d out).measure = s.measure := rfl
@[simp] theorem State.withDecode_anchor (d : Decode) (out : Bytes) : (s.withDecode d out).anchor = s.anchor := rfl
@[simp] theorem State.withDecode_journal (d : Decode) (out : Bytes) : (s.withDecode d out).journal = s.journal := rfl
@[simp] theorem State.withDecode_keys (d : Decode) (out : Bytes) : (s.withDecode d out).keys = s.keys := rfl
@[simp] theorem State.withDecode_signature (d : Decode) (out : Bytes) : (s.withDecode d out).signature = s.signature := rfl
@[simp] theorem State.withDecode_fresh (d : Decode) (out : Bytes) : (s.withDecode d out).fresh = s.fresh := rfl
@[simp] theorem State.withDecode_creds (d : Decode) (out : Bytes) : (s.withDecode d out).creds = s.creds := rfl
@[simp] theorem State.withDecode_update (d : Decode) (out : Bytes) : (s.withDecode d out).update = s.update := rfl
@[simp] theorem State.withDecode_response (d : Decode) (out : Bytes) : (s.withDecode d out).response = s.response := rfl

@[simp] theorem State.putCred_pending (id : Nat) (r : Option CredRecord) : (s.putCred id r).pending = s.pending := rfl
@[simp] theorem State.putCred_powered (id : Nat) (r : Option CredRecord) : (s.putCred id r).powered = s.powered := rfl
@[simp] theorem State.putCred_lines (id : Nat) (r : Option CredRecord) : (s.putCred id r).lines = s.lines := rfl
@[simp] theorem State.putCred_port (id : Nat) (r : Option CredRecord) : (s.putCred id r).port = s.port := rfl
@[simp] theorem State.putCred_arbiter (id : Nat) (r : Option CredRecord) : (s.putCred id r).arbiter = s.arbiter := rfl
@[simp] theorem State.putCred_flash (id : Nat) (r : Option CredRecord) : (s.putCred id r).flash = s.flash := rfl
@[simp] theorem State.putCred_checker (id : Nat) (r : Option CredRecord) : (s.putCred id r).checker = s.checker := rfl
@[simp] theorem State.putCred_window (id : Nat) (r : Option CredRecord) : (s.putCred id r).window = s.window := rfl
@[simp] theorem State.putCred_time (id : Nat) (r : Option CredRecord) : (s.putCred id r).time = s.time := rfl
@[simp] theorem State.putCred_rst (id : Nat) (r : Option CredRecord) : (s.putCred id r).rst = s.rst := rfl
@[simp] theorem State.putCred_measure (id : Nat) (r : Option CredRecord) : (s.putCred id r).measure = s.measure := rfl
@[simp] theorem State.putCred_anchor (id : Nat) (r : Option CredRecord) : (s.putCred id r).anchor = s.anchor := rfl
@[simp] theorem State.putCred_journal (id : Nat) (r : Option CredRecord) : (s.putCred id r).journal = s.journal := rfl
@[simp] theorem State.putCred_keys (id : Nat) (r : Option CredRecord) : (s.putCred id r).keys = s.keys := rfl
@[simp] theorem State.putCred_signature (id : Nat) (r : Option CredRecord) : (s.putCred id r).signature = s.signature := rfl
@[simp] theorem State.putCred_fresh (id : Nat) (r : Option CredRecord) : (s.putCred id r).fresh = s.fresh := rfl
@[simp] theorem State.putCred_creds (id : Nat) (r : Option CredRecord) : (s.putCred id r).creds = s.creds.put id r := rfl
@[simp] theorem State.putCred_update (id : Nat) (r : Option CredRecord) : (s.putCred id r).update = s.update := rfl
@[simp] theorem State.putCred_response (id : Nat) (r : Option CredRecord) : (s.putCred id r).response = s.response := rfl

@[simp] theorem State.putKey_pending (n : Nat) (k : Option KeyRecord) : (s.putKey n k).pending = s.pending := rfl
@[simp] theorem State.putKey_powered (n : Nat) (k : Option KeyRecord) : (s.putKey n k).powered = s.powered := rfl
@[simp] theorem State.putKey_lines (n : Nat) (k : Option KeyRecord) : (s.putKey n k).lines = s.lines := rfl
@[simp] theorem State.putKey_port (n : Nat) (k : Option KeyRecord) : (s.putKey n k).port = s.port := rfl
@[simp] theorem State.putKey_arbiter (n : Nat) (k : Option KeyRecord) : (s.putKey n k).arbiter = s.arbiter := rfl
@[simp] theorem State.putKey_flash (n : Nat) (k : Option KeyRecord) : (s.putKey n k).flash = s.flash := rfl
@[simp] theorem State.putKey_checker (n : Nat) (k : Option KeyRecord) : (s.putKey n k).checker = s.checker := rfl
@[simp] theorem State.putKey_window (n : Nat) (k : Option KeyRecord) : (s.putKey n k).window = s.window := rfl
@[simp] theorem State.putKey_time (n : Nat) (k : Option KeyRecord) : (s.putKey n k).time = s.time := rfl
@[simp] theorem State.putKey_rst (n : Nat) (k : Option KeyRecord) : (s.putKey n k).rst = s.rst := rfl
@[simp] theorem State.putKey_measure (n : Nat) (k : Option KeyRecord) : (s.putKey n k).measure = s.measure := rfl
@[simp] theorem State.putKey_anchor (n : Nat) (k : Option KeyRecord) : (s.putKey n k).anchor = s.anchor := rfl
@[simp] theorem State.putKey_journal (n : Nat) (k : Option KeyRecord) : (s.putKey n k).journal = s.journal := rfl
@[simp] theorem State.putKey_keys (n : Nat) (k : Option KeyRecord) : (s.putKey n k).keys = { s.keys with slots := s.keys.slots.setIfInBounds n k } := rfl
@[simp] theorem State.putKey_signature (n : Nat) (k : Option KeyRecord) : (s.putKey n k).signature = s.signature := rfl
@[simp] theorem State.putKey_fresh (n : Nat) (k : Option KeyRecord) : (s.putKey n k).fresh = s.fresh := rfl
@[simp] theorem State.putKey_creds (n : Nat) (k : Option KeyRecord) : (s.putKey n k).creds = s.creds := rfl
@[simp] theorem State.putKey_update (n : Nat) (k : Option KeyRecord) : (s.putKey n k).update = s.update := rfl
@[simp] theorem State.putKey_response (n : Nat) (k : Option KeyRecord) : (s.putKey n k).response = s.response := rfl

@[simp] theorem State.keyEpoch_pending (epoch : Word32) : (s.keyEpoch epoch).pending = s.pending := rfl
@[simp] theorem State.keyEpoch_powered (epoch : Word32) : (s.keyEpoch epoch).powered = s.powered := rfl
@[simp] theorem State.keyEpoch_lines (epoch : Word32) : (s.keyEpoch epoch).lines = s.lines := rfl
@[simp] theorem State.keyEpoch_port (epoch : Word32) : (s.keyEpoch epoch).port = s.port := rfl
@[simp] theorem State.keyEpoch_arbiter (epoch : Word32) : (s.keyEpoch epoch).arbiter = s.arbiter := rfl
@[simp] theorem State.keyEpoch_flash (epoch : Word32) : (s.keyEpoch epoch).flash = s.flash := rfl
@[simp] theorem State.keyEpoch_checker (epoch : Word32) : (s.keyEpoch epoch).checker = s.checker := rfl
@[simp] theorem State.keyEpoch_window (epoch : Word32) : (s.keyEpoch epoch).window = s.window := rfl
@[simp] theorem State.keyEpoch_time (epoch : Word32) : (s.keyEpoch epoch).time = s.time := rfl
@[simp] theorem State.keyEpoch_rst (epoch : Word32) : (s.keyEpoch epoch).rst = s.rst := rfl
@[simp] theorem State.keyEpoch_measure (epoch : Word32) : (s.keyEpoch epoch).measure = s.measure := rfl
@[simp] theorem State.keyEpoch_anchor (epoch : Word32) : (s.keyEpoch epoch).anchor = s.anchor := rfl
@[simp] theorem State.keyEpoch_journal (epoch : Word32) : (s.keyEpoch epoch).journal = s.journal := rfl
@[simp] theorem State.keyEpoch_signature (epoch : Word32) : (s.keyEpoch epoch).signature = s.signature := rfl
@[simp] theorem State.keyEpoch_fresh (epoch : Word32) : (s.keyEpoch epoch).fresh = s.fresh := rfl
@[simp] theorem State.keyEpoch_creds (epoch : Word32) : (s.keyEpoch epoch).creds = s.creds := rfl
@[simp] theorem State.keyEpoch_update (epoch : Word32) : (s.keyEpoch epoch).update = s.update := rfl
@[simp] theorem State.keyEpoch_response (epoch : Word32) : (s.keyEpoch epoch).response = s.response := rfl

@[simp] theorem State.freeze_pending (i : Nat) : (s.freeze i).pending = s.pending := rfl
@[simp] theorem State.freeze_powered (i : Nat) : (s.freeze i).powered = s.powered := rfl
@[simp] theorem State.freeze_lines (i : Nat) : (s.freeze i).lines = s.lines := rfl
@[simp] theorem State.freeze_port (i : Nat) : (s.freeze i).port = s.port := rfl
@[simp] theorem State.freeze_arbiter (i : Nat) : (s.freeze i).arbiter = s.arbiter := rfl
@[simp] theorem State.freeze_flash (i : Nat) : (s.freeze i).flash = s.flash := rfl
@[simp] theorem State.freeze_checker (i : Nat) : (s.freeze i).checker = { s.checker with freezeSet := addTo s.checker.freezeSet i } := rfl
@[simp] theorem State.freeze_window (i : Nat) : (s.freeze i).window = s.window := rfl
@[simp] theorem State.freeze_time (i : Nat) : (s.freeze i).time = s.time := rfl
@[simp] theorem State.freeze_rst (i : Nat) : (s.freeze i).rst = s.rst := rfl
@[simp] theorem State.freeze_measure (i : Nat) : (s.freeze i).measure = s.measure := rfl
@[simp] theorem State.freeze_anchor (i : Nat) : (s.freeze i).anchor = s.anchor := rfl
@[simp] theorem State.freeze_journal (i : Nat) : (s.freeze i).journal = s.journal := rfl
@[simp] theorem State.freeze_keys (i : Nat) : (s.freeze i).keys = s.keys := rfl
@[simp] theorem State.freeze_signature (i : Nat) : (s.freeze i).signature = s.signature := rfl
@[simp] theorem State.freeze_fresh (i : Nat) : (s.freeze i).fresh = s.fresh := rfl
@[simp] theorem State.freeze_creds (i : Nat) : (s.freeze i).creds = s.creds := rfl
@[simp] theorem State.freeze_update (i : Nat) : (s.freeze i).update = s.update := rfl
@[simp] theorem State.freeze_response (i : Nat) : (s.freeze i).response = s.response := rfl

@[simp] theorem State.thawOthers_pending : (s.thawOthers).pending = s.pending := rfl
@[simp] theorem State.thawOthers_powered : (s.thawOthers).powered = s.powered := rfl
@[simp] theorem State.thawOthers_lines : (s.thawOthers).lines = s.lines := rfl
@[simp] theorem State.thawOthers_port : (s.thawOthers).port = s.port := rfl
@[simp] theorem State.thawOthers_arbiter : (s.thawOthers).arbiter = s.arbiter := rfl
@[simp] theorem State.thawOthers_flash : (s.thawOthers).flash = s.flash := rfl
@[simp] theorem State.thawOthers_checker : (s.thawOthers).checker = { s.checker with freezeSet := s.checker.freezeSet &&& s.stageRegions } := rfl
@[simp] theorem State.thawOthers_window : (s.thawOthers).window = s.window := rfl
@[simp] theorem State.thawOthers_time : (s.thawOthers).time = s.time := rfl
@[simp] theorem State.thawOthers_rst : (s.thawOthers).rst = s.rst := rfl
@[simp] theorem State.thawOthers_measure : (s.thawOthers).measure = s.measure := rfl
@[simp] theorem State.thawOthers_anchor : (s.thawOthers).anchor = s.anchor := rfl
@[simp] theorem State.thawOthers_journal : (s.thawOthers).journal = s.journal := rfl
@[simp] theorem State.thawOthers_keys : (s.thawOthers).keys = s.keys := rfl
@[simp] theorem State.thawOthers_signature : (s.thawOthers).signature = s.signature := rfl
@[simp] theorem State.thawOthers_fresh : (s.thawOthers).fresh = s.fresh := rfl
@[simp] theorem State.thawOthers_creds : (s.thawOthers).creds = s.creds := rfl
@[simp] theorem State.thawOthers_update : (s.thawOthers).update = s.update := rfl
@[simp] theorem State.thawOthers_response : (s.thawOthers).response = s.response := rfl

@[simp] theorem State.thawStages_pending : (s.thawStages).pending = s.pending := rfl
@[simp] theorem State.thawStages_powered : (s.thawStages).powered = s.powered := rfl
@[simp] theorem State.thawStages_lines : (s.thawStages).lines = s.lines := rfl
@[simp] theorem State.thawStages_port : (s.thawStages).port = s.port := rfl
@[simp] theorem State.thawStages_arbiter : (s.thawStages).arbiter = s.arbiter := rfl
@[simp] theorem State.thawStages_flash : (s.thawStages).flash = s.flash := rfl
@[simp] theorem State.thawStages_checker : (s.thawStages).checker = { s.checker with freezeSet := s.checker.freezeSet &&& ~~~s.stageRegions } := rfl
@[simp] theorem State.thawStages_window : (s.thawStages).window = s.window := rfl
@[simp] theorem State.thawStages_time : (s.thawStages).time = s.time := rfl
@[simp] theorem State.thawStages_rst : (s.thawStages).rst = s.rst := rfl
@[simp] theorem State.thawStages_measure : (s.thawStages).measure = s.measure := rfl
@[simp] theorem State.thawStages_anchor : (s.thawStages).anchor = s.anchor := rfl
@[simp] theorem State.thawStages_journal : (s.thawStages).journal = s.journal := rfl
@[simp] theorem State.thawStages_keys : (s.thawStages).keys = s.keys := rfl
@[simp] theorem State.thawStages_signature : (s.thawStages).signature = s.signature := rfl
@[simp] theorem State.thawStages_fresh : (s.thawStages).fresh = s.fresh := rfl
@[simp] theorem State.thawStages_creds : (s.thawStages).creds = s.creds := rfl
@[simp] theorem State.thawStages_update : (s.thawStages).update = s.update := rfl
@[simp] theorem State.thawStages_response : (s.thawStages).response = s.response := rfl

@[simp] theorem State.extend_pending (n : Nat) (k : ExtendKind) (i st : Nat) (d : Digest) : (s.extend n k i st d).pending = s.pending := rfl
@[simp] theorem State.extend_powered (n : Nat) (k : ExtendKind) (i st : Nat) (d : Digest) : (s.extend n k i st d).powered = s.powered := rfl
@[simp] theorem State.extend_lines (n : Nat) (k : ExtendKind) (i st : Nat) (d : Digest) : (s.extend n k i st d).lines = s.lines := rfl
@[simp] theorem State.extend_port (n : Nat) (k : ExtendKind) (i st : Nat) (d : Digest) : (s.extend n k i st d).port = s.port := rfl
@[simp] theorem State.extend_arbiter (n : Nat) (k : ExtendKind) (i st : Nat) (d : Digest) : (s.extend n k i st d).arbiter = s.arbiter := rfl
@[simp] theorem State.extend_flash (n : Nat) (k : ExtendKind) (i st : Nat) (d : Digest) : (s.extend n k i st d).flash = s.flash := rfl
@[simp] theorem State.extend_checker (n : Nat) (k : ExtendKind) (i st : Nat) (d : Digest) : (s.extend n k i st d).checker = s.checker := rfl
@[simp] theorem State.extend_window (n : Nat) (k : ExtendKind) (i st : Nat) (d : Digest) : (s.extend n k i st d).window = s.window := rfl
@[simp] theorem State.extend_time (n : Nat) (k : ExtendKind) (i st : Nat) (d : Digest) : (s.extend n k i st d).time = s.time := rfl
@[simp] theorem State.extend_rst (n : Nat) (k : ExtendKind) (i st : Nat) (d : Digest) : (s.extend n k i st d).rst = s.rst := rfl
@[simp] theorem State.extend_measure (n : Nat) (k : ExtendKind) (i st : Nat) (d : Digest) : (s.extend n k i st d).measure = s.measure.extend n k i st d := rfl
@[simp] theorem State.extend_anchor (n : Nat) (k : ExtendKind) (i st : Nat) (d : Digest) : (s.extend n k i st d).anchor = s.anchor := rfl
@[simp] theorem State.extend_journal (n : Nat) (k : ExtendKind) (i st : Nat) (d : Digest) : (s.extend n k i st d).journal = s.journal := rfl
@[simp] theorem State.extend_keys (n : Nat) (k : ExtendKind) (i st : Nat) (d : Digest) : (s.extend n k i st d).keys = s.keys := rfl
@[simp] theorem State.extend_signature (n : Nat) (k : ExtendKind) (i st : Nat) (d : Digest) : (s.extend n k i st d).signature = s.signature := rfl
@[simp] theorem State.extend_fresh (n : Nat) (k : ExtendKind) (i st : Nat) (d : Digest) : (s.extend n k i st d).fresh = s.fresh := rfl
@[simp] theorem State.extend_creds (n : Nat) (k : ExtendKind) (i st : Nat) (d : Digest) : (s.extend n k i st d).creds = s.creds := rfl
@[simp] theorem State.extend_update (n : Nat) (k : ExtendKind) (i st : Nat) (d : Digest) : (s.extend n k i st d).update = s.update := rfl
@[simp] theorem State.extend_response (n : Nat) (k : ExtendKind) (i st : Nat) (d : Digest) : (s.extend n k i st d).response = s.response := rfl

@[simp] theorem State.enterStage_pending (t : Nat) : (s.enterStage t).pending = s.pending := rfl
@[simp] theorem State.enterStage_powered (t : Nat) : (s.enterStage t).powered = s.powered := rfl
@[simp] theorem State.enterStage_lines (t : Nat) : (s.enterStage t).lines = s.lines := rfl
@[simp] theorem State.enterStage_port (t : Nat) : (s.enterStage t).port = s.port := rfl
@[simp] theorem State.enterStage_arbiter (t : Nat) : (s.enterStage t).arbiter = s.arbiter := rfl
@[simp] theorem State.enterStage_flash (t : Nat) : (s.enterStage t).flash = s.flash := rfl
@[simp] theorem State.enterStage_checker (t : Nat) : (s.enterStage t).checker = s.checker := rfl
@[simp] theorem State.enterStage_window (t : Nat) : (s.enterStage t).window = s.window := rfl
@[simp] theorem State.enterStage_time (t : Nat) : (s.enterStage t).time = s.time := rfl
@[simp] theorem State.enterStage_rst (t : Nat) : (s.enterStage t).rst = s.rst := rfl
@[simp] theorem State.enterStage_anchor (t : Nat) : (s.enterStage t).anchor = s.anchor := rfl
@[simp] theorem State.enterStage_journal (t : Nat) : (s.enterStage t).journal = s.journal := rfl
@[simp] theorem State.enterStage_keys (t : Nat) : (s.enterStage t).keys = s.keys := rfl
@[simp] theorem State.enterStage_signature (t : Nat) : (s.enterStage t).signature = s.signature := rfl
@[simp] theorem State.enterStage_fresh (t : Nat) : (s.enterStage t).fresh = s.fresh := rfl
@[simp] theorem State.enterStage_creds (t : Nat) : (s.enterStage t).creds = s.creds := rfl
@[simp] theorem State.enterStage_update (t : Nat) : (s.enterStage t).update = s.update := rfl
@[simp] theorem State.enterStage_response (t : Nat) : (s.enterStage t).response = s.response := rfl

@[simp] theorem State.beginRegion_pending (r : Region) : (s.beginRegion r).pending = s.pending := rfl
@[simp] theorem State.beginRegion_powered (r : Region) : (s.beginRegion r).powered = s.powered := rfl
@[simp] theorem State.beginRegion_lines (r : Region) : (s.beginRegion r).lines = s.lines := rfl
@[simp] theorem State.beginRegion_port (r : Region) : (s.beginRegion r).port = s.port := rfl
@[simp] theorem State.beginRegion_flash (r : Region) : (s.beginRegion r).flash = s.flash := rfl
@[simp] theorem State.beginRegion_window (r : Region) : (s.beginRegion r).window = s.window := rfl
@[simp] theorem State.beginRegion_time (r : Region) : (s.beginRegion r).time = s.time := rfl
@[simp] theorem State.beginRegion_rst (r : Region) : (s.beginRegion r).rst = s.rst := rfl
@[simp] theorem State.beginRegion_anchor (r : Region) : (s.beginRegion r).anchor = s.anchor := rfl
@[simp] theorem State.beginRegion_journal (r : Region) : (s.beginRegion r).journal = s.journal := rfl
@[simp] theorem State.beginRegion_keys (r : Region) : (s.beginRegion r).keys = s.keys := rfl
@[simp] theorem State.beginRegion_signature (r : Region) : (s.beginRegion r).signature = s.signature := rfl
@[simp] theorem State.beginRegion_fresh (r : Region) : (s.beginRegion r).fresh = s.fresh := rfl
@[simp] theorem State.beginRegion_creds (r : Region) : (s.beginRegion r).creds = s.creds := rfl
@[simp] theorem State.beginRegion_update (r : Region) : (s.beginRegion r).update = s.update := rfl
@[simp] theorem State.beginRegion_response (r : Region) : (s.beginRegion r).response = s.response := rfl

@[simp] theorem State.release_pending : (s.release).pending = s.pending := rfl
@[simp] theorem State.release_powered : (s.release).powered = s.powered := rfl
@[simp] theorem State.release_lines : (s.release).lines = s.lines := rfl
@[simp] theorem State.release_arbiter : (s.release).arbiter = s.arbiter := rfl
@[simp] theorem State.release_flash : (s.release).flash = s.flash := rfl
@[simp] theorem State.release_checker : (s.release).checker = s.checker := rfl
@[simp] theorem State.release_window : (s.release).window = s.window := rfl
@[simp] theorem State.release_time : (s.release).time = s.time := rfl
@[simp] theorem State.release_anchor : (s.release).anchor = s.anchor := rfl
@[simp] theorem State.release_journal : (s.release).journal = s.journal := rfl
@[simp] theorem State.release_keys : (s.release).keys = s.keys := rfl
@[simp] theorem State.release_signature : (s.release).signature = s.signature := rfl
@[simp] theorem State.release_fresh : (s.release).fresh = s.fresh := rfl
@[simp] theorem State.release_creds : (s.release).creds = s.creds := rfl
@[simp] theorem State.release_response : (s.release).response = s.response := rfl

@[simp] theorem State.enterHalt_pending : (s.enterHalt).pending = s.pending := rfl
@[simp] theorem State.enterHalt_powered : (s.enterHalt).powered = s.powered := rfl
@[simp] theorem State.enterHalt_lines : (s.enterHalt).lines = s.lines := rfl
@[simp] theorem State.enterHalt_port : (s.enterHalt).port = s.port := rfl
@[simp] theorem State.enterHalt_arbiter : (s.enterHalt).arbiter = s.arbiter := rfl
@[simp] theorem State.enterHalt_flash : (s.enterHalt).flash = s.flash := rfl
@[simp] theorem State.enterHalt_checker : (s.enterHalt).checker = s.checker := rfl
@[simp] theorem State.enterHalt_window : (s.enterHalt).window = s.window := rfl
@[simp] theorem State.enterHalt_time : (s.enterHalt).time = s.time := rfl
@[simp] theorem State.enterHalt_measure : (s.enterHalt).measure = s.measure := rfl
@[simp] theorem State.enterHalt_journal : (s.enterHalt).journal = s.journal := rfl
@[simp] theorem State.enterHalt_keys : (s.enterHalt).keys = s.keys := rfl
@[simp] theorem State.enterHalt_signature : (s.enterHalt).signature = s.signature := rfl
@[simp] theorem State.enterHalt_fresh : (s.enterHalt).fresh = s.fresh := rfl
@[simp] theorem State.enterHalt_creds : (s.enterHalt).creds = s.creds := rfl
@[simp] theorem State.enterHalt_update : (s.enterHalt).update = s.update := rfl
@[simp] theorem State.enterHalt_response : (s.enterHalt).response = s.response := rfl

@[simp] theorem State.passPassed_pending : (s.passPassed).pending = s.pending := rfl
@[simp] theorem State.passPassed_powered : (s.passPassed).powered = s.powered := rfl
@[simp] theorem State.passPassed_lines : (s.passPassed).lines = s.lines := rfl
@[simp] theorem State.passPassed_port : (s.passPassed).port = s.port := rfl
@[simp] theorem State.passPassed_arbiter : (s.passPassed).arbiter = s.arbiter := rfl
@[simp] theorem State.passPassed_flash : (s.passPassed).flash = s.flash := rfl
@[simp] theorem State.passPassed_checker : (s.passPassed).checker = s.checker := rfl
@[simp] theorem State.passPassed_window : (s.passPassed).window = s.window := rfl
@[simp] theorem State.passPassed_time : (s.passPassed).time = s.time := rfl
@[simp] theorem State.passPassed_rst : (s.passPassed).rst = s.rst := rfl
@[simp] theorem State.passPassed_measure : (s.passPassed).measure = s.measure := rfl
@[simp] theorem State.passPassed_anchor : (s.passPassed).anchor = s.anchor := rfl
@[simp] theorem State.passPassed_journal : (s.passPassed).journal = s.journal := rfl
@[simp] theorem State.passPassed_keys : (s.passPassed).keys = s.keys := rfl
@[simp] theorem State.passPassed_signature : (s.passPassed).signature = s.signature := rfl
@[simp] theorem State.passPassed_fresh : (s.passPassed).fresh = s.fresh := rfl
@[simp] theorem State.passPassed_creds : (s.passPassed).creds = s.creds := rfl
@[simp] theorem State.passPassed_update : (s.passPassed).update = s.update := rfl

@[simp] theorem State.enterRequest_pending : (s.enterRequest).pending = s.pending := rfl
@[simp] theorem State.enterRequest_powered : (s.enterRequest).powered = s.powered := rfl
@[simp] theorem State.enterRequest_lines : (s.enterRequest).lines = s.lines := rfl
@[simp] theorem State.enterRequest_port : (s.enterRequest).port = s.port := rfl
@[simp] theorem State.enterRequest_arbiter : (s.enterRequest).arbiter = s.arbiter := rfl
@[simp] theorem State.enterRequest_flash : (s.enterRequest).flash = s.flash := rfl
@[simp] theorem State.enterRequest_checker : (s.enterRequest).checker = s.checker := rfl
@[simp] theorem State.enterRequest_window : (s.enterRequest).window = s.window := rfl
@[simp] theorem State.enterRequest_time : (s.enterRequest).time = s.time := rfl
@[simp] theorem State.enterRequest_measure : (s.enterRequest).measure = s.measure := rfl
@[simp] theorem State.enterRequest_anchor : (s.enterRequest).anchor = s.anchor := rfl
@[simp] theorem State.enterRequest_journal : (s.enterRequest).journal = s.journal := rfl
@[simp] theorem State.enterRequest_keys : (s.enterRequest).keys = s.keys := rfl
@[simp] theorem State.enterRequest_signature : (s.enterRequest).signature = s.signature := rfl
@[simp] theorem State.enterRequest_fresh : (s.enterRequest).fresh = s.fresh := rfl
@[simp] theorem State.enterRequest_creds : (s.enterRequest).creds = s.creds := rfl
@[simp] theorem State.enterRequest_update : (s.enterRequest).update = s.update := rfl
@[simp] theorem State.enterRequest_response : (s.enterRequest).response = s.response := rfl

@[simp] theorem State.enterPulse_pending (w : Bool) : (s.enterPulse w).pending = s.pending := rfl
@[simp] theorem State.enterPulse_powered (w : Bool) : (s.enterPulse w).powered = s.powered := rfl
@[simp] theorem State.enterPulse_lines (w : Bool) : (s.enterPulse w).lines = s.lines := rfl
@[simp] theorem State.enterPulse_port (w : Bool) : (s.enterPulse w).port = s.port := rfl
@[simp] theorem State.enterPulse_arbiter (w : Bool) : (s.enterPulse w).arbiter = s.arbiter := rfl
@[simp] theorem State.enterPulse_flash (w : Bool) : (s.enterPulse w).flash = s.flash := rfl
@[simp] theorem State.enterPulse_checker (w : Bool) : (s.enterPulse w).checker = s.checker := rfl
@[simp] theorem State.enterPulse_window (w : Bool) : (s.enterPulse w).window = s.window := rfl
@[simp] theorem State.enterPulse_time (w : Bool) : (s.enterPulse w).time = s.time := rfl
@[simp] theorem State.enterPulse_rst (w : Bool) : (s.enterPulse w).rst = { s.rst with state := .pulse, pulse := some (s.timer pulseSpan), pulseWait := w } := rfl
@[simp] theorem State.enterPulse_measure (w : Bool) : (s.enterPulse w).measure = s.measure := rfl
@[simp] theorem State.enterPulse_anchor (w : Bool) : (s.enterPulse w).anchor = s.anchor := rfl
@[simp] theorem State.enterPulse_journal (w : Bool) : (s.enterPulse w).journal = s.journal := rfl
@[simp] theorem State.enterPulse_keys (w : Bool) : (s.enterPulse w).keys = s.keys := rfl
@[simp] theorem State.enterPulse_signature (w : Bool) : (s.enterPulse w).signature = s.signature := rfl
@[simp] theorem State.enterPulse_fresh (w : Bool) : (s.enterPulse w).fresh = s.fresh := rfl
@[simp] theorem State.enterPulse_creds (w : Bool) : (s.enterPulse w).creds = s.creds := rfl
@[simp] theorem State.enterPulse_update (w : Bool) : (s.enterPulse w).update = s.update := rfl
@[simp] theorem State.enterPulse_response (w : Bool) : (s.enterPulse w).response = s.response := rfl

@[simp] theorem State.draw_pending (n : Nat) : (s.draw n).pending = s.pending := rfl
@[simp] theorem State.draw_powered (n : Nat) : (s.draw n).powered = s.powered := rfl
@[simp] theorem State.draw_lines (n : Nat) : (s.draw n).lines = s.lines := rfl
@[simp] theorem State.draw_port (n : Nat) : (s.draw n).port = s.port := rfl
@[simp] theorem State.draw_arbiter (n : Nat) : (s.draw n).arbiter = s.arbiter := rfl
@[simp] theorem State.draw_flash (n : Nat) : (s.draw n).flash = s.flash := rfl
@[simp] theorem State.draw_checker (n : Nat) : (s.draw n).checker = s.checker := rfl
@[simp] theorem State.draw_window (n : Nat) : (s.draw n).window = s.window := rfl
@[simp] theorem State.draw_time (n : Nat) : (s.draw n).time = s.time := rfl
@[simp] theorem State.draw_rst (n : Nat) : (s.draw n).rst = s.rst := rfl
@[simp] theorem State.draw_measure (n : Nat) : (s.draw n).measure = s.measure := rfl
@[simp] theorem State.draw_anchor (n : Nat) : (s.draw n).anchor = s.anchor := rfl
@[simp] theorem State.draw_journal (n : Nat) : (s.draw n).journal = s.journal := rfl
@[simp] theorem State.draw_keys (n : Nat) : (s.draw n).keys = s.keys := rfl
@[simp] theorem State.draw_signature (n : Nat) : (s.draw n).signature = s.signature := rfl
@[simp] theorem State.draw_fresh (n : Nat) : (s.draw n).fresh = s.fresh + n := rfl
@[simp] theorem State.draw_creds (n : Nat) : (s.draw n).creds = s.creds := rfl
@[simp] theorem State.draw_update (n : Nat) : (s.draw n).update = s.update := rfl
@[simp] theorem State.draw_response (n : Nat) : (s.draw n).response = s.response := rfl

@[simp] theorem State.goTo_pending (job : Job) (st : JobStep) (op : FlashOp) : (s.goTo job st op).pending = s.pending := rfl
@[simp] theorem State.goTo_powered (job : Job) (st : JobStep) (op : FlashOp) : (s.goTo job st op).powered = s.powered := rfl
@[simp] theorem State.goTo_lines (job : Job) (st : JobStep) (op : FlashOp) : (s.goTo job st op).lines = s.lines := rfl
@[simp] theorem State.goTo_port (job : Job) (st : JobStep) (op : FlashOp) : (s.goTo job st op).port = s.port := rfl
@[simp] theorem State.goTo_arbiter (job : Job) (st : JobStep) (op : FlashOp) : (s.goTo job st op).arbiter = s.arbiter.setRequest .journal (some op) := rfl
@[simp] theorem State.goTo_flash (job : Job) (st : JobStep) (op : FlashOp) : (s.goTo job st op).flash = s.flash := rfl
@[simp] theorem State.goTo_checker (job : Job) (st : JobStep) (op : FlashOp) : (s.goTo job st op).checker = s.checker := rfl
@[simp] theorem State.goTo_window (job : Job) (st : JobStep) (op : FlashOp) : (s.goTo job st op).window = s.window := rfl
@[simp] theorem State.goTo_time (job : Job) (st : JobStep) (op : FlashOp) : (s.goTo job st op).time = s.time := rfl
@[simp] theorem State.goTo_rst (job : Job) (st : JobStep) (op : FlashOp) : (s.goTo job st op).rst = s.rst := rfl
@[simp] theorem State.goTo_measure (job : Job) (st : JobStep) (op : FlashOp) : (s.goTo job st op).measure = s.measure := rfl
@[simp] theorem State.goTo_anchor (job : Job) (st : JobStep) (op : FlashOp) : (s.goTo job st op).anchor = s.anchor := rfl
@[simp] theorem State.goTo_journal (job : Job) (st : JobStep) (op : FlashOp) : (s.goTo job st op).journal = { s.journal with job := some { job with step := st } } := rfl
@[simp] theorem State.goTo_keys (job : Job) (st : JobStep) (op : FlashOp) : (s.goTo job st op).keys = s.keys := rfl
@[simp] theorem State.goTo_signature (job : Job) (st : JobStep) (op : FlashOp) : (s.goTo job st op).signature = s.signature := rfl
@[simp] theorem State.goTo_fresh (job : Job) (st : JobStep) (op : FlashOp) : (s.goTo job st op).fresh = s.fresh := rfl
@[simp] theorem State.goTo_creds (job : Job) (st : JobStep) (op : FlashOp) : (s.goTo job st op).creds = s.creds := rfl
@[simp] theorem State.goTo_update (job : Job) (st : JobStep) (op : FlashOp) : (s.goTo job st op).update = s.update := rfl
@[simp] theorem State.goTo_response (job : Job) (st : JobStep) (op : FlashOp) : (s.goTo job st op).response = s.response := rfl

@[simp] theorem State.withFound_pending (f : Found) : (s.withFound f).pending = s.pending := rfl
@[simp] theorem State.withFound_powered (f : Found) : (s.withFound f).powered = s.powered := rfl
@[simp] theorem State.withFound_lines (f : Found) : (s.withFound f).lines = s.lines := rfl
@[simp] theorem State.withFound_port (f : Found) : (s.withFound f).port = s.port := rfl
@[simp] theorem State.withFound_arbiter (f : Found) : (s.withFound f).arbiter = s.arbiter := rfl
@[simp] theorem State.withFound_flash (f : Found) : (s.withFound f).flash = s.flash := rfl
@[simp] theorem State.withFound_checker (f : Found) : (s.withFound f).checker = s.checker := rfl
@[simp] theorem State.withFound_window (f : Found) : (s.withFound f).window = s.window := rfl
@[simp] theorem State.withFound_time (f : Found) : (s.withFound f).time = s.time := rfl
@[simp] theorem State.withFound_rst (f : Found) : (s.withFound f).rst = s.rst := rfl
@[simp] theorem State.withFound_measure (f : Found) : (s.withFound f).measure = s.measure := rfl
@[simp] theorem State.withFound_anchor (f : Found) : (s.withFound f).anchor = s.anchor := rfl
@[simp] theorem State.withFound_keys (f : Found) : (s.withFound f).keys = s.keys := rfl
@[simp] theorem State.withFound_signature (f : Found) : (s.withFound f).signature = s.signature := rfl
@[simp] theorem State.withFound_fresh (f : Found) : (s.withFound f).fresh = s.fresh := rfl
@[simp] theorem State.withFound_creds (f : Found) : (s.withFound f).creds = s.creds := rfl
@[simp] theorem State.withFound_update (f : Found) : (s.withFound f).update = s.update := rfl
@[simp] theorem State.withFound_response (f : Found) : (s.withFound f).response = s.response := rfl

@[simp] theorem State.probe_pending (area : Capacity) (h0 h1 : Memory) (k : Nat) : (s.probe area h0 h1 k).pending = s.pending := rfl
@[simp] theorem State.probe_powered (area : Capacity) (h0 h1 : Memory) (k : Nat) : (s.probe area h0 h1 k).powered = s.powered := rfl
@[simp] theorem State.probe_lines (area : Capacity) (h0 h1 : Memory) (k : Nat) : (s.probe area h0 h1 k).lines = s.lines := rfl
@[simp] theorem State.probe_port (area : Capacity) (h0 h1 : Memory) (k : Nat) : (s.probe area h0 h1 k).port = s.port := rfl
@[simp] theorem State.probe_flash (area : Capacity) (h0 h1 : Memory) (k : Nat) : (s.probe area h0 h1 k).flash = s.flash := rfl
@[simp] theorem State.probe_checker (area : Capacity) (h0 h1 : Memory) (k : Nat) : (s.probe area h0 h1 k).checker = s.checker := rfl
@[simp] theorem State.probe_window (area : Capacity) (h0 h1 : Memory) (k : Nat) : (s.probe area h0 h1 k).window = s.window := rfl
@[simp] theorem State.probe_time (area : Capacity) (h0 h1 : Memory) (k : Nat) : (s.probe area h0 h1 k).time = s.time := rfl
@[simp] theorem State.probe_rst (area : Capacity) (h0 h1 : Memory) (k : Nat) : (s.probe area h0 h1 k).rst = s.rst := rfl
@[simp] theorem State.probe_measure (area : Capacity) (h0 h1 : Memory) (k : Nat) : (s.probe area h0 h1 k).measure = s.measure := rfl
@[simp] theorem State.probe_anchor (area : Capacity) (h0 h1 : Memory) (k : Nat) : (s.probe area h0 h1 k).anchor = s.anchor := rfl
@[simp] theorem State.probe_journal (area : Capacity) (h0 h1 : Memory) (k : Nat) : (s.probe area h0 h1 k).journal = { s.journal with scan := some (.probing area h0 h1 k) } := rfl
@[simp] theorem State.probe_keys (area : Capacity) (h0 h1 : Memory) (k : Nat) : (s.probe area h0 h1 k).keys = s.keys := rfl
@[simp] theorem State.probe_signature (area : Capacity) (h0 h1 : Memory) (k : Nat) : (s.probe area h0 h1 k).signature = s.signature := rfl
@[simp] theorem State.probe_fresh (area : Capacity) (h0 h1 : Memory) (k : Nat) : (s.probe area h0 h1 k).fresh = s.fresh := rfl
@[simp] theorem State.probe_creds (area : Capacity) (h0 h1 : Memory) (k : Nat) : (s.probe area h0 h1 k).creds = s.creds := rfl
@[simp] theorem State.probe_update (area : Capacity) (h0 h1 : Memory) (k : Nat) : (s.probe area h0 h1 k).update = s.update := rfl
@[simp] theorem State.probe_response (area : Capacity) (h0 h1 : Memory) (k : Nat) : (s.probe area h0 h1 k).response = s.response := rfl

@[simp] theorem State.chunkDone_pending (r : Requester) : (s.chunkDone r).pending = s.pending := rfl
@[simp] theorem State.chunkDone_powered (r : Requester) : (s.chunkDone r).powered = s.powered := rfl
@[simp] theorem State.chunkDone_lines (r : Requester) : (s.chunkDone r).lines = s.lines := rfl
@[simp] theorem State.chunkDone_port (r : Requester) : (s.chunkDone r).port = s.port := rfl
@[simp] theorem State.chunkDone_arbiter (r : Requester) : (s.chunkDone r).arbiter = { s.arbiter.setRequest r none with grant := .free } := rfl
@[simp] theorem State.chunkDone_flash (r : Requester) : (s.chunkDone r).flash = s.flash := rfl
@[simp] theorem State.chunkDone_checker (r : Requester) : (s.chunkDone r).checker = s.checker := rfl
@[simp] theorem State.chunkDone_window (r : Requester) : (s.chunkDone r).window = s.window := rfl
@[simp] theorem State.chunkDone_time (r : Requester) : (s.chunkDone r).time = s.time := rfl
@[simp] theorem State.chunkDone_rst (r : Requester) : (s.chunkDone r).rst = s.rst := rfl
@[simp] theorem State.chunkDone_measure (r : Requester) : (s.chunkDone r).measure = s.measure := rfl
@[simp] theorem State.chunkDone_anchor (r : Requester) : (s.chunkDone r).anchor = s.anchor := rfl
@[simp] theorem State.chunkDone_journal (r : Requester) : (s.chunkDone r).journal = s.journal := rfl
@[simp] theorem State.chunkDone_keys (r : Requester) : (s.chunkDone r).keys = s.keys := rfl
@[simp] theorem State.chunkDone_signature (r : Requester) : (s.chunkDone r).signature = s.signature := rfl
@[simp] theorem State.chunkDone_fresh (r : Requester) : (s.chunkDone r).fresh = s.fresh := rfl
@[simp] theorem State.chunkDone_creds (r : Requester) : (s.chunkDone r).creds = s.creds := rfl
@[simp] theorem State.chunkDone_update (r : Requester) : (s.chunkDone r).update = s.update := rfl
@[simp] theorem State.chunkDone_response (r : Requester) : (s.chunkDone r).response = s.response := rfl

end Sys2Proof.Machine
end

