-- ==== Sys2Proof/Laws/Response.lean ====
section
/-! SUPPORT. What the shared operations of the Response Unit and the store request queue can do, said once:
each differs from the state before it only as `ResponseOnly` allows. -/

namespace Sys2Proof.Machine

theorem ResponseOnly.refl (s : State) : ResponseOnly s s := by
  constructor <;> first | rfl | exact fun _ h => h | exact .inl rfl

theorem ResponseOnly.trans {s t u : State} (h : ResponseOnly s t) (k : ResponseOnly t u) : ResponseOnly s u where
  pending := k.pending.trans h.pending
  powered := k.powered.trans h.powered
  lines := k.lines.trans h.lines
  port := k.port.trans h.port
  arbiter := k.arbiter.trans h.arbiter
  flash := k.flash.trans h.flash
  time := k.time.trans h.time
  rst := k.rst.trans h.rst
  measure := k.measure.trans h.measure
  anchor := k.anchor.trans h.anchor
  signature := k.signature.trans h.signature
  fresh := k.fresh.trans h.fresh
  update := k.update.trans h.update
  window := by rw [k.window, h.window]
  events := fun i x => k.events i (h.events i x)
  checker := by rw [k.checker, h.checker]
  hides := fun i x => k.hides i (h.hides i x)
  keys := by rw [k.keys, h.keys]
  disables := fun i x => k.disables i (h.disables i x)
  records := k.records.trans h.records
  grant := by
    rcases k.grant with e | e
    · rw [e]; exact h.grant
    · exact .inr e
  journal := by rw [k.journal, h.journal]
  causes := fun i x => k.causes i (h.causes i x)
  table := k.table.trans h.table
  armed := k.armed.trans h.armed
  offered := k.offered.trans h.offered

/-- A set of bits only grows when an index is added. -/
theorem addTo_keeps {w : Nat} (x : BitVec w) (n k : Nat) (h : x.getLsbD k = true) :
    (addTo x n).getLsbD k = true := by
  simp [addTo, h]

/-- The index added is in the set. -/
theorem addTo_has {w : Nat} (x : BitVec w) (n : Nat) (h : n < w) : (addTo x n).getLsbD n = true := by
  simp [addTo, h]

theorem raise_only (s : State) (e : Event) : ResponseOnly s (s.raise e) := by
  constructor <;> first | rfl | exact fun _ h => h | exact .inl rfl | exact fun _ h => addTo_keeps _ _ _ h

theorem clearGrant_only (s : State) : ResponseOnly s s.clearGrant := by
  constructor <;> first | rfl | exact fun _ h => h | exact .inr rfl

theorem contain_only (s : State) (c : ContainCause) : ResponseOnly s (s.contain c) := by
  by_cases hi : inSet s.response.causes c.bit = true <;> by_cases hl : s.response.latch = true <;>
    simp only [State.contain, hi, hl] <;>
    constructor <;>
    first
      | rfl
      | exact fun _ h => h
      | exact .inl rfl
      | exact .inr rfl
      | exact fun _ h => addTo_keeps _ _ _ h

/-! ### Store requests -/

/-- The state with another queue and other held requests. -/
def State.withRequests (s : State) (queue : List StoreRequest) (held : List HeldRequest) : State :=
  { s with journal := { s.journal with queue := queue, held := held } }

theorem placeHeld_eq (s : State) (hs : List HeldRequest) :
    ∃ queue held, State.placeHeld s hs = s.withRequests queue held := by
  induction hs generalizing s with
  | nil => exact ⟨s.journal.queue, s.journal.held, rfl⟩
  | cons h rest ih =>
    simp only [State.placeHeld]
    split
    · obtain ⟨q, w, e⟩ := ih ({ s with journal := { s.journal with held := s.journal.held ++ [h] } })
      exact ⟨q, w, e⟩
    · obtain ⟨q, w, e⟩ := ih
        ({ s with journal := { s.journal with queue := s.journal.queue ++ [s.makeRequest h.purpose h.live] } })
      exact ⟨q, w, e⟩

/-- Placing what can be placed changes the queue and the held requests alone. -/
theorem pumpRequests_eq (s : State) : ∃ queue held, s.pumpRequests = s.withRequests queue held := by
  obtain ⟨q, w, e⟩ := placeHeld_eq ({ s with journal := { s.journal with held := [] } }) s.journal.held
  exact ⟨q, w, e⟩

/-- Placing a request changes the queue and the held requests alone. -/
theorem place_eq (s : State) (p : Purpose) (live : Bool) :
    ∃ queue held, s.place p live = s.withRequests queue held := by
  obtain ⟨q, w, e⟩ :=
    pumpRequests_eq ({ s with journal := { s.journal with held := s.journal.held ++ [⟨p, live⟩] } })
  exact ⟨q, w, e⟩

theorem withRequests_only (s : State) (q : List StoreRequest) (w : List HeldRequest) :
    ResponseOnly s (s.withRequests q w) := by
  constructor <;> first | rfl | exact fun _ h => h | exact .inl rfl

theorem place_only (s : State) (p : Purpose) (live : Bool) : ResponseOnly s (s.place p live) := by
  obtain ⟨q, w, e⟩ := place_eq s p live
  exact e ▸ withRequests_only s q w

/-! ### Actions and offers -/

theorem eraseList_only (s : State) (ids : List Nat) :
    ResponseOnly s { s with response := { s.response with eraseList := ids } } := by
  constructor <;> first | rfl | exact fun _ h => h | exact .inl rfl

theorem fired_only (s : State) (f : Byte) :
    ResponseOnly s { s with response := { s.response with fired := f } } := by
  constructor <;> first | rfl | exact fun _ h => h | exact .inl rfl

theorem pumpErase_only (s : State) : ResponseOnly s s.pumpErase := by
  simp only [State.pumpErase]
  split
  · exact .refl s
  · split
    · exact (eraseList_only s _).trans (place_only _ _ _)
    · exact eraseList_only s []

theorem act_only (s : State) (a : Action) : ResponseOnly s (s.act a) := by
  cases a with
  | alert => exact .refl s
  | hideRegion r =>
    constructor <;> first | rfl | exact fun _ h => h | exact .inl rfl | exact fun _ h => addTo_keeps _ _ _ h
  | disableSlot n =>
    constructor <;> first | rfl | exact fun _ h => h | exact .inl rfl | exact fun _ h => addTo_keeps _ _ _ h
  | contain => exact contain_only s .response
  | revokeGrant => exact clearGrant_only s
  | eraseCredential id => exact (eraseList_only s _).trans (pumpErase_only _)

theorem judge_only (src : Source) (before after : Nat) (s : State) (e : ResponseEntry × Nat) :
    ResponseOnly s (State.judge src before after s e) := by
  simp only [State.judge]
  split
  · exact ((fired_only s _).trans (act_only _ _)).trans (raise_only _ _)
  · exact .refl s

theorem judgeAll_only (src : Source) (before after : Nat) (es : List (ResponseEntry × Nat)) (s : State) :
    ResponseOnly s (es.foldl (State.judge src before after) s) := by
  induction es generalizing s with
  | nil => exact .refl s
  | cons e rest ih => exact (judge_only src before after s e).trans (ih _)

/-- An offer reaches no further than the Response Unit's actions. -/
theorem offer_only (s : State) (src : Source) (before after : Nat) : ResponseOnly s (s.offer src before after) := by
  simp only [State.offer]
  split
  · exact judgeAll_only src before after _ s
  · exact .refl s

theorem offerChange_only (s : State) (src : Source) (before after : Word16) :
    ResponseOnly s (s.offerChange src before after) := by
  simp only [State.offerChange]
  split
  · exact .refl s
  · exact offer_only _ _ _ _

/-- An offer made while no table is armed changes nothing (11 R168). -/
theorem offer_unarmed (s : State) (src : Source) (before after : Nat) (h : s.response.armed = false) :
    s.offer src before after = s := by
  simp [State.offer, h]

/-- A violation recorded: the checker takes the record, and beyond it only the Response Unit acts
(02 R36). -/
theorem violate_only (s : State) (kind : ViolationKind) (cls : OpClass) (p : Nat) (region : Option Nat) :
    ResponseOnly
      (State.raise { s with checker := s.checker.record kind cls p region s.measure.stage s.time.uptime } .violation)
      (s.violate kind cls p region) := by
  simp only [State.violate]
  refine ResponseOnly.trans ?_ (offerChange_only _ _ _ _)
  cases region <;> exact offerChange_only _ _ _ _

end Sys2Proof.Machine
end

