-- ==== Sys2Proof/Laws/Measure.lean ====
section
/-! SUPPORT. What taking a digest, the release, HALT and the recovery image leave, said once. -/

namespace Sys2Proof.Machine

/-- The saturating counter, written out (05 R71). -/
theorem bump_eq (c : Word16) : bump c = if c = 65535 then 65535 else c + 1 := by
  unfold bump; split <;> simp_all

/-- Entering HALT (04 R63). -/
theorem enterHalt_eq_halted (s : State) : s.enterHalt = s.halted := by
  simp only [State.enterHalt, State.halted, ResetController.recordCause, ResetController.count,
    ResetCause.index, ResetCause.code]
  have hb := bump_eq s.rst.counts[5]
  have hv : ∀ x, s.rst.counts.setIfInBounds 5 x = s.rst.counts.set 5 x := by
    intro x; apply Vector.ext; intro i hi; simp [Vector.getElem_setIfInBounds, Vector.getElem_set]
  simp [hb, hv, ← BitVec.ofNat_eq_ofNat]

/-- The release of the SoC (04 R59). -/
theorem release_eq_released (s : State) : s.release = s.released := by
  simp only [State.release, State.released, State.enterStage, State.seconds, State.trialSeconds]
  cases s.checker.layout <;> rfl

/-- The check reaches the recovery image (05 R77). -/
theorem measureRecovery_eq_recovering (s : State) (l : Layout) (rec : Region) (hl : s.checker.layout = some l)
    (hr : l.recovery = some rec) (h0 : rec.length ≠ 0) : s.measureRecovery = s.recovering rec := by
  have hk : rec.kind = .recovery := by
    have := List.find?_some hr; simpa using this
  simp only [State.measureRecovery, hl, Option.bind, hr, if_neg h0]
  simp only [State.beginRegion, State.measuredRange, hk, State.recovering]
  simp [State.askFlash, State.freeze, Arbiter.setRequest, nextChunk, chunkLength, addTo]

/-- The base and length measured are those the rules give (05 R70, 09 R140). -/
theorem measuredRange_hashed (s : State) (l : Layout) (g : Region) (hl : s.checker.layout = some l) : s.measuredRange g = l.hashed s.update.record s.update.presented g := by
    simp only [State.measuredRange, Layout.hashed, State.presentedImage, hl]
    cases g.kind with
    | banked =>
      simp only [BankInfo.image, Layout.imageIndex, Prod.mk.injEq]
      constructor
      · cases s.update.presented <;> rfl
      · rw [List.getD_eq_getElem?_getD]
        cases ((s.update.record.bank s.update.presented).images : List Image)[List.idxOf g.index l.banked]? <;> rfl
    | stage => rfl
    | plain => rfl
    | recovery => rfl

/-- A region's measurement begins (05 R70, 02 R31). -/
theorem beginRegion_begun (s : State) (l : Layout) (g : Region) (hl : s.checker.layout = some l) :
    s.beginRegion g = s.begun l g := by
  simp only [State.beginRegion, measuredRange_hashed s l g hl]
  rfl

/-- A region found under an index has it. -/
theorem index_of_region? {l : Layout} {i : Nat} {g : Region} (h : l.region? i = some g) : g.index = i := by
  have := List.find?_some h; simpa using this

/-- A mismatch is counted and raised, and beyond that only the Response Unit acts (05 R71). -/
theorem mismatch_compared (t : State) : Compared True t t.mismatch := by
  refine ⟨fun h => absurd trivial h, fun _ => ⟨addTo_has _ _ (by decide), ?_⟩⟩
  rw [← bump_eq]
  exact (offerChange_only _ _ _ _).trans (raise_only _ _)

/-- A region's digest is taken into its slot and compared with its reference (05 R67, R68, R71). -/
theorem takeDigest_compared (s : State) (r : Region) (slot : Nat) (kind : ExtendKind) (stage : Nat) (d : Digest) :
    Compared (s.differs r d = true)
      (State.extend { s with measure := { s.measure with current := none } } slot kind r.index stage d)
      (s.takeDigest r slot kind stage d) := by
  simp only [State.takeDigest]
  refine ⟨fun h => if_neg h, fun h => ?_⟩
  rw [if_pos h]
  exact (mismatch_compared _).2 trivial

end Sys2Proof.Machine
end

