-- ==== Sys2Proof/Laws/Window.lean ====
section
/-! SUPPORT. What taking a window command, completing it and asking the Journal Store for it do, each said
once. -/

namespace Sys2Proof.Machine

/-- The command a block is handed is the one in the engine. -/
theorem hands_command {s : State} {c : Command} {body : Bytes} (h : s.hands c body) :
    s.window.command = some { command := c, body := body, taken := false } := h.2

/-- A block that is handed a command takes it with its body. -/
theorem take_of_hands {s : State} {c : Command} {body : Bytes} (h : s.hands c body) (f : Bytes → State) :
    s.take c f = f body := by
  simp [State.take, Window.handed, h.1, h.2]

/-- A block that is handed a command and waits leaves it taken. -/
theorem wait_of_hands {s : State} {c : Command} {body : Bytes} (h : s.hands c body) :
    s.wait = s.waiting c body := by
  simp [State.wait, State.waiting, h.2]

/-- The completion of a command that is not EVENTS (03 R47). -/
theorem finish_eq_posted {s : State} {x : Running} (h : s.window.command = some x) (hx : x.command ≠ .events)
    (r : Result) (body : Bytes) : s.finish r body = s.posted r.code body := by
  have he : (x.command == Command.events) = false := by simpa using hx
  simp [State.finish, Window.complete, State.posted, Window.raise, h, he]
  rfl

/-- The completion of EVENTS raises nothing (03 R52). -/
theorem finish_of_events {s : State} {x : Running} (h : s.window.command = some x) (hx : x.command = .events)
    (r : Result) (body : Bytes) :
    s.finish r body = { s with window := { s.window with
      engine := .done, result := r.code, body := body, command := none } } := by
  simp [State.finish, Window.complete, h, hx]

/-- What a completion leaves in the window, whatever the command. -/
theorem finish_window (s : State) (r : Result) (body : Bytes) :
    (s.finish r body).window.engine = .done ∧ (s.finish r body).window.result = r.code ∧
      (s.finish r body).window.body = body ∧ (s.finish r body).window.command = none ∧
      (s.finish r body).window.request = s.window.request ∧ (s.finish r body).window.mask = s.window.mask ∧
      (s.finish r body).window.overrun = s.window.overrun ∧ (s.finish r body).window.tag = s.window.tag := by
  have key : ∀ isEvents : Bool, ∀ w : Window, w.engine = .done → w.result = r.code → w.body = body →
      w.command = none → w.request = s.window.request → w.mask = s.window.mask → w.overrun = s.window.overrun →
      w.tag = s.window.tag →
      let t := if isEvents then w else w.raise .done
      t.engine = .done ∧ t.result = r.code ∧ t.body = body ∧ t.command = none ∧ t.request = s.window.request ∧
        t.mask = s.window.mask ∧ t.overrun = s.window.overrun ∧ t.tag = s.window.tag := by
    intro isEvents w h1 h2 h3 h4 h5 h6 h7 h8
    cases isEvents <;> exact ⟨h1, h2, h3, h4, h5, h6, h7, h8⟩
  exact key _ _ rfl rfl rfl rfl rfl rfl rfl rfl

/-- A completion changes the window alone. -/
theorem finish_eq (s : State) (r : Result) (body : Bytes) :
    s.finish r body = { s with window := (s.finish r body).window } := rfl

/-! ### Store requests -/

/-- With every held request waiting for an earlier one of its source, none of them can be placed. -/
theorem placeHeld_stuck (s : State) (hs : List HeldRequest)
    (h : ∀ x ∈ hs, s.journal.outstanding x.purpose.source = true) :
    State.placeHeld s hs = { s with journal := { s.journal with held := s.journal.held ++ hs } } := by
  induction hs generalizing s with
  | nil => simp [State.placeHeld]
  | cons x rest ih =>
    have hx := h x (List.mem_cons_self ..)
    simp only [State.placeHeld, hx, Bool.true_or, if_true]
    rw [ih]
    · simp
    · intro y hy
      exact h y (List.mem_cons_of_mem _ hy)

theorem placeHeld_append (s : State) (xs ys : List HeldRequest) :
    State.placeHeld s (xs ++ ys) = State.placeHeld (State.placeHeld s xs) ys := by
  induction xs generalizing s with
  | nil => rfl
  | cons x rest ih => simp only [List.cons_append, State.placeHeld, ih]

/-- A request whose source has one outstanding is held (06 R90). -/
theorem place_held {s : State} {p : Purpose} {live : Bool}
    (hs : ∀ h ∈ s.journal.held, s.journal.outstanding h.purpose.source = true)
    (hp : s.journal.outstanding p.source = true) :
    s.place p live = { s with journal := { s.journal with held := s.journal.held ++ [⟨p, live⟩] } } := by
  simp only [State.place, State.pumpRequests]
  rw [placeHeld_stuck]
  · simp
  · intro x hx
    simp only [List.mem_append, List.mem_singleton] at hx
    rcases hx with hx | rfl
    · exact hs x hx
    · exact hp

/-- A request whose source has none outstanding joins the queue's end (06 R90). -/
theorem place_queued {s : State} {p : Purpose} {live : Bool}
    (hs : ∀ h ∈ s.journal.held, s.journal.outstanding h.purpose.source = true)
    (hp : s.journal.outstanding p.source = false) :
    s.place p live = s.queued (s.makeRequest p live) := by
  have hne : s.journal.held.any (fun x => x.purpose.source == p.source) = false := by
    simp only [List.any_eq_false, beq_iff_eq]
    intro x hx e
    have := hs x hx
    simp [e, hp] at this
  have hout : ∀ held, ({ s.journal with held := held } : Journal).outstanding p.source = false := fun _ => hp
  have hstuck := placeHeld_stuck { s with journal := { s.journal with held := [] } } s.journal.held hs
  simp only [State.place, State.pumpRequests, placeHeld_append, State.placeHeld]
  simp only [List.nil_append] at hstuck
  rw [hstuck]
  simp only [hout, hne, Bool.or_self, if_false, Bool.false_eq_true]
  rfl

/-- A request of a source that has none, held or outstanding, joins the queue's end (06 R90). -/
theorem place_free {s : State} {p : Purpose} {live : Bool} (h : s.journal.freeFor p.source) :
    s.place p live = s.queued (s.makeRequest p live) := place_queued h.2 h.1

end Sys2Proof.Machine
end

