-- ==== Sys2Proof/Laws/Reset.lean ====
section
/-! SUPPORT. What the assertion of SOC_RST and an entry into CHECK leave, said once. -/

namespace Sys2Proof.Machine

/-! ### The Flash Port -/

theorem withdraw_eq (s : State) (r : Requester) : s.withdraw r = { s with arbiter := (s.withdraw r).arbiter } := rfl

/-- The SoC Port turning idle changes the Flash Port Arbiter alone (01 R14 ~ R16). -/
theorem portIdle_eq (s : State) : s.portIdle = { s with arbiter := s.portIdle.arbiter } := rfl

/-- What the SoC Port turning idle does to the Flash Port Arbiter, then the Measurement Unit and with an open session
the Update Controller withdrawing their read chunks. -/
theorem flashPortReset_of_arbiter {s t : State}
    (h : t.arbiter = if s.update.session.isOpen then (s.portIdle.arbiter.withdraw .measure).withdraw .update
      else s.portIdle.arbiter.withdraw .measure) : FlashPortReset s t := by
  refine ⟨fun hg => ⟨fun r op hs ho => ?_, fun w hs hw => ?_, fun hs hw => ?_⟩, fun hg => ?_, fun w hg => ?_,
    fun r op hg ho => ?_, fun r a n hg => ?_, fun a n hg => ?_, fun a n hg => ?_⟩ <;> rw [h]
  · cases op <;> first
      | exact absurd rfl (ho _ _)
      | (cases s.update.session.isOpen <;>
          simp [State.portIdle, Arbiter.portIdle, hg, hs, Arbiter.withdraw, Grant.withdrawn, Arbiter.setRequest])
  · cases s.update.session.isOpen <;>
      simp [State.portIdle, Arbiter.portIdle, hg, hs, hw, Arbiter.withdraw, Grant.withdrawn, Arbiter.setRequest]
  · cases s.update.session.isOpen <;>
      simp [State.portIdle, Arbiter.portIdle, hg, hs, hw, Arbiter.withdraw, Grant.withdrawn, Arbiter.setRequest]
  · cases s.update.session.isOpen <;>
      simp [State.portIdle, Arbiter.portIdle, hg, Arbiter.withdraw, Grant.withdrawn, Arbiter.setRequest]
  · cases s.update.session.isOpen <;>
      simp [State.portIdle, Arbiter.portIdle, hg, Arbiter.withdraw, Grant.withdrawn, Arbiter.setRequest]
  · rcases ho with rfl | ho
    · cases op <;> cases s.update.session.isOpen <;>
        simp [State.portIdle, Arbiter.portIdle, hg, Arbiter.withdraw, Grant.withdrawn, Arbiter.setRequest]
    · cases op <;> first
        | exact absurd rfl (ho _ _)
        | (cases s.update.session.isOpen <;>
            simp [State.portIdle, Arbiter.portIdle, hg, Arbiter.withdraw, Grant.withdrawn, Arbiter.setRequest])
  · cases s.update.session.isOpen <;>
      simp [State.portIdle, Arbiter.portIdle, hg, Arbiter.withdraw, Grant.withdrawn, Arbiter.setRequest]
  · cases s.update.session.isOpen <;>
      simp [State.portIdle, Arbiter.portIdle, hg, Arbiter.withdraw, Grant.withdrawn, Arbiter.setRequest]
  · cases s.update.session.isOpen <;>
      simp [State.portIdle, Arbiter.portIdle, hg, Arbiter.withdraw, Grant.withdrawn, Arbiter.setRequest]

/-- A read chunk withdrawn while it is in progress: its requester has none outstanding, and the grant is still INTERNAL
(01 R17). -/
theorem withdraw_inProgress {a : Arbiter} {r : Requester} {base n : Nat} (h : a.grant = .internal r (.read base n)) :
    a.withdraw r = { a.setRequest r none with grant := .internalWithdrawn r base n } := by
  simp [Arbiter.withdraw, Grant.withdrawn, h]

/-- A withdrawal with no such chunk in progress leaves the grant as it is. -/
theorem withdraw_notInProgress {a : Arbiter} {r : Requester} (h : ∀ base n, a.grant ≠ .internal r (.read base n)) :
    a.withdraw r = a.setRequest r none := by
  have same : a.grant.withdrawn r = a.grant := by
    unfold Grant.withdrawn
    split
    · rename_i r' base n hg
      split
      · subst r'; exact absurd hg (h base n)
      · rfl
    · rfl
  cases r <;> simp [Arbiter.withdraw, same, Arbiter.setRequest]

/-! ### The SoC reset -/

/-- Requests that nothing waits for any more are of the same sources. -/
theorem outstanding_orphan (j : Journal) (src : StoreSource) : j.orphan.outstanding src = j.outstanding src := by
  simp only [Journal.outstanding, Journal.orphan, List.any_map]
  cases j.job <;> rfl

theorem orphan_eq_unheeded (j : Journal) : j.orphan = j.unheeded := rfl

/-- A request placed is held, queued or in progress. -/
theorem place_requested (s : State) (p : Purpose) (live : Bool) :
    (s.place p live).journal.anyRequest (fun x => x == p) = true := by
  have key : ∀ (hs : List HeldRequest) (u : State), ⟨p, live⟩ ∈ hs →
      (State.placeHeld u hs).journal.anyRequest (fun x => x == p) = true := by
    have stay : ∀ (hs : List HeldRequest) (u : State), u.journal.anyRequest (fun x => x == p) = true →
        (State.placeHeld u hs).journal.anyRequest (fun x => x == p) = true := by
      intro hs
      induction hs with
      | nil => intro u h; exact h
      | cons h rest ih =>
        intro u hu
        simp only [State.placeHeld]
        apply ih
        split <;> simp only [Journal.anyRequest, List.any_append, Bool.or_eq_true] at hu ⊢
        · rcases hu with (hu | hu) | hu
          · exact .inl (.inl (.inl hu))
          · exact .inl (.inr hu)
          · exact .inr hu
        · rcases hu with (hu | hu) | hu
          · exact .inl (.inl hu)
          · exact .inl (.inr (.inl hu))
          · exact .inr hu
    intro hs
    induction hs with
    | nil => intro u h; cases h
    | cons h rest ih =>
      intro u hu
      simp only [State.placeHeld]
      rcases List.mem_cons.1 hu with rfl | hu
      · apply stay
        split
        · simp [Journal.anyRequest]
        · have : ∀ q : Purpose, (u.makeRequest q live).purpose = q := by
            intro q
            cases q <;> simp only [State.makeRequest, bankRequest, plainRequest]
            split <;> rfl
          simp [Journal.anyRequest, this]
      · exact ih _ hu
  exact key _ _ (List.mem_append_right _ (List.mem_singleton.2 rfl))

/-- An abandoned session (09 R143): the Update Controller, the freeze set, its read chunk, and the EMPTY entry. -/
theorem abandonSession_eq (s : State) : ∃ j,
    s.abandonSession = { s with
      update := { s.update with session := .idle, verification := .none }
      arbiter := if s.update.session.isOpen then s.arbiter.withdraw .update else s.arbiter
      checker := { s.checker with freezeSet :=
        if s.update.session.isOpen then s.checker.freezeSet &&& ~~~s.stageRegions else s.checker.freezeSet }
      journal := j } ∧ (∃ q w, j = { s.journal with queue := q, held := w }) ∧
    (s.update.session.isOpen = false → j = s.journal) ∧
    (s.update.session.isOpen = true → j.anyRequest (fun p => p == .sessionAbandon) = true ∧
      (s.journal.freeFor .updateController → j = { s.journal with queue := s.journal.queue ++
        [bankRequest .sessionAbandon false [] s.emptiedRecord [] none] })) := by
  simp only [State.abandonSession]
  by_cases ho : s.update.session.isOpen = true
  · simp only [ho, if_true, Bool.true_eq_false, false_implies, true_implies, true_and]
    generalize hu : (State.withdraw { s with update := { s.update with
      session := .idle, verification := .none } } .update).thawStages = u
    have hj : u.journal = s.journal := by subst hu; rfl
    obtain ⟨q, w, e⟩ := place_eq u .sessionAbandon false
    refine ⟨(u.place .sessionAbandon false).journal, ?_, ⟨q, w, ?_⟩, place_requested _ _ _, fun hf => ?_⟩
    · rw [e]; subst hu; rfl
    · rw [e, ← hj]; rfl
    · rw [place_free (s := u) (p := .sessionAbandon) (by rw [hj]; exact hf)]
      have : u.emptiedRecord = s.emptiedRecord := by subst hu; rfl
      simp only [State.queued, State.makeRequest, hj, this]
  · simp only [ho, Bool.false_eq_true, if_false]
    exact ⟨s.journal, rfl, ⟨_, _, rfl⟩, fun _ => rfl, fun h => h.elim⟩

/-- Nothing of the STAGE regions is left after both thaws. -/
theorem and_and_not (x y : BitVec 16) : x &&& y &&& ~~~y = 0 := by
  rw [BitVec.and_assoc]
  simp

/-- The inactive bank emptied (09 R143, R145). -/
theorem emptied_emptiedRecord (s : State) : s.emptied s.emptiedRecord := by
  have hi : ∀ n : Nat, ∀ x ∈ (BankInfo.emptied n).images, x.length = 0 ∧ x.digest = 0 := by
    intro n x hx
    have := List.eq_of_mem_replicate hx
    subst this; exact ⟨rfl, rfl⟩
  unfold State.emptied State.emptiedRecord State.inactiveBank
  cases s.update.presented <;> exact ⟨rfl, rfl, rfl, hi _⟩

/-- The assertion of SOC_RST from RUN does what each block's rule says (04 R55). -/
theorem assertReset_done (s : State) : SocResetDone s s.assertReset := by
  have hp := portIdle_eq { s with port := { s.port with decode := none, wel := false, waitHigh := false } }
  have ha : (State.portIdle { s with port := { s.port with decode := none, wel := false, waitHigh := false } }).arbiter =
      s.portIdle.arbiter := rfl
  simp only [State.assertReset, State.dropTransaction]
  rw [hp, ha]
  obtain ⟨j, e, ⟨q, w, hj⟩, hclosed, hopen⟩ := abandonSession_eq _
  rw [e]
  refine ⟨rfl, rfl, rfl, ?_, rfl, ?_, rfl, rfl, rfl, rfl, rfl, rfl, rfl, rfl, rfl, rfl, rfl, by rw [hj]; rfl,
    by rw [hj]; rfl, by rw [hj]; rfl, rfl, rfl, rfl, flashPortReset_of_arbiter rfl, ?_, ?_⟩
  · show (if s.update.session.isOpen then s.checker.freezeSet &&& s.stageRegions &&& ~~~s.stageRegions
      else s.checker.freezeSet &&& s.stageRegions) = _
    rw [and_and_not]
  · rfl
  · exact fun h => hclosed h
  · intro h
    refine ⟨(hopen h).1, fun hf => ⟨s.emptiedRecord, emptied_emptiedRecord s, ?_⟩⟩
    refine (hopen h).2 ⟨(outstanding_orphan _ _).trans hf.1, fun x hx => ?_⟩
    obtain ⟨y, hy, rfl⟩ := List.mem_map.1 hx
    exact (outstanding_orphan _ _).trans (hf.2 y hy)

end Sys2Proof.Machine
end

