-- ==== Sys2Proof/Laws/Check.lean ====
section
/-! SUPPORT. What an entry into CHECK leaves: the choice of bank and layout, and the first pass (04 R58, 05 R74). -/

namespace Sys2Proof.Machine

/-- Offering the restored counts reaches what offers reach (11 R169). -/
theorem offerRestored_only (s : State) : ResponseOnly s s.offerRestored := by
  simp only [State.offerRestored]
  generalize List.range 32 = ids
  suffices ∀ u, ResponseOnly u (ids.foldl (fun s id => match s.creds.get id with
    | some r => s.offer (.failures id) 0 r.restored.toNat
    | none => s) u) from this s
  induction ids with
  | nil => exact fun u => .refl u
  | cons id rest ih =>
    intro u
    rw [List.foldl_cons]
    refine ResponseOnly.trans ?_ (ih _)
    split
    · exact offer_only _ _ _ _
    · exact .refl _

/-- A layout comes into force (02 R23, 11 R168); beyond it only offers reach further. -/
theorem installLayout_only (s : State) (l : Option Layout) (src : LayoutSource) :
   ResponseOnly { s with
    checker := { s.checker with layout := l, source := src }
    response := { s.response with
      table := (l.map Layout.responses).getD [], fired := 0, armed := s.isField,
      offered := s.response.offered || s.isField } } (s.installLayout l src) := by
  simp only [State.installLayout]
  split
  · exact offerRestored_only _
  · exact .refl _

/-- What a boot check pass leaves of the layout in force, the presented bank and the Response Unit. -/
structure CheckKeeps (x t : State) : Prop where
  openMapping : t.checker.openMapping = x.checker.openMapping
  layout : t.checker.layout = x.checker.layout
  source : t.checker.source = x.checker.source
  update : t.update.presented = x.update.presented ∧ t.update.trialBoot = x.update.trialBoot
  table : t.response.table = x.response.table
  armed : t.response.armed = x.response.armed

/-- Kept as it is. -/
theorem CheckKeeps.refl (x : State) : CheckKeeps x x := ⟨rfl, rfl, rfl, ⟨rfl, rfl⟩, rfl, rfl⟩
/-- Kept by one and then by another. -/
theorem CheckKeeps.trans {x y z : State} (h : CheckKeeps x y) (k : CheckKeeps y z) : CheckKeeps x z :=
  ⟨k.1.trans h.1, k.2.trans h.2, k.3.trans h.3, ⟨k.4.1.trans h.4.1, k.4.2.trans h.4.2⟩, k.5.trans h.5, k.6.trans h.6⟩
/-- Kept by one after another. -/
theorem CheckKeeps.pre {x y z : State} (k : CheckKeeps y z) (h : CheckKeeps x y) : CheckKeeps x z := h.trans k
/-- What the Response Unit reaches is not among it. -/
theorem CheckKeeps.of {x y : State} (h : ResponseOnly x y) : CheckKeeps x y := by
  have hc := h.checker
  exact ⟨by rw [hc], by rw [hc], by rw [hc], ⟨by rw [h.update], by rw [h.update]⟩, h.table, h.armed⟩

/-- A mismatch keeps them. -/
theorem mismatch_keeps (x : State) : CheckKeeps x x.mismatch :=
  CheckKeeps.trans (y := { x with measure := { x.measure with mismatches := bump x.measure.mismatches } }) ⟨rfl, rfl, rfl, ⟨rfl, rfl⟩, rfl, rfl⟩
    (.of ((offerChange_only _ _ _ _).trans (raise_only _ _)))

/-- A digest taken keeps them. -/
theorem takeDigest_keeps (x : State) (r : Region) (n : Nat) (k : ExtendKind) (st : Nat) (d : Digest) : CheckKeeps x (x.takeDigest r n k st d) := by
  simp only [State.takeDigest]
  split
  · exact CheckKeeps.pre (mismatch_keeps _) ⟨rfl, rfl, rfl, ⟨rfl, rfl⟩, rfl, rfl⟩
  · exact ⟨rfl, rfl, rfl, ⟨rfl, rfl⟩, rfl, rfl⟩

/-- The recovery image's digest keeps them. -/
theorem recoveryDone_keeps (x : State) (r : Region) (d : Digest) : CheckKeeps x (x.recoveryDone r d) := by
  simp only [State.recoveryDone]
  split
  · exact (takeDigest_keeps _ _ _ _ _ _).trans ⟨rfl, rfl, rfl, ⟨rfl, rfl⟩, rfl, rfl⟩
  · exact (takeDigest_keeps _ _ _ _ _ _).trans ⟨rfl, rfl, rfl, ⟨rfl, rfl⟩, rfl, rfl⟩

/-- The outcome of a check keeps them. -/
theorem checkOutcome_keeps (x : State) : CheckKeeps x x.checkOutcome := by
  simp only [State.checkOutcome]
  split
  · simp only [State.measureRecovery]
    split
    · exact (mismatch_keeps _).trans ⟨rfl, rfl, rfl, ⟨rfl, rfl⟩, rfl, rfl⟩
    · split
      · exact CheckKeeps.pre (recoveryDone_keeps _ _ _) ⟨rfl, rfl, rfl, ⟨rfl, rfl⟩, rfl, rfl⟩
      · exact ⟨rfl, rfl, rfl, ⟨rfl, rfl⟩, rfl, rfl⟩
  · exact ⟨rfl, rfl, rfl, ⟨rfl, rfl⟩, rfl, rfl⟩

/-- The end of a pass keeps them. -/
theorem passEnd_keeps (x : State) (p : Pass) : CheckKeeps x (x.passEnd p) := by
  simp only [State.passEnd]
  split
  · exact CheckKeeps.pre (checkOutcome_keeps _) ⟨rfl, rfl, rfl, ⟨rfl, rfl⟩, rfl, rfl⟩
  · split
    · exact CheckKeeps.pre (.of (place_only _ _ _)) ⟨rfl, rfl, rfl, ⟨rfl, rfl⟩, rfl, rfl⟩
    · exact (CheckKeeps.of (contain_only _ _)).trans (checkOutcome_keeps _)

/-- A pass going on keeps them. -/
theorem passRun_keeps (todo : List Nat) (x : State) (p : Pass) : CheckKeeps x (x.passRun p todo) := by
  induction todo generalizing x p with
  | nil => exact passEnd_keeps _ _
  | cons i rest ih =>
    simp only [State.passRun]
    split
    · exact ih _ _
    · split
      · exact CheckKeeps.pre (ih _ _) (CheckKeeps.pre (takeDigest_keeps _ _ _ _ _ _) ⟨rfl, rfl, rfl, ⟨rfl, rfl⟩, rfl, rfl⟩)
      · exact ⟨rfl, rfl, rfl, ⟨rfl, rfl⟩, rfl, rfl⟩

/-- A pass that begins keeps them. -/
theorem startPass_keeps (x : State) (b : Bool) : CheckKeeps x (x.startPass b) := passRun_keeps _ _ _

/-- The current layout (09 R152). -/
theorem currentLayout_eq (s : State) : s.currentLayout = s.layoutNow := by
  have either (x : Option Layout) : x = none ∨ ∃ l, x = some l := by cases x <;> simp
  rcases either s.update.layout with ha | ⟨l, ha⟩ <;> rcases either s.update.trialLayout with hb | ⟨t, hb⟩ <;>
    simp [State.currentLayout, State.currentInTrialObject, State.layoutNow, ha, hb]

/-- The check waits exactly for the requests that 04 R58 (1) and 09 R142 name. -/
theorem storeAwaited_iff (s : State) : s.storeAwaited ↔ s.checkMustWait = true := by
  have hf : s.isField = true ↔ s.anchor.lifeCycle = .field := by simp [State.isField]
  simp only [State.storeAwaited, State.checkMustWait, Journal.anyRequest, Bool.or_eq_true, List.any_eq_true,
    List.mem_append, List.mem_map, Option.mem_toList, Option.map_eq_some_iff, beq_iff_eq, Bool.and_eq_true, hf]
  constructor
  · rintro ⟨p, ((⟨h, hh, rfl⟩ | ⟨q, hq, rfl⟩) | ⟨j, hj, rfl⟩), hp⟩
    · exact .inl (.inl ⟨h, hh, hp⟩)
    · exact .inl (.inr ⟨q, hq, hp⟩)
    · right; simp only [hj]; simpa [hf] using hp
  · rintro ((⟨h, hh, hp⟩ | ⟨q, hq, hp⟩) | hj)
    · exact ⟨_, .inl (.inl ⟨h, hh, rfl⟩), hp⟩
    · exact ⟨_, .inl (.inr ⟨q, hq, rfl⟩), hp⟩
    · cases hjob : s.journal.job with
      | none => simp [hjob] at hj
      | some j => exact ⟨_, .inr ⟨j, rfl, rfl⟩, by simpa [hjob, hf] using hj⟩

/-- A bank presented with a layout (02 R23, 09 R152, R153, 11 R168, R169). -/
theorem present_intoForce (s : State) (bank : Bank) (trial : Bool) (l : Option Layout) (src : LayoutSource) :
    IntoForce s bank trial l src (s.present bank trial l src) := by
  have k := installLayout_only { s with update := { s.update with presented := bank, trialBoot := trial } } l src
  cases l <;> refine ⟨k, fun h => ?_, fun h1 h2 => ?_⟩ <;> simp only [State.present, State.installLayout]
  · exact if_neg (by rcases h with h | h <;> simp [State.isField, h])
  · exact if_pos (by simp [State.isField, h1, h2])
  · exact if_neg (by rcases h with h | h <;> simp [State.isField, h])
  · exact if_pos (by simp [State.isField, h1, h2])

/-- The regions measured at RESET, in increasing index. -/
theorem resetRegions (s : State) :
    let todo := (s.checker.layout.map (fun l => l.indices (fun r => r.measureAt == .reset))).getD []
    todo.Pairwise (· < ·) ∧
      ∀ i, i ∈ todo ↔ i < 16 ∧ ∃ l g, s.checker.layout = some l ∧ l.region? i = some g ∧ g.measureAt = .reset := by
  cases hl : s.checker.layout with
  | none => simp
  | some l =>
    refine ⟨List.Pairwise.filter _ List.pairwise_lt_range, fun i => ?_⟩
    simp only [Option.map, Option.getD, Layout.indices, List.mem_filter, List.mem_range]
    refine and_congr_right fun _ => ?_
    cases hr : l.region? i with
    | none => simp [hr]
    | some g => simp [hr]

/-- A pass begins (05 R74, R75). -/
theorem startPass_begun (s : State) (second : Bool) : PassBegun s second (s.startPass second) := by
  have k := startPass_keeps s second
  obtain ⟨h1, h2⟩ := resetRegions s
  refine ⟨⟨k.openMapping, k.layout, k.source, k.update.1, k.update.2, k.table, k.armed⟩, _, h1, h2, ?_, ?_⟩
  · intro i rest l g htodo hl hg hlen
    simp only [State.startPass]
    rw [htodo]
    simp only [State.passRun, hl, Option.bind, hg]
    rw [if_neg (by rw [measuredRange_hashed s l g hl]; exact hlen)]
    exact beginRegion_begun _ l g hl
  · intro htodo
    have hp : s.startPass second = s.passPassed.checkOutcome := by
      simp only [State.startPass]
      rw [htodo]
      rfl
    have hx : s.passPassed = { s with response := { s.response with causes := s.response.causes &&& 0xFE } } := rfl
    rw [hp]
    simp only [← hx]
    refine ⟨fun h => ?_, fun l rec h hl hr h0 => ?_⟩
    · rw [← release_eq_released]
      exact if_neg (by simpa [State.contained, Response.latch, hx] using h)
    · rw [← measureRecovery_eq_recovering s.passPassed l rec hl hr h0]
      exact if_pos (by simpa [State.contained, Response.latch, hx] using h)

/-- The decision of a boot check (04 R58 (2), (3)). -/
theorem decideBoot_decided (s : State) : CheckDecided s s.decideBoot := by
  refine ⟨fun hf => ?_, fun hf ht => ?_, fun hf ht => ?_⟩
  · have hn : s.isField = false := by simp [State.isField, hf]
    simp only [State.decideBoot, hn, Bool.false_eq_true, if_false, Bool.not_false, currentLayout_eq,
      release_eq_released]
    exact ⟨_, present_intoForce _ _ _ _ _, rfl⟩
  · have hn : s.isField = true := by simp [State.isField, hf]
    simp only [State.decideBoot, hn, if_true, Bool.not_true, ht, Bool.false_eq_true, if_false, State.presentActive]
    have hl : State.currentLayout { s with checker := { s.checker with openMapping := false } } = s.layoutNow :=
      currentLayout_eq s
    rw [hl]
    exact ⟨_, present_intoForce _ _ _ _ _, startPass_begun _ _⟩
  · have hn : s.isField = true := by simp [State.isField, hf]
    simp only [State.decideBoot, hn, if_true, Bool.not_true, ht]
    refine ⟨(place_only _ _ _).rst, place_requested _ _ _, fun hj => ?_⟩
    by_cases h0 : s.update.record.attempts = 0
    · simp only [h0, if_true]
      rw [place_free hj]
      rfl
    · simp only [h0, if_false]
      rw [place_free hj]
      rfl

/-- A check that may go on decides (04 R58). -/
theorem proceedCheck_eq (s : State) :
    s.proceedCheck = if s.rst.check = .waitStore ∧ s.checkMustWait = false then s.decideBoot else s := by
  simp only [State.proceedCheck]
  by_cases h : s.rst.check = .waitStore <;> cases s.checkMustWait <;> simp [h]

/-- An entry into CHECK (04 R58; 05 R67 ~ R69, R74). -/
theorem enterCheck_entered (s : State) : CheckEntered s s.enterCheck := by
  have hw : s.storeAwaited ↔ s.checkMustWait = true := storeAwaited_iff s
  have he := proceedCheck_eq { s.thawOthers with
    rst := { s.rst with state := .check, pulse := none, pulseWait := false, check := .waitStore }
    measure := { s.measure with slots := Vector.replicate 8 0, log := [], truncated := false, history := [] }
    response := { s.response with fired := 0 } }
  refine ⟨fun h => ?_, fun h => ?_⟩
  · refine he.trans (if_neg fun x => ?_)
    have : s.checkMustWait = false := x.2
    rw [hw.1 h] at this
    cases this
  · have hn : s.checkMustWait = false := by simpa using fun x => h (hw.2 x)
    rw [show s.enterCheck = _ from he.trans (if_pos ⟨rfl, hn⟩)]
    exact decideBoot_decided _

end Sys2Proof.Machine
end

