-- ==== Sys2Proof/Laws/Journal.lean ====
section
/-! SUPPORT. What the Journal Store's operations do: programming bytes, beginning an entry, what follows an answer. -/

namespace Sys2Proof.Machine

/-- With a bound on their number that the bytes do not reach, the pages are those of the bytes (06 R87). -/
theorem splitPages_paged (n a : Nat) (bs : Bytes) (h : bs.length ≤ n) : Paged a bs (splitPages n a bs) := by
  induction n generalizing a bs with
  | zero => exact List.length_eq_zero_iff.1 (Nat.le_zero.1 h)
  | succ n ih =>
    simp only [splitPages]
    split
    · assumption
    · rename_i hne
      have hpos : 0 < bs.length := List.length_pos_iff.2 hne
      have hk : 0 < 256 - a % 256 := by omega
      refine ⟨rfl, hne, rfl, ?_⟩
      by_cases hl : 256 - a % 256 ≤ bs.length
      · rw [List.length_take, Nat.min_eq_left hl]
        exact ih _ _ (by rw [List.length_drop]; omega)
      · rw [List.length_take, Nat.min_eq_right (by omega), List.drop_eq_nil_of_le (Nat.le_refl _),
          List.drop_eq_nil_of_le (by omega)]
        cases n <;> simp [splitPages, Paged]

/-- Bytes to write are programmed from their first page on (06 R87, R91). -/
theorem beginWrite_goTo (s : State) (job : Job) (k : WriteKind) (w : Writing) (h : w.bytes ≠ []) :
    ∃ pages, Paged (s.halfBase w.half + w.offset) w.bytes pages ∧
      s.beginWrite job k w = s.goTo job (.programming k w pages) (s.firstPage w) := by
  cases hb : w.bytes with
  | nil => exact absurd hb h
  | cons x xs =>
    let a := s.writingBase w
    let n := 256 - a % 256
    refine ⟨(a, (x :: xs).take n) :: splitPages xs.length (a + n) ((x :: xs).drop n), ?_, ?_⟩
    · have := splitPages_paged (x :: xs).length a (x :: xs) (Nat.le_refl _)
      rwa [List.length_cons, splitPages, if_neg (by simp)] at this
    simp only [State.beginWrite, hb, List.length_cons, splitPages, State.programNext, reduceCtorEq, if_false]
    simp only [State.firstPage, hb]
    rfl

/-- An entry has bytes. -/
theorem encodeEntry_ne_nil (a b : Digest) (e : StoreEntry) (g : Word32) : encodeEntry a b e g ≠ [] := by
  simp [encodeEntry, entryBody]

/-- The payload of an OWNER-EPOCH entry (06 R95). -/
theorem fillEntry_eq_filled (j : Journal) (e : StoreEntry) : j.fillEntry e = j.filled e := by
  simp only [Journal.fillEntry, Journal.filled]
  cases h : e.kind <;> simp [bytes32]

/-- An entry that fits is programmed at the append point with the next generation (06 R91). -/
theorem beginEntry_of_fits (s : State) (job : Job) (e : StoreEntry) (h : Half)
    (hx : s.anchor.generation ≠ 0xFFFFFFFF) (he : e.kind = .ownerEpoch → s.journal.epoch ≠ 0xFFFFFFFF)
    (ha : s.journal.active = some h)
    (hf : s.journal.appendPoint + entryLength (s.journal.filled e).payload.length ≤ 131072) :
    let g := s.anchor.generation + 1
    let w := s.written h s.journal.appendPoint (s.journal.filled e) g
    ∃ pages, Paged (s.halfBase h + w.offset) w.bytes pages ∧
      s.beginEntry job e = s.goTo job (.programming (.entry g) w pages) (s.firstPage w) := by
  intro g w
  have hex : s.entryExhausted e = false := by
    simp only [State.entryExhausted, lastGeneration, Bool.or_eq_false_iff, Bool.and_eq_false_iff]
    refine ⟨by simpa using hx, ?_⟩
    by_cases hk : e.kind = .ownerEpoch
    · right; simpa using he hk
    · left; simpa using hk
  obtain ⟨pages, hpages, hp⟩ := beginWrite_goTo s job (.entry g) w (encodeEntry_ne_nil _ _ _ _)
  refine ⟨pages, hpages, ?_⟩
  simp only [State.beginEntry, hex, Bool.false_eq_true, if_false, fillEntry_eq_filled, ha]
  rw [if_pos (show _ ≤ halfSize from hf)]
  exact hp

/-- An entry that does not fit, or has no half, begins compaction (06 R93, R98). -/
theorem beginEntry_of_full (s : State) (job : Job) (e : StoreEntry) (hex : s.entryExhausted e = false)
    (ha : ∀ h, s.journal.active = some h →
      131072 < s.journal.appendPoint + entryLength (s.journal.filled e).payload.length) :
    s.beginEntry job e = s.goTo job (.erasing false) (.erase64k (s.halfBase s.journal.targetHalf)) := by
  simp only [State.beginEntry, hex, Bool.false_eq_true, if_false, fillEntry_eq_filled]
  cases h : s.journal.active with
  | none => rfl
  | some x =>
    have := ha x h
    simp only
    rw [if_neg (show ¬ _ ≤ halfSize from Nat.not_le.2 this)]
    rfl

/-- An insertion adds its record. -/
theorem insertByGeneration_perm (r : IndexRecord) (l : List IndexRecord) :
    (insertByGeneration r l).Perm (r :: l) := by
  induction l with
  | nil => exact .refl _
  | cons x xs ih =>
    simp only [insertByGeneration]; split
    · exact .refl _
    · exact (List.Perm.cons x ih).trans (.swap _ _ _)

/-- The order of copying holds every live record (06 R93). -/
theorem sortByGeneration_perm (l : List IndexRecord) : (sortByGeneration l).Perm l := by
  induction l with
  | nil => exact .refl _
  | cons x xs ih => exact (insertByGeneration_perm _ _).trans (.cons _ ih)

/-- The order of copying is that of the generations (06 R93). -/
theorem sortByGeneration_sorted (l : List IndexRecord) :
    (sortByGeneration l).Pairwise (fun a b => a.generation.toNat ≤ b.generation.toNat) := by
  induction l with
  | nil => exact .nil
  | cons r rest ih =>
    change (insertByGeneration r (sortByGeneration rest)).Pairwise _
    generalize sortByGeneration rest = l at *
    induction l with
    | nil => exact List.pairwise_singleton _ _
    | cons x xs ih' =>
      have ⟨hx, hxs⟩ := List.pairwise_cons.1 ih
      simp only [insertByGeneration]
      split
      · rename_i hlt
        refine List.pairwise_cons.2 ⟨fun y hy => ?_, ih⟩
        rcases List.mem_cons.1 hy with rfl | hy
        · exact Nat.le_of_lt hlt
        · exact Nat.le_trans (Nat.le_of_lt hlt) (hx y hy)
      · rename_i hle
        refine List.pairwise_cons.2 ⟨fun y hy => ?_, ih' hxs⟩
        rcases List.mem_cons.1 ((insertByGeneration_perm r xs).mem_iff.1 hy) with rfl | hy
        · exact Nat.le_of_not_lt hle
        · exact hx y hy

/-- With nothing waiting, nothing follows an answer (06 R90). -/
theorem afterAnswer_of_quiet {s : State} (held : s.journal.held = []) (el : s.response.eraseList = [])
    (h1 : s.rst.check ≠ .waitStore) (h2 : ¬(s.rst.state = .pulse ∧ s.rst.pulse = none)) : s.afterAnswer = s := by
  have e1 : s.pumpRequests = s := by
    simp only [State.pumpRequests, held, State.placeHeld]
    rw [show ({ s.journal with held := [] } : Journal) = s.journal by rw [← held]]
  have e2 : s.pumpErase = s := by
    simp only [State.pumpErase]
    split
    · rfl
    · simp only [el, Creds.nextErase]
      rw [show ({ s.response with eraseList := [] } : Response) = s.response by rw [← el]]
  have e3 : s.proceedCheck = s := by
    simp only [State.proceedCheck]; rw [if_neg]; simp [h1]
  have e4 : s.endPulse = s := by
    simp only [State.endPulse]; rw [if_neg]; rintro ⟨a, b, _⟩; exact h2 ⟨a, b⟩
  simp only [State.afterAnswer, e1, e2, e3, e4]

/-- With no check and no pulse waiting, what follows an answer places requests alone (06 R90, 11 R171). -/
theorem afterAnswer_only {s : State} (h1 : s.rst.check ≠ .waitStore)
    (h2 : ¬(s.rst.state = .pulse ∧ s.rst.pulse = none)) : ResponseOnly s s.afterAnswer := by
  obtain ⟨q, w, e1⟩ := pumpRequests_eq s
  have k1 : ResponseOnly s s.pumpRequests := e1 ▸ withRequests_only s q w
  have k2 := k1.trans (pumpErase_only _)
  have hr := k2.rst
  have e3 : s.pumpRequests.pumpErase.proceedCheck = s.pumpRequests.pumpErase := by
    simp only [State.proceedCheck]; rw [if_neg]; simp [hr, h1]
  have e4 : s.pumpRequests.pumpErase.endPulse = s.pumpRequests.pumpErase := by
    simp only [State.endPulse]; rw [if_neg]; rw [hr]; rintro ⟨a, b, _⟩; exact h2 ⟨a, b⟩
  simp only [State.afterAnswer, e3, e4]
  exact k2

end Sys2Proof.Machine
end

