-- ==== Sys2Proof/Laws/Answers.lean ====
section
/-! SUPPORT. What the answer to a store request does, by its purpose, and what follows it (06 R90). -/

namespace Sys2Proof.Machine

/-! ### The Response Unit's erase list (11 R171) -/

/-- The ids passed have no record; the one taken has. -/
theorem nextErase_spec (c : Creds) (ids : List Nat) :
    (∀ passed id rest r, ids = passed ++ id :: rest → (∀ k ∈ passed, c.get k = none) → c.get id = some r →
      c.nextErase ids = some (id, r, rest)) ∧
    ((∀ k ∈ ids, c.get k = none) → c.nextErase ids = none) := by
  induction ids with
  | nil => exact ⟨fun passed id rest r h => by simp at h, fun _ => rfl⟩
  | cons x xs ih =>
    refine ⟨fun passed id rest r h hp hr => ?_, fun h => ?_⟩
    · cases passed with
      | nil =>
        obtain ⟨rfl, rfl⟩ := List.cons.inj h
        simp only [Creds.nextErase, hr]
      | cons y ys =>
        obtain ⟨rfl, h'⟩ := List.cons.inj h
        simp only [Creds.nextErase, hp x (List.mem_cons_self ..)]
        exact ih.1 ys id rest r h' (fun k hk => hp k (List.mem_cons_of_mem _ hk)) hr
    · simp only [Creds.nextErase, h x (List.mem_cons_self ..)]
      exact ih.2 fun k hk => h k (List.mem_cons_of_mem _ hk)

/-- With none of its requests outstanding the Response Unit takes the next id (11 R171). -/
theorem pumpErase_nextErased {s : State} (h : s.journal.freeFor .responseUnit) : NextErased s s.pumpErase := by
  obtain ⟨h1, h2⟩ := nextErase_spec s.creds s.response.eraseList
  refine ⟨fun passed id rest r hl hp hr => ?_, fun hn => ?_⟩
  · simp only [State.pumpErase, h.1, Bool.false_eq_true, if_false, h1 passed id rest r hl hp hr]
    exact place_free (s := { s with response := { s.response with eraseList := rest } })
      (p := .responseErase id r.epoch) h
  · simp only [State.pumpErase, h.1, Bool.false_eq_true, if_false, h2 hn]

/-- With one outstanding it waits. -/
theorem pumpErase_waits {s : State} (h : s.journal.outstanding .responseUnit = true) : s.pumpErase = s := by
  simp only [State.pumpErase, h, if_true]

/-- ERASE CREDENTIAL with nothing of the Response Unit's outstanding (11 R171). -/
theorem act_eraseCredential {s : State} {id : Nat} (h : s.journal.freeFor .responseUnit) :
    NextErased { s with response := { s.response with
        eraseList := if id ∈ s.response.eraseList then s.response.eraseList else s.response.eraseList ++ [id] } }
      (s.act (.eraseCredential id)) := by
  have e : s.act (.eraseCredential id) = State.pumpErase { s with response := { s.response with
      eraseList := if id ∈ s.response.eraseList then s.response.eraseList else s.response.eraseList ++ [id] } } := by
    simp only [State.act, List.contains_eq_mem, decide_eq_true_eq]
  rw [e]
  exact pumpErase_nextErased h

/-! ### Held requests (06 R90) -/

/-- Every held request waits for an earlier one of its source. -/
def State.heldWaits (s : State) : Prop := ∀ h ∈ s.journal.held, s.journal.outstanding h.purpose.source = true

/-- One step of the placing of held requests. -/
def State.placeOne (u : State) (h : HeldRequest) : State :=
  if u.journal.outstanding h.purpose.source then
    { u with journal := { u.journal with held := u.journal.held ++ [h] } }
  else u.queued (u.makeRequest h.purpose h.live)

/-- The queue only grows by it, and what is held waits. -/
theorem placeOne_heldWaits {u : State} (hu : u.heldWaits) (h : HeldRequest) : (u.placeOne h).heldWaits := by
  simp only [State.placeOne]
  split
  · rename_i ho
    intro x hx
    rcases List.mem_append.1 hx with hx | hx
    · exact hu x hx
    · obtain rfl := List.mem_singleton.1 hx
      exact ho
  · intro x hx
    have := hu x hx
    simp only [Journal.outstanding, State.queued, List.any_append, Bool.or_eq_true] at this ⊢
    rcases this with h | h
    · exact .inl (.inl h)
    · exact .inr h

/-- The requests are placed one after the other. -/
theorem placeHeld_eq_foldl (hs : List HeldRequest) (u : State) (hu : u.heldWaits) :
    u.placeHeld hs = hs.foldl State.placeOne u ∧ (u.placeHeld hs).heldWaits := by
  induction hs generalizing u with
  | nil => exact ⟨rfl, hu⟩
  | cons h rest ih =>
    have e : (u.placeHeld (h :: rest)) = (u.placeOne h).placeHeld rest := by
      simp only [State.placeHeld, State.placeOne]
      have : (u.journal.outstanding h.purpose.source || u.journal.held.any (fun x => x.purpose.source == h.purpose.source))
          = u.journal.outstanding h.purpose.source := by
        cases ho : u.journal.outstanding h.purpose.source
        · simp only [Bool.false_or, List.any_eq_false, beq_iff_eq]
          intro x hx e
          have := hu x hx
          rw [e, ho] at this
          cases this
        · rfl
      rw [this]
      cases u.journal.outstanding h.purpose.source <;> rfl
    rw [e]
    exact ih _ (placeOne_heldWaits hu h)

/-- After an answer the held requests are placed (06 R90), and what is held still waits. -/
theorem pumpRequests_heldPlaced (s : State) : s.pumpRequests = s.heldPlaced ∧ s.heldPlaced.heldWaits := by
  have h := placeHeld_eq_foldl s.journal.held { s with journal := { s.journal with held := [] } }
    (fun x hx => by cases hx)
  have e : s.pumpRequests = s.heldPlaced := h.1
  exact ⟨e, e ▸ h.2⟩

/-! ### What follows an answer -/

/-- What follows an answer (04 R58, R62; 06 R90; 11 R171). -/
theorem afterAnswer_followed (v : State) : FollowedBy v v.afterAnswer := by
  refine ⟨fun ⟨h1, h2, h3, h4⟩ => afterAnswer_of_quiet h1 h2 h3 h4, v.pumpRequests.pumpErase,
    v.pumpRequests.pumpErase.proceedCheck, ?_⟩
  obtain ⟨hp, hw⟩ := pumpRequests_heldPlaced v
  rw [← hp] at hw ⊢
  refine ⟨fun h => pumpErase_waits h, fun h => pumpErase_nextErased ⟨h, hw⟩, ?_⟩
  show _ ∧ _ ∧ _
  rw [State.afterAnswer]
  generalize v.pumpRequests.pumpErase = u
  rw [proceedCheck_eq u]
  refine ⟨fun h => if_neg fun x => ?_, fun h1 h2 => ?_, ?_⟩
  · rcases h with h | h
    · exact h x.1
    · rw [(storeAwaited_iff u).1 h] at x
      cases x.2
  · rw [if_pos ⟨h1, by simpa using fun x => h2 ((storeAwaited_iff u).2 x)⟩]
    exact decideBoot_decided u
  · generalize (if u.rst.check = .waitStore ∧ u.checkMustWait = false then u.decideBoot else u) = w
    have hend : (w.rst.state = .pulse ∧ w.rst.pulse = none ∧ (w.rst.pulseWait && w.epochOutstanding) = false) ↔
        (w.rst.state = .pulse ∧ w.rst.pulse = none ∧
          ¬(w.rst.pulseWait = true ∧ w.journal.anyRequest (fun p => p == .ownerEpoch) = true)) := by
      rw [← Bool.not_eq_true, Bool.and_eq_true]
      rfl
    refine ⟨fun h => ?_, fun h => ?_⟩
    · rw [State.endPulse, if_pos (hend.2 h)]
      exact enterCheck_entered w
    · exact if_neg fun x => h (hend.1 x)

/-! ### Answers -/

/-- Containment asked for is there (11 R165). -/
theorem contain_contained (s : State) (c : ContainCause) : (s.contain c).contained = true := by
  have hb : (s.contain c).response.causes.getLsbD c.bit = true := addTo_has _ _ (by cases c <;> decide)
  simp only [State.contained, Response.latch, bne_iff_ne, ne_eq]
  intro h
  rw [h] at hb
  simp at hb

/-- The waiting command completes, or is gone (03 R47, R48). -/
theorem finishIf_eq_answered (s : State) (live : Bool) (r : Result) (body : Bytes) :
    s.finishIf live r body = s.answered live r.code body := by
  cases live with
  | false => rfl
  | true =>
    rcases hc : s.window.command with _ | c
    · simp [State.finishIf, State.answered, State.finish, Window.complete, Window.raise, hc]
      rfl
    · cases hb : (c.command == Command.events) <;>
        simp [State.finishIf, State.answered, State.finish, Window.complete, Window.raise, hc, hb]
      rfl

/-- An offer of a lowering to 0 fires nothing (11 R169). -/
theorem offer_to_zero (s : State) (src : Source) (before : Nat) : s.offer src before 0 = s := by
  simp only [State.offer]
  split
  · rename_i ha
    clear ha
    generalize s.response.table.zipIdx = es
    induction es generalizing s with
    | nil => rfl
    | cons e rest ih =>
      rw [List.foldl_cons]
      rw [show State.judge src before 0 s e = s from if_neg fun h => by omega]
      exact ih s
  · rfl

/-- A record set, its count lowered to 0 (08 R123, R134). -/
theorem settle_recordSet (s : State) (id : Nat) (r : Option CredRecord) :
    (s.putCred id r).settleOwnership s.claimed = s.recordSet id r := by
  simp only [State.settleOwnership, State.recordSet, Bool.and_eq_true, Bool.not_eq_true']
  rfl

/-- A credential stored: the count of the record it replaces is lowered to 0 (08 R123). -/
theorem credStored_eq (s : State) (live : Bool) (id : Nat) (c : Credential) (epoch : Word32) :
    s.credStored live id c epoch =
      (let u := if epoch = s.journal.epoch then s.recordSet id (some {
          content := c, epoch := epoch, count := 0, delayTimer := none, decayTimer := none, restored := 0 })
        else s
       u.answered live 0 [BitVec.ofNat 8 id, if u.claimed then 1 else 0]) := by
  simp only [State.credStored, finishIf_eq_answered, ← settle_recordSet]
  split
  · cases s.creds.get id with
    | none => rfl
    | some old =>
      simp only [State.offerCount]
      split
      · rfl
      · rw [show (0 : Byte).toNat = 0 from rfl, offer_to_zero]
        rfl
  · rfl

/-- A removal (08 R134). -/
theorem removeCred_eq (s : State) (id : Nat) : s.removeCred id = s.recordSet id none := by
  rw [← settle_recordSet, State.removeCred, State.dropRecord]
  cases h : s.creds.get id with
  | some r =>
    simp only [State.offerCount]
    split
    · rfl
    · rw [show (0 : Byte).toNat = 0 from rfl, offer_to_zero]
  | none =>
    have : s.putCred id none = s := by
      have hv : s.creds.records.setIfInBounds id none = s.creds.records := by
        apply Vector.ext
        intro i hi
        rw [Vector.getElem_setIfInBounds]
        split
        · rename_i he
          subst he
          have : s.creds.records[id]? = some s.creds.records[id] := Vector.getElem?_eq_getElem hi
          simp only [Creds.get, this, Option.join] at h
          simpa using h.symm
        · rfl
      simp only [State.putCred, Creds.put, hv]
    rw [this]

/-- The record under an id after another was set or removed. -/
theorem get_put (c : Creds) (i id : Nat) (hi : (c.get i).isSome) :
    (c.put i none).get id = if id = i then none else c.get id := by
  have hl : i < 32 := Nat.lt_of_not_le fun hn => by
    simp [Creds.get, Vector.getElem?_eq_none hn] at hi
  simp only [Creds.get, Creds.put, Vector.getElem?_setIfInBounds]
  by_cases h : id = i
  · subst h; simp [hl]
  · simp [h, Ne.symm h]

/-- A new owner epoch (08 R139): the records of another epoch are gone, the grant is cleared, OWNER is raised; their
counts' lowering fires nothing. -/
theorem credEpoch_eq (s : State) (epoch : Word32) : ∃ records,
    s.credEpoch epoch = { s with
      creds := { records := records, grant := none }
      window := { s.window with pendingEvents := s.window.pendingEvents ||| 128 } } ∧
    ∀ id x, (records[id]?).join = some x ↔ s.creds.get id = some x ∧ x.epoch = epoch := by
  have fold (ids : List Nat) (u : State) : ∃ records,
      ids.foldl (fun t id => match t.creds.get id with
        | some r => if r.epoch = epoch then t else t.dropRecord id
        | none => t) u = { u with creds := { u.creds with records := records } } ∧
      ∀ id x, (records[id]?).join = some x ↔ u.creds.get id = some x ∧ (id ∈ ids → x.epoch = epoch) := by
    induction ids generalizing u with
    | nil => exact ⟨u.creds.records, rfl, fun id x => ⟨fun h => ⟨h, fun k => by cases k⟩, fun h => h.1⟩⟩
    | cons i rest ih =>
      rw [List.foldl_cons]
      cases hg : u.creds.get i with
      | none =>
        obtain ⟨records, h1, h2⟩ := ih u
        refine ⟨records, h1, fun id x => (h2 id x).trans (and_congr_right fun hx => ?_)⟩
        rw [List.mem_cons]
        exact ⟨fun h k => k.elim (fun e => by subst e; rw [hg] at hx; cases hx) h, fun h k => h (.inr k)⟩
      | some r =>
        by_cases he : r.epoch = epoch
        · obtain ⟨records, h1, h2⟩ := ih u
          refine ⟨records, by simp only [he, if_true]; exact h1, fun id x => (h2 id x).trans (and_congr_right fun hx => ?_)⟩
          rw [List.mem_cons]
          exact ⟨fun h k => k.elim (fun e => by subst e; rw [hg] at hx; cases hx; exact he) h, fun h k => h (.inr k)⟩
        · have hd : u.dropRecord i = { u with creds := u.creds.put i none } := by
            simp only [State.dropRecord, hg, State.offerCount]
            split
            · rfl
            · rw [show (0 : Byte).toNat = 0 from rfl, offer_to_zero]
              rfl
          obtain ⟨records, h1, h2⟩ := ih { u with creds := u.creds.put i none }
          refine ⟨records, by simp only [he, if_false, hd]; exact h1, fun id x => (h2 id x).trans ?_⟩
          rw [show State.creds _ = u.creds.put i none from rfl, get_put _ _ _ (by simp [hg]), List.mem_cons]
          by_cases hid : id = i
          · subst hid
            simp only [if_true, true_or, forall_const]
            exact ⟨fun h => by simp at h, fun h => by rw [hg] at h; cases h.1; exact absurd h.2 he⟩
          · simp [hid]
  obtain ⟨records, h1, h2⟩ := fold (List.range 32) s
  refine ⟨records, congrArg (fun u => u.clearGrant.raise .owner) h1, fun id x => (h2 id x).trans (and_congr_right fun hx => ?_)⟩
  have hl : id < 32 := Nat.lt_of_not_le fun hn => by
    simp [Creds.get, Vector.getElem?_eq_none hn] at hx
  exact ⟨fun h => h (List.mem_range.2 hl), fun h _ => h⟩

/-- A trial fallback counted (09 R158). -/
theorem countFallback_eq (s : State) : s.countFallback = s.fallbackCounted := by
  simp only [State.countFallback, State.fallbackCounted, State.offerChange, bump_eq]
  by_cases h : s.update.fallbacks = 65535
  · simp only [h, if_true]; rfl
  · have hlt : s.update.fallbacks.toNat ≠ 65535 := fun e => h (BitVec.eq_of_toNat_eq e)
    have hn : ¬s.update.fallbacks = s.update.fallbacks + 1 := by
      intro e
      have := congrArg BitVec.toNat e
      rw [BitVec.toNat_add] at this
      simp at this
      omega
    have ht : (s.update.fallbacks + 1).toNat = s.update.fallbacks.toNat + 1 := by
      rw [BitVec.toNat_add]
      have := s.update.fallbacks.isLt
      simp
      omega
    simp only [h, hn, if_false, ht]
    rfl

/-- The answer OK to a request (06 R90, 09 R142). -/
theorem answeredOk_ok (s : State) (q : StoreRequest) : AnsweredOk s q ((s.takeRecord q).answeredOk s q) := by
  unfold AnsweredOk
  intro x r
  have hx : s.takeRecord q = x := rfl
  obtain ⟨new, hn⟩ : ∃ new, x = { s with update := { s.update with record := new } } := by
    rw [← hx, State.takeRecord]
    cases q.record with
    | none => exact ⟨s.update.record, rfl⟩
    | some new => exact ⟨new, rfl⟩
  rw [hx]
  clear hx
  clear_value x
  subst hn
  have wait (c : BootCheck) : (q.live && s.rst.check == c) = true ↔ q.live = true ∧ s.rst.check = c := by
    rw [Bool.and_eq_true, beq_iff_eq]
  have other (x : Bank) : x.other.code = if x = .a then 1 else 0 := by cases x <;> rfl
  cases hp : q.purpose with
  | keyCreate slot k =>
    simp only [State.answeredOk, hp, State.keyCreated, finishIf_eq_answered, State.putKey]
    rfl
  | keyDestroy slot =>
    simp only [State.answeredOk, hp, finishIf_eq_answered, State.putKey]
    rfl
  | credStore id content epoch =>
    simp only [State.answeredOk, hp, credStored_eq]
  | credCount id count epoch candidate => simp only [State.answeredOk, hp]
  | credMatch id epoch => simp only [State.answeredOk, hp]
  | credErase id epoch =>
    simp only [State.answeredOk, hp, State.credErased, finishIf_eq_answered, removeCred_eq]
    rfl
  | updateOpen m =>
    simp only [State.answeredOk, hp, State.opened]
    cases hl : q.live with
    | false => rfl
    | true =>
      have h := finishIf_eq_answered ({ s with update := { s.update with
        record := new, session := .staging m, verification := .none } } : State) true .ok
        [(Session.staging m).code, s.update.presented.other.code]
      rw [← other]
      exact h
  | updateAbort => simp only [State.answeredOk, hp, finishIf_eq_answered]; rfl
  | sessionAbandon => simp only [State.answeredOk, hp]
  | updateCommit m =>
    simp only [State.answeredOk, hp, finishIf_eq_answered, BankRecord.trialBank, other]
    rfl
  | updateConfirm =>
    simp only [State.answeredOk, hp, State.confirmed, finishIf_eq_answered]
    rfl
  | trialAttempt =>
    simp only [State.answeredOk, hp, State.trialDecided, ← wait]
    refine ⟨fun h => ?_, fun h => ?_⟩
    · simp [h, State.presentTrial, BankRecord.trialBank, currentLayout_eq]
      split
      · exact ⟨_, present_intoForce _ _ _ _ _, startPass_begun _ _⟩
      · exact ⟨_, present_intoForce _ _ _ _ _, startPass_begun _ _⟩
    · simp [h]
  | trialTimeout =>
    simp only [State.answeredOk, hp, State.trialDecided, ← wait]
    refine ⟨fun h => ?_, fun h => ?_⟩
    · simp [h, State.presentActive, currentLayout_eq, countFallback_eq]
      exact ⟨_, present_intoForce _ _ _ _ _, startPass_begun _ _⟩
    · simp [h, countFallback_eq]
  | bootFallback =>
    simp only [State.answeredOk, hp, State.fellBack, ← wait, if_true, State.fallbackBank]
    refine ⟨fun h ht => ?_, fun h ht => ?_, fun h => ?_⟩
    · simp [h, ht, currentLayout_eq, countFallback_eq]
      exact ⟨_, present_intoForce _ _ _ _ _, startPass_begun _ _⟩
    · simp [h, ht]
      exact startPass_begun _ _
    · simp [h, countFallback_eq]
  | ownerEpoch => simp only [State.answeredOk, hp]
  | responseErase id epoch => simp only [State.answeredOk, hp, removeCred_eq]
  | provisionLayout l => simp only [State.answeredOk, hp, finishIf_eq_answered]; rfl
  | provisionAuthority key =>
    simp only [State.answeredOk, hp, finishIf_eq_answered]
    rfl
  | provisionBank r => simp only [State.answeredOk, hp, finishIf_eq_answered]; rfl

/-- A request answered OK (06 R90, R91). -/
theorem answerStore_ok (s : State) (q : StoreRequest) : RequestAnswered s q (s.answerStore q true) :=
  ⟨_, answeredOk_ok s q, afterAnswer_followed _⟩

/-- The answer STORE_FAULT (06 R92, R100). -/
theorem answeredFault_fault (s : State) (q : StoreRequest) :
    AnsweredFault s q (s.answeredFault q) := by
  have wait (c : BootCheck) : (q.live && s.rst.check == c) = true ↔ q.live = true ∧ s.rst.check = c := by
    rw [Bool.and_eq_true, beq_iff_eq]
  have trial (a : Bool) :
      (q.live = true ∧ s.rst.check = .waitEntry →
        ∃ u, ActivePresented s u ∧ PassBegun u false (s.trialDecided q.live false a)) ∧
      (¬(q.live = true ∧ s.rst.check = .waitEntry) → s.trialDecided q.live false a = s) := by
    simp only [State.trialDecided, ← wait]
    refine ⟨fun h => ?_, fun h => ?_⟩
    · simp only [h, if_true, Bool.false_and, Bool.false_eq_true, if_false, State.presentActive, currentLayout_eq]
      exact ⟨_, present_intoForce _ _ _ _ _, startPass_begun _ _⟩
    · simp [h]
  unfold AnsweredFault
  intro tr refused
  cases hp : q.purpose with
  | trialAttempt => simp only [tr, State.answeredFault, hp]; exact trial true
  | trialTimeout => simp only [tr, State.answeredFault, hp]; exact trial false
  | bootFallback =>
    simp only [State.answeredFault, hp, State.fellBack, ← wait, Bool.false_eq_true, if_false]
    refine ⟨fun l rec h hl hr h0 => ?_, fun h => by simp [h]⟩
    simp only [h, if_true, State.containBoot, State.checkOutcome]
    rw [if_pos (contain_contained s .bootMismatch)]
    exact measureRecovery_eq_recovering _ l rec hl hr h0
  | credCount id count epoch candidate => simp only [State.answeredFault, hp, finishIf_eq_answered]; rfl
  | credMatch id epoch => simp only [State.answeredFault, hp, finishIf_eq_answered]; rfl
  | sessionAbandon => simp only [State.answeredFault, hp]
  | ownerEpoch => simp only [State.answeredFault, hp]
  | responseErase id epoch => simp only [State.answeredFault, hp]
  | _ => simp only [refused, State.answeredFault, hp, finishIf_eq_answered]; rfl

/-- A request answered STORE_FAULT (06 R92, R100). -/
theorem answerStore_refused (s : State) (q : StoreRequest) :
    RequestRefused s q ((s.contain .storeFault).answerStore q false) :=
  ⟨_, answeredFault_fault _ q, afterAnswer_followed _⟩

end Sys2Proof.Machine
end

