-- ==== Sys2Proof/Laws/Bytes.lean ====
section
/-! SUPPORT. Fields of bytes: written and read back, and read from a memory. -/

namespace Sys2Proof.Machine

/-- A number read on after another one. -/
theorem beNat_foldl (bs : Bytes) (a : Nat) : bs.foldl (fun a b => a * 256 + b.toNat) a = a * 256 ^ bs.length + beNat bs := by
  unfold beNat
  induction bs generalizing a with
  | nil => simp
  | cons b bs ih =>
    rw [List.foldl_cons, ih, List.foldl_cons, ih (0 * 256 + b.toNat), List.length_cons, Nat.pow_succ]
    simp [Nat.add_mul, Nat.mul_assoc, Nat.mul_comm 256, Nat.add_assoc]

/-- The number of bytes, by its first byte. -/
theorem beNat_cons (b : Byte) (bs : Bytes) : beNat (b :: bs) = b.toNat * 256 ^ bs.length + beNat bs := by
  have := beNat_foldl bs (0 * 256 + b.toNat)
  simp at this
  rw [← this]
  simp [beNat]

/-- The number of bytes is below 256 to their count. -/
theorem beNat_lt (bs : Bytes) : beNat bs < 256 ^ bs.length := by
  induction bs with
  | nil => simp [beNat]
  | cons b bs ih =>
    rw [beNat_cons, List.length_cons, Nat.pow_succ]
    have := b.isLt
    have h2 : b.toNat + 1 ≤ 256 := this
    have h3 : (b.toNat + 1) * 256 ^ bs.length ≤ 256 * 256 ^ bs.length := Nat.mul_le_mul_right _ h2
    have h4 : (b.toNat + 1) * 256 ^ bs.length = b.toNat * 256 ^ bs.length + 256 ^ bs.length := by rw [Nat.add_mul, Nat.one_mul]
    omega

/-- A field has its length. -/
theorem beBytes_length (n v : Nat) : (beBytes n v).length = n := by
  induction n with
  | zero => rfl
  | succ n ih => simp [beBytes, ih]

/-- What lies above a field is not in it. -/
theorem beBytes_mod (n v k : Nat) : beBytes n (k * 256 ^ n + v) = beBytes n v := by
  induction n generalizing k v with
  | zero => rfl
  | succ n ih =>
    simp only [beBytes]
    have e : k * 256 ^ (n+1) + v = (k * 256) * 256 ^ n + v := by rw [Nat.pow_succ]; simp [Nat.mul_assoc, Nat.mul_comm 256]
    rw [e, ih]
    congr 1
    apply BitVec.eq_of_toNat_eq
    rw [BitVec.toNat_ofNat, BitVec.toNat_ofNat, Nat.mul_comm (k*256), Nat.mul_add_div (Nat.pow_pos (by decide)), Nat.add_mod]
    simp

/-- Bytes are the field of their number. -/
theorem beBytes_beNat (bs : Bytes) : beBytes bs.length (beNat bs) = bs := by
  induction bs with
  | nil => rfl
  | cons b bs ih =>
    rw [beNat_cons, List.length_cons, beBytes, beBytes_mod, ih]
    congr 1
    have := beNat_lt bs
    rw [Nat.mul_comm, Nat.mul_add_div (Nat.pow_pos (by decide)), Nat.div_eq_of_lt this]
    simp

/-- The number of a field is the one it was made of. -/
theorem beNat_beBytes (n v : Nat) (h : v < 256 ^ n) : beNat (beBytes n v) = v := by
  induction n generalizing v with
  | zero => simp [beBytes, beNat] at h ⊢; omega
  | succ n ih =>
    rw [beBytes, beNat_cons, beBytes_length]
    have hp : 0 < 256 ^ n := Nat.pow_pos (by decide)
    have h1 : v / 256 ^ n < 256 := (Nat.div_lt_iff_lt_mul hp).2 (by rw [Nat.pow_succ, Nat.mul_comm] at h; exact h)
    have h2 : beBytes n v = beBytes n (v % 256 ^ n) := by
      conv => lhs; rw [← Nat.div_add_mod v (256 ^ n), Nat.mul_comm]
      exact beBytes_mod _ _ _
    rw [h2, ih _ (Nat.mod_lt _ hp), BitVec.toNat_ofNat, Nat.mod_eq_of_lt h1, Nat.mul_comm]
    exact Nat.div_add_mod v (256 ^ n)

/-- A 32-bit field read and written. -/
theorem word32_iff_beBytes (bs : Bytes) (x : Word32) (h : bs.length = 4) : BitVec.ofNat 32 (beNat bs) = x ↔ bs = beBytes 4 x.toNat := by
  constructor
  · rintro rfl
    have small : beNat bs < 2 ^ 32 := by
      have bound := beNat_lt bs
      rw [h] at bound
      exact bound
    have back := beBytes_beNat bs
    rw [h] at back
    rw [BitVec.toNat_ofNat, Nat.mod_eq_of_lt small, back]
  · rintro rfl
    rw [beNat_beBytes _ _ (by have := x.isLt; simpa using this)]
    simp

/-- Bytes read are as many as asked for. -/
theorem readBytes_length (m : Memory) (a n : Nat) : (m.readBytes a n).length = n := by simp [Memory.readBytes]
/-- A field of bytes read from a memory is read from its place. -/
theorem slice_readBytes (m : Memory) (a n off len : Nat) (h : off + len ≤ n) : slice (m.readBytes a n) off len = m.readBytes (a + off) len := by
  apply List.ext_getElem
  · simp [slice, Memory.readBytes]; omega
  · intro i h1 h2
    simp [slice, Memory.readBytes, Nat.add_assoc]
/-- A byte of bytes read from a memory is the byte at its place. -/
theorem byteAt_readBytes (m : Memory) (a n off : Nat) (h : off < n) : byteAt (m.readBytes a n) off = m.read (a + off) := by
  simp [byteAt, Memory.readBytes, List.getD_eq_getElem?_getD, h]

end Sys2Proof.Machine
end

