-- ==== Sys2Proof/Laws/Fault.lean ====
section
/-! SUPPORT. What a request that ends in STORE_FAULT leaves (06 R92, R94, R100). -/

namespace Sys2Proof.Machine

/-- What no answer changes: the flash, anchor memory but for the halt count, the Journal Store but for its queue and what it asks of the Flash
Port, the cause STORE_FAULT, and the window but for its events. -/
structure StoreStands (x t : State) : Prop where
  flash : t.flash = x.flash
  anchor : t.anchor = { x.anchor with haltCount := t.anchor.haltCount }
  journal : t.journal = { x.journal with queue := t.journal.queue, held := t.journal.held }
  cause : x.response.causes.getLsbD 3 = true → t.response.causes.getLsbD 3 = true
  window : t.window = { x.window with pendingEvents := t.window.pendingEvents }
  asked : t.arbiter.journal = x.arbiter.journal

/-- Kept as it is. -/
theorem StoreStands.refl (x : State) : StoreStands x x := ⟨rfl, rfl, rfl, id, rfl, rfl⟩
/-- Kept by one and then by another. -/
theorem StoreStands.trans {x y z : State} (h : StoreStands x y) (k : StoreStands y z) : StoreStands x z :=
  ⟨k.1.trans h.1, by rw [k.2, h.2], by rw [k.3, h.3], fun c => k.4 (h.4 c), by rw [k.5, h.5], k.6.trans h.6⟩
/-- Kept by one after another. -/
theorem StoreStands.pre {x y z : State} (k : StoreStands y z) (h : StoreStands x y) : StoreStands x z := h.trans k
/-- The Response Unit reaches none of it but queue and events. -/
theorem StoreStands.of {x y : State} (h : ResponseOnly x y) : StoreStands x y :=
  ⟨h.flash, by rw [h.anchor], h.journal, h.causes 3, h.window, by rw [h.arbiter]⟩
/-- A change of other parts keeps it. -/
theorem StoreStands.same {x t : State} (h1 : t.flash = x.flash) (h2 : t.anchor = { x.anchor with haltCount := t.anchor.haltCount }) (h3 : t.journal = x.journal)
  (h4 : t.response.causes = x.response.causes) (h5 : t.window = x.window) (h6 : t.arbiter.journal = x.arbiter.journal) :
    StoreStands x t :=
  ⟨h1, h2, by rw [h3], fun c => by rw [h4]; exact c, by rw [h5], h6⟩

/-- A mismatch. -/
theorem mismatch_stands (x : State) : StoreStands x x.mismatch :=
  StoreStands.pre (.of ((offerChange_only _ _ _ _).trans (raise_only _ _))) (.same rfl rfl rfl rfl rfl rfl)
/-- A digest taken. -/
theorem take_stands (x : State) (r n k st d) : StoreStands x (x.takeDigest r n k st d) := by
  simp only [State.takeDigest]
  split
  · exact StoreStands.pre (mismatch_stands _) (.same rfl rfl rfl rfl rfl rfl)
  · exact .same rfl rfl rfl rfl rfl rfl
/-- The recovery image's digest. -/
theorem recovery_stands (x : State) (r d) : StoreStands x (x.recoveryDone r d) := by
  simp only [State.recoveryDone]
  split <;> exact (take_stands _ _ _ _ _ _).trans (.same rfl rfl rfl rfl rfl rfl)
/-- The outcome of a check. -/
theorem outcome_stands (x : State) : StoreStands x x.checkOutcome := by
  simp only [State.checkOutcome]
  split
  · simp only [State.measureRecovery]
    split
    · exact (mismatch_stands _).trans (.same rfl rfl rfl rfl rfl rfl)
    · split
      · exact StoreStands.pre (recovery_stands _ _ _) (.same rfl rfl rfl rfl rfl rfl)
      · exact .same rfl rfl rfl rfl rfl rfl
  · exact .same rfl rfl rfl rfl rfl rfl
/-- A pass that passed. -/
theorem passPassed_stands (x : State) : StoreStands x x.passPassed := by
  refine ⟨rfl, rfl, rfl, fun h => ?_, rfl, rfl⟩
  simp only [State.passPassed, BitVec.getLsbD_and, h]
  rfl
/-- A contained boot. -/
theorem containBoot_stands (x : State) : StoreStands x x.containBoot := (StoreStands.of (contain_only _ _)).trans (outcome_stands _)
/-- The end of a pass. -/
theorem passEnd_stands (x : State) (p) : StoreStands x (x.passEnd p) := by
  simp only [State.passEnd]
  split
  · exact (passPassed_stands _).trans (outcome_stands _)
  · split
    · exact StoreStands.pre (.of (place_only _ _ _)) (.same rfl rfl rfl rfl rfl rfl)
    · exact containBoot_stands _
/-- A pass going on. -/
theorem passRun_stands (todo : List Nat) (x : State) (p) : StoreStands x (x.passRun p todo) := by
  induction todo generalizing x p with
  | nil => exact passEnd_stands _ _
  | cons i rest ih =>
    simp only [State.passRun]
    split
    · exact ih _ _
    · split
      · exact StoreStands.pre (ih _ _) (StoreStands.pre (take_stands _ _ _ _ _ _) (.same rfl rfl rfl rfl rfl rfl))
      · exact .same rfl rfl rfl rfl rfl rfl
/-- A pass that begins. -/
theorem startPass_stands (x : State) (b) : StoreStands x (x.startPass b) := passRun_stands _ _ _
/-- A layout into force. -/
theorem install_stands (x : State) (l src) : StoreStands x (x.installLayout l src) := by
  simp only [State.installLayout]
  split
  · exact StoreStands.pre (.of (offerRestored_only _)) (.same rfl rfl rfl rfl rfl rfl)
  · exact .same rfl rfl rfl rfl rfl rfl
/-- A bank presented. -/
theorem present_stands (x : State) (w tr l src) : StoreStands x (x.present w tr l src) := StoreStands.pre (install_stands _ _ _) (.same rfl rfl rfl rfl rfl rfl)
/-- The active bank presented. -/
theorem presentActive_stands (x : State) : StoreStands x x.presentActive := present_stands _ _ _ _ _
/-- The trial bank presented. -/
theorem presentTrial_stands (x : State) : StoreStands x x.presentTrial := by
  simp only [State.presentTrial]; split <;> exact present_stands _ _ _ _ _
/-- The release. -/
theorem release_stands (x : State) : StoreStands x x.release := .same rfl rfl rfl rfl rfl rfl
/-- The decision of a boot check. -/
theorem decide_stands (x : State) : StoreStands x x.decideBoot := by
  simp only [State.decideBoot]
  split
  · split
    · exact StoreStands.pre (.of (place_only _ _ _)) (.same rfl rfl rfl rfl rfl rfl)
    · exact StoreStands.pre (startPass_stands _ _) (StoreStands.pre (presentActive_stands _) (.same rfl rfl rfl rfl rfl rfl))
  · exact StoreStands.pre (release_stands _) (StoreStands.pre (present_stands _ _ _ _ _) (.same rfl rfl rfl rfl rfl rfl))
/-- A check that goes on. -/
theorem proceed_stands (x : State) : StoreStands x x.proceedCheck := by
  simp only [State.proceedCheck]; split
  · exact decide_stands _
  · exact .refl _
/-- An entry into CHECK. -/
theorem enterCheck_stands (x : State) : StoreStands x x.enterCheck := by
  generalize hu : ({ x.thawOthers with
    rst := { x.rst with state := .check, pulse := none, pulseWait := false, check := .waitStore }
    measure := { x.measure with slots := Vector.replicate 8 0, log := [], truncated := false, history := [] }
    response := { x.response with fired := 0 } } : State) = u
  have he : x.enterCheck = u.proceedCheck := by subst hu; rfl
  rw [he]
  refine StoreStands.pre (proceed_stands u) ?_
  subst hu
  exact .same rfl rfl rfl rfl rfl rfl
/-- The end of a pulse. -/
theorem endPulse_stands (x : State) : StoreStands x x.endPulse := by
  simp only [State.endPulse]; split
  · exact enterCheck_stands _
  · exact .refl _
/-- What follows an answer. -/
theorem after_stands (x : State) : StoreStands x x.afterAnswer := by
  obtain ⟨q, w, e1⟩ := pumpRequests_eq x
  have k1 : StoreStands x x.pumpRequests := .of (e1 ▸ withRequests_only x q w)
  exact ((k1.trans (.of (pumpErase_only _))).trans (proceed_stands _)).trans (endPulse_stands _)
/-- A trial fallback counted. -/
theorem countFallback_stands (x : State) : StoreStands x x.countFallback :=
  StoreStands.pre (.of ((offerChange_only _ _ _ _).trans (raise_only _ _))) (.same rfl rfl rfl rfl rfl rfl)

/-- The same, the window aside. -/
structure StandsBehind (x t : State) : Prop where
  flash : t.flash = x.flash
  anchor : t.anchor = { x.anchor with haltCount := t.anchor.haltCount }
  journal : t.journal = { x.journal with queue := t.journal.queue, held := t.journal.held }
  cause : x.response.causes.getLsbD 3 = true → t.response.causes.getLsbD 3 = true
  asked : t.arbiter.journal = x.arbiter.journal
/-- The same without the window. -/
theorem StandsBehind.of {x t : State} (h : StoreStands x t) : StandsBehind x t := ⟨h.1, h.2, h.3, h.4, h.6⟩
/-- Kept by one and then by another. -/
theorem StandsBehind.trans {x y z : State} (h : StandsBehind x y) (k : StandsBehind y z) : StandsBehind x z :=
  ⟨k.1.trans h.1, by rw [k.2, h.2], by rw [k.3, h.3], fun c => k.4 (h.4 c), k.5.trans h.5⟩
/-- Kept by one after another. -/
theorem StandsBehind.pre {x y z : State} (k : StandsBehind y z) (h : StandsBehind x y) : StandsBehind x z := h.trans k
/-- The generation among it. -/
theorem StandsBehind.gen {x t : State} (h : StandsBehind x t) : t.anchor.generation = x.anchor.generation := by rw [h.anchor]
/-- A command completes. -/
theorem finish_stands (x : State) (r b) : StandsBehind x (x.finish r b) := by
  rw [finish_eq]; exact ⟨rfl, rfl, rfl, id, rfl⟩
/-- A waiting command completes. -/
theorem finishIf_stands (x : State) (l r b) : StandsBehind x (x.finishIf l r b) := by
  simp only [State.finishIf]; split
  · exact finish_stands _ _ _
  · exact .of (.refl _)
/-- A command that waits for a request is answered. -/
theorem response_stands (x : State) (l r b) : StandsBehind x (x.answered l r b) := by
  simp only [State.answered]; split
  · exact ⟨rfl, rfl, rfl, id, rfl⟩
  · exact .of (.refl _)
/-- A decay timer starts. -/
theorem startDecay_stands (x : State) (i) : StoreStands x (x.startDecay i) := by
  simp only [State.startDecay]; split
  · split
    · split <;> exact .same rfl rfl rfl rfl rfl rfl
    · exact .refl _
  · exact .refl _
/-- A trial entry answered. -/
theorem trial_stands (x : State) (l o a) : StoreStands x (x.trialDecided l o a) := by
  simp only [State.trialDecided]
  have : ∀ y, StoreStands x y → StoreStands x (if (l && x.rst.check == .waitEntry) = true then y.startPass false else y) := by
    intro y h; split
    · exact h.trans (startPass_stands _ _)
    · exact h
  apply this
  have h1 : StoreStands x (if (l && x.rst.check == .waitEntry) = true then (if (o && a) = true then x.presentTrial else x.presentActive) else x) := by
    split
    · split
      · exact presentTrial_stands _
      · exact presentActive_stands _
    · exact .refl _
  split
  · exact h1.trans (countFallback_stands _)
  · exact h1
/-- A fallback entry answered STORE_FAULT. -/
theorem fell_stands (x : State) (l tr bank) : StoreStands x (x.fellBack l false tr bank) := by
  simp only [State.fellBack, Bool.false_eq_true, if_false]
  split
  · exact containBoot_stands _
  · exact .refl _
/-- A STORE_FAULT answer. -/
theorem fault_stands (x : State) (q : StoreRequest) : StandsBehind x (x.answeredFault q) := by
  simp only [State.answeredFault]
  split <;> first
    | exact finishIf_stands _ _ _ _
    | exact (StandsBehind.of (startDecay_stands _ _)).trans (finishIf_stands _ _ _ _)
    | exact .of (trial_stands _ _ _ _)
    | exact .of (fell_stands _ _ _ _)
    | exact .of (.refl _)

/-- A command that completes is DONE. -/
theorem finish_done (x : State) (r b) : (x.finish r b).window.engine = .done ∧ (x.finish r b).window.result = r.code ∧ (x.finish r b).window.body = b := by
  have := finish_window x r b
  exact ⟨this.1, this.2.1, this.2.2.1⟩

/-- A STORE_FAULT answer completes the command that waits for it (06 R90). -/
theorem fault_window (x : State) (q : StoreRequest) (h : q.purpose.source = .engine) (hl : q.live = true) :
   (x.answeredFault q).window.engine = .done ∧ (x.answeredFault q).window.result = 0x21 ∧ (x.answeredFault q).window.body = [] := by
  simp only [State.answeredFault]
  cases hp : q.purpose <;> simp only [hp, Purpose.source, reduceCtorEq] at h <;> simp only [State.finishIf, hl, if_true] <;> exact finish_done _ _ _

/-- A fallback entry answered. -/
theorem fellBack_stands (x : State) (l ok tr bank) : StoreStands x (x.fellBack l ok tr bank) := by
  cases ok with
  | false => exact fell_stands _ _ _ _
  | true =>
    simp only [State.fellBack, if_true]
    cases l && x.rst.check == .waitFallback <;> cases tr <;> simp only [Bool.false_eq_true, if_true, if_false]
    · exact .refl _
    · exact countFallback_stands _
    · exact StoreStands.pre (startPass_stands _ _) (.same rfl rfl rfl rfl rfl rfl)
    · exact (present_stands _ _ _ _ _).trans ((countFallback_stands _).trans (startPass_stands _ _))
/-- A record set. -/
theorem recordSet_stands (x : State) (id r) : StoreStands x (x.recordSet id r) := by
  simp only [State.recordSet]; split <;> exact .same rfl rfl rfl rfl rfl rfl
/-- The count of a record taken and offered. -/
theorem offerCount_stands (x : State) (id r n b a) : StoreStands x ((x.putCred id r).offerCount n b a) := by
  simp only [State.offerCount]
  split
  · exact .same rfl rfl rfl rfl rfl rfl
  · exact StoreStands.pre (.of (offer_only _ _ _ _)) (.same rfl rfl rfl rfl rfl rfl)
/-- A delay timer starts. -/
theorem startDelay_stands (x : State) (i) : StoreStands x (x.startDelay i) := by
  simp only [State.startDelay]
  split
  · split
    · split
      · exact startDecay_stands _ _
      · exact .same rfl rfl rfl rfl rfl rfl
    · exact .refl _
  · exact .refl _
/-- An answer OK, the bank record copy taken. -/
theorem ok_stands (x before : State) (q : StoreRequest) : StandsBehind x (x.answeredOk before q) := by
  simp only [State.answeredOk]
  cases hp : q.purpose with
  | keyCreate n k =>
    simp only [State.keyCreated]
    split
    · exact finishIf_stands _ _ _ _
    · exact StandsBehind.pre (finishIf_stands (x.putKey n (some k)) _ _ _) ⟨rfl, rfl, rfl, id, rfl⟩
  | keyDestroy n => exact StandsBehind.pre (finishIf_stands (x.putKey n none) _ _ _) ⟨rfl, rfl, rfl, id, rfl⟩
  | credStore id c epoch =>
    simp only [credStored_eq]
    split
    · exact (StandsBehind.of (recordSet_stands _ _ _)).trans (response_stands _ _ _ _)
    · exact response_stands _ _ _ _
  | credCount id count epoch candidate =>
    simp only [State.countWritten]
    split
    · exact finishIf_stands _ _ _ _
    · split
      · exact .of ((offerCount_stands _ _ _ _ _ _).trans (.of (place_only _ _ _)))
      · exact (StandsBehind.of ((offerCount_stands _ _ _ _ _ _).trans (startDelay_stands _ _))).trans
          (finishIf_stands _ _ _ _)
  | credMatch id epoch =>
    simp only [State.matchWritten]
    split
    · exact finishIf_stands _ _ _ _
    · refine StandsBehind.pre (finishIf_stands _ _ _ _) (.of ?_)
      simp only [State.matchGrant]
      split
      · exact (offerCount_stands _ _ _ _ _ _).trans (.same rfl rfl rfl rfl rfl rfl)
      · exact offerCount_stands _ _ _ _ _ _
  | credErase id epoch =>
    simp only [State.credErased, removeCred_eq]
    exact (StandsBehind.of (recordSet_stands _ _ _)).trans (finishIf_stands _ _ _ _)
  | updateOpen m =>
    simp only [State.opened]
    split
    · exact StandsBehind.pre (finish_stands _ _ _) ⟨rfl, rfl, rfl, id, rfl⟩
    · exact .of (.refl _)
  | updateConfirm =>
    simp only [State.confirmed]
    refine StandsBehind.trans (.of ?_) (finishIf_stands _ _ _ _)
    exact StoreStands.pre (.of (raise_only _ _)) (.same rfl rfl rfl rfl rfl rfl)
  | trialAttempt => exact .of (trial_stands _ _ _ _)
  | trialTimeout => exact .of (trial_stands _ _ _ _)
  | bootFallback => exact .of (fellBack_stands _ _ _ _ _)
  | responseErase id epoch => simp only [removeCred_eq]; exact .of (recordSet_stands _ _ _)
  | provisionAuthority key => exact StandsBehind.pre (finishIf_stands _ _ _ _) ⟨rfl, rfl, rfl, id, rfl⟩
  | sessionAbandon => exact .of (.refl _)
  | ownerEpoch => exact .of (.refl _)
  | _ => exact finishIf_stands _ _ _ _
/-- What any answer OK leaves. -/
theorem answered_stands (x : State) (q : StoreRequest) : StandsBehind x (x.answerStore q true) := by
  have h : StandsBehind x (x.takeRecord q) := by
    simp only [State.takeRecord]
    split
    · exact ⟨rfl, rfl, rfl, id, rfl⟩
    · exact .of (.refl _)
  exact (h.trans (ok_stands _ _ _)).trans (.of (after_stands _))

/-- What any answer STORE_FAULT leaves, containment taken (06 R92, R100). -/
theorem refused_stands (s : State) (q : StoreRequest) :
    let t := (s.contain .storeFault).answerStore q false
    StandsBehind (s.contain .storeFault) t ∧ t.contained = true ∧ t.response.causes.getLsbD 3 = true ∧
      (q.purpose.source = .engine → q.live = true → t.window.engine = .done ∧ t.window.result = 0x21 ∧ t.window.body = []) := by
  intro t
  have k := after_stands ((s.contain .storeFault).answeredFault q)
  have j := (fault_stands (s.contain .storeFault) q).trans (.of k)
  have hcc : t.response.causes.getLsbD 3 = true := j.cause (addTo_has _ 3 (by decide))
  refine ⟨j, ?_, hcc, fun hs hl => ?_⟩
  · simp only [State.contained, Response.latch, bne_iff_ne, ne_eq]
    intro h0
    rw [h0] at hcc
    simp at hcc
  · obtain ⟨a, b, c⟩ := fault_window (s.contain .storeFault) q hs hl
    have hw : t.window = _ := k.window
    exact ⟨by rw [hw]; exact a, by rw [hw]; exact b, by rw [hw]; exact c⟩

/-- A second failure ends the request (06 R92). -/
theorem failRequest_failed (s : State) (job : Job) : RequestFailed s job.request (s.failRequest job) := by
  obtain ⟨j, h1, h2, h3⟩ := refused_stands { s with journal := { s.journal with job := none, state := .fault } } job.request
  have hj := j.journal
  refine ⟨answerStore_refused _ _, ?_, ?_, h1, h2, ?_, ?_, ?_, ?_, j.gen, j.flash, h3⟩ <;>
    (rw [show (s.failRequest job).journal = _ from hj]; rfl)

end Sys2Proof.Machine
end

