-- ==== Sys2Proof/Laws/Memory.lean ====
section
/-! SUPPORT. The addressed memories: a read after a write, and the canonical form kept by every operation. -/

namespace Sys2Proof.Machine

/-! ### Reads after writes -/

theorem Memory.read_below (m : Memory) (lo a : Nat) (h : Memory.wfFrom lo m = true) (ha : a < lo) :
    m.read a = blankByte := by
  induction m generalizing lo with
  | nil => rfl
  | cons c rest ih =>
    simp only [Memory.wfFrom, Bool.and_eq_true, decide_eq_true_eq] at h
    have hne : c.1 ≠ a := by omega
    simp only [Memory.read, hne, if_false]
    exact ih (c.1 + 1) h.2 (by omega)

/-- A byte written reads back. -/
theorem Memory.read_write_same (m : Memory) (lo a : Nat) (v : Byte) (h : Memory.wfFrom lo m = true) :
    (m.write a v).read a = v := by
  induction m generalizing lo with
  | nil => by_cases hv : v = blankByte <;> simp [Memory.write, Memory.read, hv]
  | cons c rest ih =>
    simp only [Memory.wfFrom, Bool.and_eq_true, decide_eq_true_eq] at h
    by_cases h1 : a < c.1
    · by_cases hv : v = blankByte
      · have hr : Memory.read (c :: rest) a = blankByte := by
          have hne : c.1 ≠ a := by omega
          simp only [Memory.read, hne, if_false]
          exact Memory.read_below rest (c.1 + 1) a h.2 (by omega)
        simp only [Memory.write, h1, if_true, hv]
        exact hr
      · simp [Memory.write, h1, hv, Memory.read]
    · by_cases h2 : a = c.1
      · by_cases hv : v = blankByte
        · simp only [Memory.write, h2, Nat.lt_irrefl, if_false, if_true, hv]
          exact Memory.read_below rest (c.1 + 1) c.1 h.2 (by omega)
        · simp [Memory.write, h2, hv, Memory.read]
      · have hne : c.1 ≠ a := fun e => h2 e.symm
        simp only [Memory.write, h1, if_false, h2, Memory.read, hne]
        exact ih (c.1 + 1) h.2

/-- A byte written leaves every other byte as it was. -/
theorem Memory.read_write_other (m : Memory) (a b : Nat) (v : Byte) (hab : a ≠ b) :
    (m.write a v).read b = m.read b := by
  induction m with
  | nil => by_cases hv : v = blankByte <;> simp [Memory.write, Memory.read, hv, hab]
  | cons c rest ih =>
    by_cases h1 : a < c.1
    · by_cases hv : v = blankByte <;> simp [Memory.write, h1, hv, Memory.read, hab]
    · by_cases h2 : a = c.1
      · have hcb : c.1 ≠ b := fun e => hab (h2.trans e)
        by_cases hv : v = blankByte <;> simp [Memory.write, h2, hv, Memory.read, hcb]
      · simp only [Memory.write, h1, if_false, h2, Memory.read]
        rw [ih]

/-! ### The canonical form -/

theorem Memory.wfFrom_mono (m : Memory) (lo lo' : Nat) (h : Memory.wfFrom lo m = true) (hl : lo' ≤ lo) :
    Memory.wfFrom lo' m = true := by
  cases m with
  | nil => rfl
  | cons c rest =>
    simp only [Memory.wfFrom, Bool.and_eq_true, decide_eq_true_eq] at h ⊢
    exact ⟨⟨by omega, h.1.2⟩, h.2⟩

theorem Memory.write_wfFrom (m : Memory) (lo a : Nat) (v : Byte) (h : Memory.wfFrom lo m = true) (hl : lo ≤ a) :
    Memory.wfFrom lo (m.write a v) = true := by
  induction m generalizing lo with
  | nil =>
    by_cases hv : v = blankByte
    · simp [Memory.write, hv, Memory.wfFrom]
    · simp [Memory.write, hv, Memory.wfFrom, hl]
  | cons c rest ih =>
    have h' := h
    simp only [Memory.wfFrom, Bool.and_eq_true, decide_eq_true_eq] at h
    by_cases h1 : a < c.1
    · by_cases hv : v = blankByte
      · simpa only [Memory.write, h1, if_true, hv] using h'
      · simp only [Memory.write, h1, if_true, hv, if_false, Memory.wfFrom, Bool.and_eq_true, decide_eq_true_eq]
        exact ⟨⟨hl, hv⟩, ⟨by omega, h.1.2⟩, h.2⟩
    · by_cases h2 : a = c.1
      · by_cases hv : v = blankByte
        · simp only [Memory.write, h2, Nat.lt_irrefl, if_false, if_true, hv]
          exact Memory.wfFrom_mono rest (c.1 + 1) lo h.2 (by omega)
        · simp only [Memory.write, h2, Nat.lt_irrefl, if_false, if_true, hv, Memory.wfFrom, Bool.and_eq_true,
            decide_eq_true_eq]
          exact ⟨⟨by omega, hv⟩, h.2⟩
      · simp only [Memory.write, h1, if_false, h2, Memory.wfFrom, Bool.and_eq_true, decide_eq_true_eq]
        exact ⟨h.1, ih (c.1 + 1) h.2 (by omega)⟩

theorem Memory.write_wf (m : Memory) (a : Nat) (v : Byte) (h : m.wf = true) : (m.write a v).wf = true :=
  Memory.write_wfFrom m 0 a v h (Nat.zero_le a)

theorem Memory.writeBytes_wf (m : Memory) (a : Nat) (bs : Bytes) (h : m.wf = true) :
    (m.writeBytes a bs).wf = true := by
  induction bs generalizing m a with
  | nil => exact h
  | cons v vs ih => exact ih (m.write a v) (a + 1) (Memory.write_wf m a v h)

theorem Memory.filter_wfFrom (m : Memory) (lo : Nat) (p : Host.Cell → Bool) (h : Memory.wfFrom lo m = true) :
    Memory.wfFrom lo (m.filter p) = true := by
  induction m generalizing lo with
  | nil => rfl
  | cons c rest ih =>
    simp only [Memory.wfFrom, Bool.and_eq_true, decide_eq_true_eq] at h
    by_cases hp : p c = true
    · rw [List.filter_cons_of_pos hp]
      simp only [Memory.wfFrom, Bool.and_eq_true, decide_eq_true_eq]
      exact ⟨h.1, ih (c.1 + 1) h.2⟩
    · rw [List.filter_cons_of_neg hp]
      exact Memory.wfFrom_mono _ (c.1 + 1) lo (ih (c.1 + 1) h.2) (by omega)

theorem Memory.erase_wf (m : Memory) (lo len : Nat) (h : m.wf = true) : (m.erase lo len).wf = true :=
  Memory.filter_wfFrom m 0 _ h

theorem Memory.patch_wf (within : Nat → Bool) (m : Memory) (cells : List Host.Cell) (h : m.wf = true) :
    (m.patch within cells).wf = true := by
  induction cells generalizing m with
  | nil => exact h
  | cons c rest ih =>
    simp only [Memory.patch]
    by_cases hp : within c.1 = true
    · simp only [hp, if_true]
      exact ih _ (Memory.write_wf m c.1 c.2 h)
    · simp only [hp]
      exact ih _ h

/-! ### What an erase and a patch leave -/

/-- After an erase the bytes of the unit read FFh and every other byte is as it was. -/
theorem Memory.read_erase (m : Memory) (lo len a : Nat) :
    (m.erase lo len).read a = if lo ≤ a ∧ a < lo + len then blankByte else m.read a := by
  induction m with
  | nil => simp [Memory.erase, Memory.read]
  | cons c rest ih =>
    simp only [Memory.erase] at ih ⊢
    by_cases hp : (decide (c.1 < lo) || decide (lo + len ≤ c.1)) = true
    · rw [List.filter_cons, if_pos hp]
      simp only [Bool.or_eq_true, decide_eq_true_eq] at hp
      by_cases hc : c.1 = a
      · have hno : ¬(lo ≤ a ∧ a < lo + len) := by omega
        simp [Memory.read, hc, hno]
      · simp only [Memory.read, hc, if_false]
        exact ih
    · rw [List.filter_cons, if_neg hp]
      simp only [Bool.or_eq_true, decide_eq_true_eq, not_or, Nat.not_lt, Nat.not_le] at hp
      rw [ih]
      by_cases hc : c.1 = a
      · have hin : lo ≤ a ∧ a < lo + len := by omega
        simp [hin]
      · simp [Memory.read, hc]

/-- A patch leaves every byte that it may not touch as it was. -/
theorem Memory.read_patch_outside (within : Nat → Bool) (m : Memory) (cells : List Host.Cell) (a : Nat)
    (h : within a = false) : (m.patch within cells).read a = m.read a := by
  induction cells generalizing m with
  | nil => rfl
  | cons c rest ih =>
    simp only [Memory.patch]
    by_cases hp : within c.1 = true
    · have hne : c.1 ≠ a := fun e => by rw [e, h] at hp; exact absurd hp (by decide)
      simp only [hp, if_true]
      rw [ih, Memory.read_write_other m c.1 a c.2 hne]
    · simp only [hp]
      exact ih m

/-! ### Flash operations and the request buffer -/

theorem programBytes_wf (page : Nat) (m : Memory) (k : Nat) (bs : Bytes) (h : m.wf = true) :
    (programBytes page m k bs).wf = true := by
  induction bs generalizing m k with
  | nil => exact h
  | cons v vs ih => exact ih _ _ (Memory.write_wf m _ _ h)

/-- A flash operation keeps the canonical form. -/
theorem FlashOp.apply_wf (op : FlashOp) (m : Memory) (h : m.wf = true) : (op.apply m).wf = true := by
  cases op with
  | read a n => exact h
  | program base data => exact programBytes_wf _ _ _ _ h
  | erase4k base => exact Memory.erase_wf m _ _ h
  | erase64k base => exact Memory.erase_wf m _ _ h

theorem writePage_wf (offset : Nat) (m : Memory) (page : List (Option Byte)) (h : m.wf = true) :
    (writePage offset m page).wf = true := by
  induction page generalizing m offset with
  | nil => exact h
  | cons x rest ih =>
    cases x with
    | none => exact ih _ _ h
    | some v => exact ih _ _ (Memory.write_wf m offset v h)

end Sys2Proof.Machine
end

