-- ==== Sys2Proof/WellFormed.lean ====
section
/-! DEFINITION. Which commands are well formed: operands in the ranges the spec gives. A meaning is
total and takes an ill-formed command too; a bus transaction or a sender gives only well-formed ones. -/

namespace Sys2Proof

/-- Every cell names a byte of the largest physical flash, 0000000h ~ 1FFFFFFh (01 section 1.7). -/
def FlashCells.wf (cells : FlashCells) : Bool := cells.all (fun c => decide (c.1 < 33554432))

/-- The bytes of a read before its data: at most three address bytes and four dummy bytes (01 R1). -/
def readPreludeWf (received : Bytes) : Bool := decide (received.length ≤ 7)

/-- A command whose operands are in range: cells within the flash, credential ids 0 ~ 31 (08 R117). -/
def Instr.wellFormed : Instr → Bool
  | .read _ received | .fastRead _ received => readPreludeWf received
  | .readDataByte cells | .readChunkComplete cells | .storeReadChunkComplete cells => cells.wf
  | .flashOperationComplete cells | .lossOfSupply cells => cells.wf
  | .delayExpiry id | .decayExpiry id => decide (id < 32)
  | .powerOn | .uptimeTick | .transactionStart | .suspendComplete | .transactionEnd => true
  | .program _ _ | .erase4k _ _ | .erase64k _ _ | .eraseChip _ => true
  | .writeEnable _ | .writeDisable _ | .statusRead _ _ | .idRead _ _ | .refusedOpcode _ _ => true
  | .internalGrant | .storeRequestTaken | .signatureUnitComplete | .rstReqAsserted => true
  | .rstReqDeasserted | .pulseEnd | .ownerClrAsserted | .ownerClrDeasserted | .ownerReset => true
  | .trialTimerExpiry | .grantExpiry | .status | .events | .resetSoc | .causeClear => true
  | .stageAdvance | .measureExtend | .measureRead | .logRead | .attest => true
  | .keyCreate | .keyPublic | .keySign | .keyDerive | .keyDestroy | .keyList => true
  | .credStore | .credRelease | .credVerify | .credErase | .credList | .grantDrop => true
  | .updateOpen | .updateVerify | .updateStatus | .updateCommit | .updateAbort => true
  | .updateConfirm | .violationRead | .layoutRead | .provisionLayout | .provisionAuthority => true
  | .provisionBank | .provisionFinish | .anchorMemoryWriteComplete => true

end Sys2Proof
end

