-- ==== Sys2Proof/Laws/PerInstr.lean ====
section
/-! SUPPORT. The per-command family OperandsInRange: a command is well formed exactly when its flash cells, its
read prelude and its credential id are in the ranges the spec gives. -/

namespace Sys2Proof.Laws

/-- The flash cells a command carries. -/
def cellsOf : Instr → FlashCells
  | .readDataByte cells | .readChunkComplete cells | .storeReadChunkComplete cells => cells
  | .flashOperationComplete cells | .lossOfSupply cells => cells
  | _ => []

/-- The bytes of a read before its data. -/
def preludeOf : Instr → Bytes
  | .read _ received | .fastRead _ received => received
  | _ => []

/-- The credential ids a command names. -/
def idsOf : Instr → List Nat
  | .delayExpiry id | .decayExpiry id => [id]
  | _ => []

/-- Well formed exactly when every operand is in its range (01 R1, 01 section 1.7, 08 R117). -/
def OperandsInRange.Statement (i : Instr) : Prop :=
  i.wellFormed = true ↔
    (∀ c ∈ cellsOf i, c.1 < 33554432) ∧ (preludeOf i).length ≤ 7 ∧ ∀ id ∈ idsOf i, id < 32

theorem cells_wf_iff (cells : FlashCells) : cells.wf = true ↔ ∀ c ∈ cells, c.1 < 33554432 := by
  simp [FlashCells.wf]

/-- A command without operands of these kinds is well formed. -/
theorem OperandsInRange.of_none {i : Instr} (hw : i.wellFormed = true) (hc : cellsOf i = [])
    (hp : preludeOf i = []) (hi : idsOf i = []) : OperandsInRange.Statement i := by
  simp [OperandsInRange.Statement, hw, hc, hp, hi]

/-- A command with flash cells alone. -/
theorem OperandsInRange.of_cells {i : Instr} {cells : FlashCells} (hw : i.wellFormed = cells.wf)
    (hc : cellsOf i = cells) (hp : preludeOf i = []) (hi : idsOf i = []) : OperandsInRange.Statement i := by
  simp [OperandsInRange.Statement, hw, hc, hp, hi, cells_wf_iff]

/-- A command with a read prelude alone. -/
theorem OperandsInRange.of_prelude {i : Instr} {received : Bytes} (hw : i.wellFormed = readPreludeWf received)
    (hc : cellsOf i = []) (hp : preludeOf i = received) (hi : idsOf i = []) : OperandsInRange.Statement i := by
  simp [OperandsInRange.Statement, hw, hc, hp, hi, readPreludeWf]

/-- A command with a credential id alone. -/
theorem OperandsInRange.of_id {i : Instr} {id : Nat} (hw : i.wellFormed = decide (id < 32)) (hc : cellsOf i = [])
    (hp : preludeOf i = []) (hi : idsOf i = [id]) : OperandsInRange.Statement i := by
  simp [OperandsInRange.Statement, hw, hc, hp, hi]

theorem OperandsInRange.powerOn : OperandsInRange.Statement .powerOn :=
  OperandsInRange.of_none rfl rfl rfl rfl

theorem OperandsInRange.uptimeTick : OperandsInRange.Statement .uptimeTick :=
  OperandsInRange.of_none rfl rfl rfl rfl

theorem OperandsInRange.transactionStart : OperandsInRange.Statement .transactionStart :=
  OperandsInRange.of_none rfl rfl rfl rfl

theorem OperandsInRange.suspendComplete : OperandsInRange.Statement .suspendComplete :=
  OperandsInRange.of_none rfl rfl rfl rfl

theorem OperandsInRange.transactionEnd : OperandsInRange.Statement .transactionEnd :=
  OperandsInRange.of_none rfl rfl rfl rfl

theorem OperandsInRange.read (opcode : Byte) (received : Bytes) : OperandsInRange.Statement (.read opcode received) :=
  OperandsInRange.of_prelude rfl rfl rfl rfl

theorem OperandsInRange.fastRead (opcode : Byte) (received : Bytes) : OperandsInRange.Statement (.fastRead opcode received) :=
  OperandsInRange.of_prelude rfl rfl rfl rfl

theorem OperandsInRange.readDataByte (misread : FlashCells) : OperandsInRange.Statement (.readDataByte misread) :=
  OperandsInRange.of_cells rfl rfl rfl rfl

theorem OperandsInRange.program (opcode : Byte) (received : Bytes) : OperandsInRange.Statement (.program opcode received) :=
  OperandsInRange.of_none rfl rfl rfl rfl

theorem OperandsInRange.erase4k (opcode : Byte) (received : Bytes) : OperandsInRange.Statement (.erase4k opcode received) :=
  OperandsInRange.of_none rfl rfl rfl rfl

theorem OperandsInRange.erase64k (opcode : Byte) (received : Bytes) : OperandsInRange.Statement (.erase64k opcode received) :=
  OperandsInRange.of_none rfl rfl rfl rfl

theorem OperandsInRange.eraseChip (bare : BareTransaction) : OperandsInRange.Statement (.eraseChip bare) :=
  OperandsInRange.of_none rfl rfl rfl rfl

theorem OperandsInRange.writeEnable (bare : BareTransaction) : OperandsInRange.Statement (.writeEnable bare) :=
  OperandsInRange.of_none rfl rfl rfl rfl

theorem OperandsInRange.writeDisable (bare : BareTransaction) : OperandsInRange.Statement (.writeDisable bare) :=
  OperandsInRange.of_none rfl rfl rfl rfl

theorem OperandsInRange.statusRead (opcode : Byte) (n : Nat) : OperandsInRange.Statement (.statusRead opcode n) :=
  OperandsInRange.of_none rfl rfl rfl rfl

theorem OperandsInRange.idRead (opcode : Byte) (n : Nat) : OperandsInRange.Statement (.idRead opcode n) :=
  OperandsInRange.of_none rfl rfl rfl rfl

theorem OperandsInRange.refusedOpcode (opcode : Byte) (n : Nat) : OperandsInRange.Statement (.refusedOpcode opcode n) :=
  OperandsInRange.of_none rfl rfl rfl rfl

theorem OperandsInRange.internalGrant : OperandsInRange.Statement .internalGrant :=
  OperandsInRange.of_none rfl rfl rfl rfl

theorem OperandsInRange.readChunkComplete (misread : FlashCells) : OperandsInRange.Statement (.readChunkComplete misread) :=
  OperandsInRange.of_cells rfl rfl rfl rfl

theorem OperandsInRange.storeReadChunkComplete (misread : FlashCells) : OperandsInRange.Statement (.storeReadChunkComplete misread) :=
  OperandsInRange.of_cells rfl rfl rfl rfl

theorem OperandsInRange.flashOperationComplete (failed : FlashCells) : OperandsInRange.Statement (.flashOperationComplete failed) :=
  OperandsInRange.of_cells rfl rfl rfl rfl

theorem OperandsInRange.storeRequestTaken : OperandsInRange.Statement .storeRequestTaken :=
  OperandsInRange.of_none rfl rfl rfl rfl

theorem OperandsInRange.signatureUnitComplete : OperandsInRange.Statement .signatureUnitComplete :=
  OperandsInRange.of_none rfl rfl rfl rfl

theorem OperandsInRange.rstReqAsserted : OperandsInRange.Statement .rstReqAsserted :=
  OperandsInRange.of_none rfl rfl rfl rfl

theorem OperandsInRange.rstReqDeasserted : OperandsInRange.Statement .rstReqDeasserted :=
  OperandsInRange.of_none rfl rfl rfl rfl

theorem OperandsInRange.pulseEnd : OperandsInRange.Statement .pulseEnd :=
  OperandsInRange.of_none rfl rfl rfl rfl

theorem OperandsInRange.ownerClrAsserted : OperandsInRange.Statement .ownerClrAsserted :=
  OperandsInRange.of_none rfl rfl rfl rfl

theorem OperandsInRange.ownerClrDeasserted : OperandsInRange.Statement .ownerClrDeasserted :=
  OperandsInRange.of_none rfl rfl rfl rfl

theorem OperandsInRange.ownerReset : OperandsInRange.Statement .ownerReset :=
  OperandsInRange.of_none rfl rfl rfl rfl

theorem OperandsInRange.trialTimerExpiry : OperandsInRange.Statement .trialTimerExpiry :=
  OperandsInRange.of_none rfl rfl rfl rfl

theorem OperandsInRange.grantExpiry : OperandsInRange.Statement .grantExpiry :=
  OperandsInRange.of_none rfl rfl rfl rfl

theorem OperandsInRange.delayExpiry (id : Nat) : OperandsInRange.Statement (.delayExpiry id) :=
  OperandsInRange.of_id rfl rfl rfl rfl

theorem OperandsInRange.decayExpiry (id : Nat) : OperandsInRange.Statement (.decayExpiry id) :=
  OperandsInRange.of_id rfl rfl rfl rfl

theorem OperandsInRange.status : OperandsInRange.Statement .status :=
  OperandsInRange.of_none rfl rfl rfl rfl

theorem OperandsInRange.events : OperandsInRange.Statement .events :=
  OperandsInRange.of_none rfl rfl rfl rfl

theorem OperandsInRange.resetSoc : OperandsInRange.Statement .resetSoc :=
  OperandsInRange.of_none rfl rfl rfl rfl

theorem OperandsInRange.causeClear : OperandsInRange.Statement .causeClear :=
  OperandsInRange.of_none rfl rfl rfl rfl

theorem OperandsInRange.stageAdvance : OperandsInRange.Statement .stageAdvance :=
  OperandsInRange.of_none rfl rfl rfl rfl

theorem OperandsInRange.measureExtend : OperandsInRange.Statement .measureExtend :=
  OperandsInRange.of_none rfl rfl rfl rfl

theorem OperandsInRange.measureRead : OperandsInRange.Statement .measureRead :=
  OperandsInRange.of_none rfl rfl rfl rfl

theorem OperandsInRange.logRead : OperandsInRange.Statement .logRead :=
  OperandsInRange.of_none rfl rfl rfl rfl

theorem OperandsInRange.attest : OperandsInRange.Statement .attest :=
  OperandsInRange.of_none rfl rfl rfl rfl

theorem OperandsInRange.keyCreate : OperandsInRange.Statement .keyCreate :=
  OperandsInRange.of_none rfl rfl rfl rfl

theorem OperandsInRange.keyPublic : OperandsInRange.Statement .keyPublic :=
  OperandsInRange.of_none rfl rfl rfl rfl

theorem OperandsInRange.keySign : OperandsInRange.Statement .keySign :=
  OperandsInRange.of_none rfl rfl rfl rfl

theorem OperandsInRange.keyDerive : OperandsInRange.Statement .keyDerive :=
  OperandsInRange.of_none rfl rfl rfl rfl

theorem OperandsInRange.keyDestroy : OperandsInRange.Statement .keyDestroy :=
  OperandsInRange.of_none rfl rfl rfl rfl

theorem OperandsInRange.keyList : OperandsInRange.Statement .keyList :=
  OperandsInRange.of_none rfl rfl rfl rfl

theorem OperandsInRange.credStore : OperandsInRange.Statement .credStore :=
  OperandsInRange.of_none rfl rfl rfl rfl

theorem OperandsInRange.credRelease : OperandsInRange.Statement .credRelease :=
  OperandsInRange.of_none rfl rfl rfl rfl

theorem OperandsInRange.credVerify : OperandsInRange.Statement .credVerify :=
  OperandsInRange.of_none rfl rfl rfl rfl

theorem OperandsInRange.credErase : OperandsInRange.Statement .credErase :=
  OperandsInRange.of_none rfl rfl rfl rfl

theorem OperandsInRange.credList : OperandsInRange.Statement .credList :=
  OperandsInRange.of_none rfl rfl rfl rfl

theorem OperandsInRange.grantDrop : OperandsInRange.Statement .grantDrop :=
  OperandsInRange.of_none rfl rfl rfl rfl

theorem OperandsInRange.updateOpen : OperandsInRange.Statement .updateOpen :=
  OperandsInRange.of_none rfl rfl rfl rfl

theorem OperandsInRange.updateVerify : OperandsInRange.Statement .updateVerify :=
  OperandsInRange.of_none rfl rfl rfl rfl

theorem OperandsInRange.updateStatus : OperandsInRange.Statement .updateStatus :=
  OperandsInRange.of_none rfl rfl rfl rfl

theorem OperandsInRange.updateCommit : OperandsInRange.Statement .updateCommit :=
  OperandsInRange.of_none rfl rfl rfl rfl

theorem OperandsInRange.updateAbort : OperandsInRange.Statement .updateAbort :=
  OperandsInRange.of_none rfl rfl rfl rfl

theorem OperandsInRange.updateConfirm : OperandsInRange.Statement .updateConfirm :=
  OperandsInRange.of_none rfl rfl rfl rfl

theorem OperandsInRange.violationRead : OperandsInRange.Statement .violationRead :=
  OperandsInRange.of_none rfl rfl rfl rfl

theorem OperandsInRange.layoutRead : OperandsInRange.Statement .layoutRead :=
  OperandsInRange.of_none rfl rfl rfl rfl

theorem OperandsInRange.provisionLayout : OperandsInRange.Statement .provisionLayout :=
  OperandsInRange.of_none rfl rfl rfl rfl

theorem OperandsInRange.provisionAuthority : OperandsInRange.Statement .provisionAuthority :=
  OperandsInRange.of_none rfl rfl rfl rfl

theorem OperandsInRange.provisionBank : OperandsInRange.Statement .provisionBank :=
  OperandsInRange.of_none rfl rfl rfl rfl

theorem OperandsInRange.provisionFinish : OperandsInRange.Statement .provisionFinish :=
  OperandsInRange.of_none rfl rfl rfl rfl

theorem OperandsInRange.anchorMemoryWriteComplete : OperandsInRange.Statement .anchorMemoryWriteComplete :=
  OperandsInRange.of_none rfl rfl rfl rfl

theorem OperandsInRange.lossOfSupply (torn : FlashCells) : OperandsInRange.Statement (.lossOfSupply torn) :=
  OperandsInRange.of_cells rfl rfl rfl rfl

end Sys2Proof.Laws
end

