-- ==== Sys2Proof/Laws/Scan.lean ====
section
/-! SUPPORT. What the start-up scan finds, said as the rules say it: entries and their tags, valid halves, the chain, the
append point, and the live objects. -/

namespace Sys2Proof.Machine

/-- The codes of the object kinds read back (06 R88). -/
theorem objectKind_ofCode_iff (b : Byte) (k : ObjectKind) : ObjectKind.ofCode b = some k ↔ b = k.code := by
  constructor
  · intro h
    unfold ObjectKind.ofCode at h
    apply BitVec.eq_of_toNat_eq
    split at h <;> cases h <;> simp_all [ObjectKind.code]
  · rintro rfl
    cases k <;> rfl

/-- The key stream covers its blocks. -/
theorem keyStream_length (sk : Digest) (k : ObjectKind) (id : Nat) (g : Word32) (n b : Nat) : (keyStream sk k id g n b).length = 32 * n := by
  induction n generalizing b with
  | zero => rfl
  | succ n ih => simp [keyStream, ih, digestBytes, beBytes_length]; omega

/-- Encryption leaves the length unchanged (06 R88). -/
theorem crypt_length (sk : Digest) (k : ObjectKind) (id : Nat) (g : Word32) (bs : Bytes) : (crypt sk k id g bs).length = bs.length := by
  simp [crypt, keyStream_length]; omega

/-- A correct tag, as R88 states it. -/
theorem tagCorrect_iff (tk : Digest) (bs : Bytes) : tagCorrect tk bs = true ↔
    bs.drop (bs.length - 16) = (digestBytes (hmacKey tk (bs.take (bs.length - 16)))).take 16 ∧
    bs.drop (bs.length - 16) ≠ List.replicate 16 0 ∧ bs.drop (bs.length - 16) ≠ List.replicate 16 0xFF := by
  simp only [tagCorrect, entryTag, Bool.and_eq_true, and_assoc]
  constructor
  · rintro ⟨h1, h2, h3⟩; exact ⟨of_decide_eq_true h1, of_decide_eq_true h2, of_decide_eq_true h3⟩
  · rintro ⟨h1, h2, h3⟩; exact ⟨decide_eq_true h1, decide_eq_true h2, decide_eq_true h3⟩

/-- The entry that whole entry bytes hold, field by field (06 R88). -/
theorem decodeEntry_iff (tk sk : Digest) (off : Nat) (bs : Bytes) (e : FoundEntry) : decodeEntry tk sk off bs = some e ↔
   byteAt bs 0 = e.kind.code ∧ e.id = (byteAt bs 1).toNat ∧ e.generation = word32At bs 2 ∧ e.epoch = word32At bs 6 ∧ e.secret = (byteAt bs 12 != 0) ∧
   e.payload = (if e.secret then crypt sk e.kind e.id e.generation (slice bs 16 (field bs 10 2)) else slice bs 16 (field bs 10 2)) ∧
   e.offset = off ∧ e.length = bs.length ∧ tagCorrect tk bs = true := by
  simp only [decodeEntry]
  constructor
  · intro h
    cases hk : ObjectKind.ofCode (byteAt bs 0) with
    | none => simp [hk] at h
    | some k =>
      by_cases ht : tagCorrect tk bs = true
      · simp [hk, ht] at h
        subst h
        refine ⟨(objectKind_ofCode_iff _ _).1 hk, rfl, rfl, rfl, rfl, ?_, rfl, rfl, ht⟩
        by_cases h12 : byteAt bs 12 = 0 <;> simp [h12]
      · simp [hk, ht] at h
  · rintro ⟨h1, h2, h3, h4, h5, h6, h7, h8, h9⟩
    rw [(objectKind_ofCode_iff _ _).2 h1]
    simp only [Option.bind_eq_bind, Option.bind_some, h9, if_true]
    obtain ⟨k, i, g, ep, sec, pl, o, l⟩ := e
    simp only at *
    subst h2 h3 h4 h5 h7 h8
    rw [h6]
    rfl

/-- The entry read at an offset is the one that begins there (06 R88, R96). -/
theorem holds_iff (j : Journal) (half : Memory) (off : Nat) (e : FoundEntry) : j.holds half off e ↔ entryAt j.tagKey j.storageKey half off = some e := by
  simp only [Journal.holds, entryAt]
  constructor
  · rintro ⟨h1, h2, h3, h4, h5, h6, h7, h8, h9, h10, h11, h12, h13, h14, h15⟩
    have hge : 32 ≤ e.length := by omega
    have hn : half.readBytes (off + 10) 2 = beBytes 2 e.payload.length := by
      rw [← h10, slice_readBytes _ _ _ _ _ (by omega)]
    have hfield : field (half.readBytes (off + 10) 2) 0 2 = e.payload.length := by
      simp only [field, slice, List.drop_zero]
      rw [hn, List.take_of_length_le (Nat.le_of_eq (beBytes_length _ _)), beNat_beBytes _ _ (by omega)]
    have hlen : entryLength e.payload.length = e.length := by simp [entryLength, roundUp16, h3]
    rw [hfield, hlen]
    have hrd : half.read off = e.kind.code := by
      rw [← h5, byteAt_readBytes _ _ _ _ (by omega)]; rfl
    rw [if_pos (by rw [hrd, (objectKind_ofCode_iff _ e.kind).2 rfl]; simp [maxPayload, halfSize, h2, h4])]
    have hlb : (half.readBytes off e.length).length = e.length := readBytes_length _ _ _
    generalize half.readBytes off e.length = bs at *
    have hf10 : field bs 10 2 = e.payload.length := by
      simp only [field, h10]; exact beNat_beBytes _ _ (by omega)
    refine (decodeEntry_iff _ _ _ _ _).2 ⟨h5, ?_, ?_, ?_, ?_, ?_, h1, hlb.symm, ?_⟩
    · rw [h6, BitVec.toNat_ofNat, Nat.mod_eq_of_lt h7]
    · exact ((word32_iff_beBytes _ _ (by simp [slice, hlb]; omega)).2 h8).symm
    · exact ((word32_iff_beBytes _ _ (by simp [slice, hlb]; omega)).2 h9).symm
    · rw [Bool.eq_iff_iff, h11]; simp
    · rw [hf10]; exact h12
    · rw [tagCorrect_iff, hlb]; exact ⟨h13, h14, h15⟩
  · intro h
    split at h
    · rename_i hc
      simp only [Bool.and_eq_true] at hc
      obtain ⟨⟨hc1, hc2⟩, hc3⟩ := hc
      have hc1 := of_decide_eq_true hc1
      have hc2 := of_decide_eq_true hc2
      simp only [maxPayload, halfSize] at hc1 hc2
      generalize hn : field (half.readBytes (off + 10) 2) 0 2 = n at *
      obtain ⟨h1, h2, h3, h4, h5, h6, h7, h8, h9⟩ := (decodeEntry_iff _ _ _ _ _).1 h
      rw [readBytes_length] at h8
      have hel : e.length = 32 + (n + 15) / 16 * 16 := by rw [h8]; rfl
      have hs10 : slice (half.readBytes off (entryLength n)) 10 2 = half.readBytes (off + 10) 2 := slice_readBytes _ _ _ _ _ (by omega)
      have hf10 : field (half.readBytes off (entryLength n)) 10 2 = n := by
        rw [field, hs10, ← hn]
        simp [field, slice, List.take_of_length_le, readBytes_length]
      rw [hf10] at h6
      have hpl : e.payload.length = n := by
        rw [h6]
        have : (slice (half.readBytes off (entryLength n)) 16 n).length = n := by simp [slice, readBytes_length]; omega
        split
        · rw [crypt_length, this]
        · exact this
      rw [← h8] at h1 h2 h3 h4 h5 h6 h9 hs10 hf10 hc2
      have hlb : (half.readBytes off e.length).length = e.length := readBytes_length _ _ _
      generalize half.readBytes off e.length = bs at *
      rw [hpl]
      rw [tagCorrect_iff, hlb] at h9
      refine ⟨h7, hc1, hel, hc2, h1, ?_, ?_, ?_, ?_, ?_, ?_, h6, h9.1, h9.2.1, h9.2.2⟩
      · rw [h2]; simp
      · rw [h2]; exact (byteAt bs 1).isLt
      · exact (word32_iff_beBytes _ _ (by simp [slice, hlb]; omega)).1 h3.symm
      · exact (word32_iff_beBytes _ _ (by simp [slice, hlb]; omega)).1 h4.symm
      · have := beBytes_beNat (slice bs 10 2)
        rw [show (slice bs 10 2).length = 2 by simp [slice, hlb]; omega] at this
        rw [← this, ← hf10]; rfl
      · rw [h5]; simp
    · cases h

/-- An entry is at least 32 bytes long, a multiple of 16, and ends within its half (06 R88). -/
theorem holds_length {j : Journal} {half : Memory} {a : Nat} {e : FoundEntry} (h : j.holds half a e) : 32 ≤ e.length ∧ a + e.length ≤ 131072 ∧ e.offset = a ∧ e.length % 16 = 0 := by
  obtain ⟨h1, h2, h3, h4, _⟩ := h
  omega

/-- No entry begins where a half reads FFh. -/
theorem holds_nothing_at {j : Journal} {half : Memory} {a : Nat} (h : half.read a = 0xFF) (e : FoundEntry) :
    ¬j.holds half a e := by
  intro he
  have hl := holds_length he
  have hk := he.2.2.2.2.1
  rw [byteAt_readBytes _ _ _ _ (by omega), Nat.add_zero, h] at hk
  cases hkind : e.kind <;> rw [hkind] at hk <;> revert hk <;> decide

/-- Entries that stand one after another end no earlier than they begin. -/
theorem laid_length (j : Journal) (half : Memory) : ∀ (l : List FoundEntry) (a b : Nat), j.laid half l a b → a ≤ b := by
  intro l
  induction l with
  | nil => intro a b h; exact Nat.le_of_eq h
  | cons e rest ih => intro a b h; have := ih _ _ h.2; have := holds_length h.1; omega

/-- The walk of a half from an offset on (06 R96). -/
theorem walkHalf_iff (j : Journal) (half : Memory) (v : ValidHalf) : ∀ (n a : Nat) (c0 : List FoundEntry), 131072 ≤ a + 32 * n →
   (walkHalf j.tagKey j.storageKey half n a c0 = some v ↔ ∃ rest, v.copies = c0 ++ rest ∧ j.laid half rest a v.checkpoint.offset ∧
     j.holds half v.checkpoint.offset v.checkpoint ∧ v.checkpoint.kind = .checkpoint ∧ checkpointFits v.checkpoint v.copies = true ∧ ∀ e ∈ rest, e.kind ≠ .checkpoint) := by
  intro n
  induction n with
  | zero =>
    intro a c0 ha
    simp only [walkHalf, reduceCtorEq, false_iff]
    rintro ⟨rest, _, hl, hh, _⟩
    have := laid_length _ _ _ _ _ hl
    have := holds_length hh
    omega
  | succ n ih =>
    intro a c0 ha
    simp only [walkHalf]
    cases he : entryAt j.tagKey j.storageKey half a with
    | none =>
      simp only [reduceCtorEq, false_iff]
      rintro ⟨rest, _, hl, hh, _⟩
      cases rest with
      | nil =>
        have : a = v.checkpoint.offset := hl
        rw [← this, holds_iff, he] at hh; cases hh
      | cons x xs => have := (holds_iff _ _ _ _).1 hl.1; rw [he] at this; cases this
    | some e =>
      have hhe := (holds_iff j half a e).2 he
      have hle := holds_length hhe
      by_cases hk : e.kind = .checkpoint
      · simp only [hk, if_true]
        constructor
        · intro h
          split at h
          · cases h
            refine ⟨[], by simp, ?_, ?_, hk, by assumption, by simp⟩
            · exact hle.2.2.1.symm
            · rw [hle.2.2.1]; exact hhe
          · cases h
        · rintro ⟨rest, h1, hl, hh, h2, h3, h4⟩
          cases rest with
          | nil =>
            have : a = v.checkpoint.offset := hl
            rw [← this, holds_iff, he] at hh; cases hh
            rw [List.append_nil] at h1
            rw [← h1, if_pos h3]
          | cons x xs =>
            have := (holds_iff _ _ _ _).1 hl.1; rw [he] at this; cases this
            exact absurd hk (h4 e (List.mem_cons_self ..))
      · simp only [hk, if_false]
        rw [ih _ _ (by omega)]
        constructor
        · rintro ⟨rest, h1, hl, hh, h2, h3, h4⟩
          refine ⟨e :: rest, by rw [h1]; simp, ⟨hhe, hl⟩, hh, h2, h3, ?_⟩
          rintro x (_ | ⟨_, hx⟩)
          · exact hk
          · exact h4 x hx
        · rintro ⟨rest, h1, hl, hh, h2, h3, h4⟩
          cases rest with
          | nil =>
            have : a = v.checkpoint.offset := hl
            rw [← this, holds_iff, he] at hh; cases hh
            exact absurd h2 hk
          | cons x xs =>
            have := (holds_iff _ _ _ _).1 hl.1; rw [he] at this; cases this
            exact ⟨xs, by rw [h1]; simp, hl.2, hh, h2, h3, fun x hx => h4 x (List.mem_cons_of_mem _ hx)⟩

/-- A half is judged valid exactly where R96 says so. -/
theorem judgeHalf_iff (j : Journal) (half : Memory) (v : ValidHalf) : judgeHalf j.tagKey j.storageKey half = some v ↔ j.halfValid half v := by
  rw [judgeHalf, walkHalf_iff _ _ _ _ _ _ (by decide)]
  simp only [Journal.halfValid, checkpointFits, Bool.and_eq_true, decide_eq_true_eq, List.all_eq_true, List.nil_append]
  constructor
  · rintro ⟨rest, rfl, h1, h2, h3, ⟨⟨h4, h5⟩, h6⟩, h7⟩
    exact ⟨h1, h2, h3, h4, h5, fun e he => ⟨h7 e he, h6 e he⟩⟩
  · rintro ⟨h1, h2, h3, h4, h5, h6⟩
    exact ⟨_, rfl, h1, h2, h3, ⟨⟨h4, h5⟩, fun e he => (h6 e he).2⟩, fun e he => (h6 e he).1⟩

/-- Where an entry begins, it is the next one. -/
theorem nextFrom_here {j : Journal} {half : Memory} {a : Nat} {e x : FoundEntry} (h : j.holds half a e) : j.nextFrom half a x ↔ x = e := by
  have hl := holds_length h
  constructor
  · rintro ⟨h1, h2, h3, h4⟩
    by_cases hlt : a < x.offset
    · exact absurd h (h4 a (Nat.le_refl _) hlt (by simp) e)
    · have : x.offset = a := by omega
      rw [this, holds_iff] at h1
      rw [holds_iff] at h
      rw [h] at h1; cases h1; rfl
  · rintro rfl
    refine ⟨by rw [hl.2.2.1]; exact h, by omega, by omega, fun y h1 h2 => by omega⟩

/-- Where none begins, the search goes on at the next boundary (06 R97). -/
theorem nextFrom_skip {j : Journal} {half : Memory} {a : Nat} {x : FoundEntry} (h : ∀ e, ¬ j.holds half a e) : j.nextFrom half a x ↔ j.nextFrom half (a + 16) x := by
  constructor
  · rintro ⟨h1, h2, h3, h4⟩
    have hne : x.offset ≠ a := by intro he; rw [he] at h1; exact h x h1
    refine ⟨h1, by omega, by omega, fun y hy1 hy2 hy3 => h4 y (by omega) hy2 (by omega)⟩
  · rintro ⟨h1, h2, h3, h4⟩
    refine ⟨h1, by omega, by omega, fun y hy1 hy2 hy3 => ?_⟩
    by_cases hy : y = a
    · subst hy; exact h
    · exact h4 y (by omega) hy2 (by omega)

/-- The chain found is the one of R97. -/
theorem chainFrom_iff (j : Journal) (half : Memory) : ∀ (n a last : Nat) (es : List FoundEntry), 131072 ≤ a + 16 * n →
   (chainFrom j.tagKey j.storageKey half n a last = es ↔ j.chained half es a last) := by
  have hout : ∀ a es last, 131072 ≤ a → (([] : List FoundEntry) = es ↔ j.chained half es a last) := by
    intro a es last ha
    have hn : ∀ e, ¬ j.nextFrom half a e := by
      rintro e ⟨h1, h2, _⟩
      have := holds_length h1; omega
    cases es with
    | nil => simp only [Journal.chained, true_iff]; intro e he; exact absurd he (hn e)
    | cons x xs => simp only [Journal.chained, reduceCtorEq, false_iff]; rintro ⟨h, _⟩; exact hn _ h
  intro n
  induction n with
  | zero => intro a last es ha; simp only [chainFrom]; exact hout _ _ _ (by omega)
  | succ n ih =>
    intro a last es ha
    simp only [chainFrom]
    by_cases hlt : halfSize ≤ a
    · rw [if_pos hlt]; exact hout _ _ _ hlt
    · rw [if_neg hlt]
      cases he : entryAt j.tagKey j.storageKey half a with
      | none =>
        have hno : ∀ e, ¬ j.holds half a e := fun e h => by rw [holds_iff, he] at h; cases h
        simp only
        rw [ih _ _ _ (by omega)]
        cases es with
        | nil => simp only [Journal.chained, nextFrom_skip hno]
        | cons x xs => simp only [Journal.chained, nextFrom_skip hno]
      | some e =>
        have hh := (holds_iff j half a e).2 he
        have hl := holds_length hh
        simp only
        by_cases hc : e.generation.toNat = last + 1 ∧ e.kind ≠ .checkpoint
        · rw [if_pos hc]
          cases es with
          | nil =>
            simp only [Journal.chained, nextFrom_here hh, reduceCtorEq, false_iff]
            intro h; rcases h e rfl with h | h
            · exact h hc.1
            · exact hc.2 h
          | cons x xs =>
            simp only [Journal.chained, nextFrom_here hh, List.cons.injEq, ih _ _ _ (show 131072 ≤ a + e.length + 16 * n by omega)]
            constructor
            · rintro ⟨rfl, h⟩; exact ⟨rfl, hc.1, hc.2, by rw [hl.2.2.1]; exact h⟩
            · rintro ⟨rfl, _, _, h⟩; exact ⟨rfl, by rw [hl.2.2.1] at h; exact h⟩
        · rw [if_neg hc]
          cases es with
          | nil =>
            simp only [Journal.chained, nextFrom_here hh, true_iff]
            rintro x rfl
            by_cases h1 : x.generation.toNat = last + 1
            · right; exact Classical.byContradiction fun h2 => hc ⟨h1, h2⟩
            · left; exact h1
          | cons x xs =>
            simp only [Journal.chained, nextFrom_here hh, reduceCtorEq, false_iff]
            rintro ⟨rfl, h1, h2, _⟩; exact hc ⟨h1, h2⟩

/-- The last listed byte of a memory in its form is its last that is not FFh. -/
theorem Memory.wfFrom_getLast : ∀ (m : Memory) (lo : Nat), Memory.wfFrom lo m = true → ∀ c, m.getLast? = some c → lo ≤ c.1 ∧ m.read c.1 ≠ 0xFF ∧ ∀ a, c.1 < a → m.read a = 0xFF := by
  intro m
  induction m with
  | nil => intro lo h c hc; cases hc
  | cons x xs ih =>
    obtain ⟨b, y⟩ := x
    intro lo h c hc
    simp only [Memory.wfFrom, Bool.and_eq_true, decide_eq_true_eq] at h
    obtain ⟨⟨h1, h2⟩, h3⟩ := h
    cases xs with
    | nil =>
      simp at hc; subst hc
      refine ⟨h1, by simpa [Memory.read, blankByte] using h2, fun a ha => ?_⟩
      have hba : b ≠ a := fun h => by subst h; exact Nat.lt_irrefl _ ha
      simp [Memory.read, hba, blankByte]
    | cons z zs =>
      rw [List.getLast?_cons_cons] at hc
      obtain ⟨k1, k2, k3⟩ := ih (b + 1) h3 c hc
      refine ⟨by omega, ?_, fun a ha => ?_⟩
      · have : b ≠ c.1 := by omega
        rw [Memory.read, if_neg this]; exact k2
      · have : b ≠ a := by omega
        rw [Memory.read, if_neg this]; exact k3 a ha

/-- The append point found is the one of R97. -/
theorem appendPointOf_iff (m : Memory) (h : m.wf = true) (p : Nat) : appendPointOf m = p ↔ appendsAt m p := by
  have h1 : appendsAt m (appendPointOf m) := by
    simp only [appendPointOf]
    cases hl : m.getLast? with
    | none =>
      have : m = [] := by simpa using hl
      subst this
      exact ⟨rfl, fun _ _ => rfl, fun h => absurd rfl h⟩
    | some c =>
      obtain ⟨k1, k2, k3⟩ := Memory.wfFrom_getLast m 0 h c hl
      refine ⟨by simp, fun a ha => k3 a ?_, fun _ => ⟨c.1, ?_, ?_, k2⟩⟩ <;> simp only at * <;> omega
  have key : ∀ p q, appendsAt m p → appendsAt m q → ¬ p < q := by
    rintro p q ⟨a1, a2, a3⟩ ⟨b1, b2, b3⟩ hlt
    obtain ⟨a, k1, k2, k3⟩ := b3 (by omega)
    exact k3 (a2 a (by omega))
  constructor
  · rintro rfl; exact h1
  · intro h2
    have := key _ _ h1 h2
    have := key _ _ h2 h1
    omega

/-- An area is judged as R96 and R97 state. -/
theorem judgeArea_iff (j : Journal) (h0 h1 : Memory) (w0 : h0.wf = true) (w1 : h1.wf = true) (f : Found) : (j.judgeArea h0 h1).1 = some f ↔ j.finds h0 h1 f := by
  have core : ∀ (h : Half) (active other : Memory) (wa : active.wf = true), f.half = h → (active = if h = .zero then h0 else h1) → (other = if h = .zero then h1 else h0) →
     (j.finds h0 h1 f ↔ ∃ v, j.halfValid active v ∧ (∀ w, j.halfValid other w → w.checkpoint.generation.toNat < v.checkpoint.generation.toNat) ∧
       f = { half := h, entries := v.copies ++ chainOf j.tagKey j.storageKey active v, appendPoint := appendPointOf active, newest := (((chainOf j.tagKey j.storageKey active v).getLast?.map FoundEntry.generation).getD v.checkpoint.generation) }) := by
    intro h active other wa hf ha ho
    simp only [Journal.finds, hf, ← ha, ← ho]
    constructor
    · rintro ⟨v, chain, k1, k2, k3, k4, k5, k6⟩
      refine ⟨v, k1, k2, ?_⟩
      have hc : chainOf j.tagKey j.storageKey active v = chain := (chainFrom_iff j active (halfUnits + 1) _ _ _ (by simp only [halfUnits, halfSize]; omega)).2 k3
      rw [hc, (appendPointOf_iff _ wa _).2 k6]
      obtain ⟨a, b, c, d⟩ := f
      simp only at hf k4 k5
      subst hf k4 k5
      rfl
    · rintro ⟨v, k1, k2, k3⟩
      refine ⟨v, _, k1, k2, (chainFrom_iff j active (halfUnits + 1) _ _ _ (by simp only [halfUnits, halfSize]; omega)).1 rfl, ?_, ?_, ?_⟩
      · rw [k3]; rfl
      · rw [k3]; rfl
      · rw [k3]; exact (appendPointOf_iff _ wa _).1 rfl
  have none0 : ∀ h, judgeHalf j.tagKey j.storageKey h = none → ∀ v, ¬ j.halfValid h v := fun h hn v hv => by rw [← judgeHalf_iff, hn] at hv; cases hv
  have uniq : ∀ h v, judgeHalf j.tagKey j.storageKey h = some v → ∀ w, j.halfValid h w → w = v := fun h v hs w hw => by rw [← judgeHalf_iff, hs] at hw; cases hw; rfl
  obtain ⟨hh, hf⟩ : ∃ hh, f.half = hh := ⟨_, rfl⟩
  simp only [Journal.judgeArea]
  cases hj0 : judgeHalf j.tagKey j.storageKey h0 with
  | none =>
    cases hj1 : judgeHalf j.tagKey j.storageKey h1 with
    | none =>
      simp only [chooseHalf, reduceCtorEq, false_iff]
      rintro ⟨v, chain, hv, _⟩
      split at hv
      · exact none0 _ hj0 _ hv
      · exact none0 _ hj1 _ hv
    | some v1 =>
      simp only [chooseHalf, Option.some.injEq]
      cases hh with
      | zero =>
        rw [core .zero h0 h1 w0 hf rfl rfl]
        constructor
        · rintro rfl; cases hf
        · rintro ⟨v, hv, _⟩; exact absurd hv (none0 _ hj0 _)
      | one =>
        rw [core .one h1 h0 w1 hf rfl rfl]
        constructor
        · intro h
          refine ⟨v1, (judgeHalf_iff _ _ _).1 hj1, fun w hw => absurd hw (none0 _ hj0 _), h.symm⟩
        · rintro ⟨v, hv, _, h⟩; rw [h, uniq _ _ hj1 _ hv]
  | some v0 =>
    cases hj1 : judgeHalf j.tagKey j.storageKey h1 with
    | none =>
      simp only [chooseHalf, Option.some.injEq]
      cases hh with
      | one =>
        rw [core .one h1 h0 w1 hf rfl rfl]
        constructor
        · rintro rfl; cases hf
        · rintro ⟨v, hv, _⟩; exact absurd hv (none0 _ hj1 _)
      | zero =>
        rw [core .zero h0 h1 w0 hf rfl rfl]
        constructor
        · intro h
          refine ⟨v0, (judgeHalf_iff _ _ _).1 hj0, fun w hw => absurd hw (none0 _ hj1 _), h.symm⟩
        · rintro ⟨v, hv, _, h⟩; rw [h, uniq _ _ hj0 _ hv]
    | some v1 =>
      have hv0 := (judgeHalf_iff _ _ _).1 hj0
      have hv1 := (judgeHalf_iff _ _ _).1 hj1
      simp only [chooseHalf]
      by_cases he : v0.checkpoint.generation = v1.checkpoint.generation
      · simp only [he, if_true, reduceCtorEq, false_iff]
        cases hh with
        | zero =>
          rw [core .zero h0 h1 w0 hf rfl rfl]
          rintro ⟨v, hv, hw, _⟩
          have := hw _ hv1; rw [uniq _ _ hj0 _ hv, he] at this; omega
        | one =>
          rw [core .one h1 h0 w1 hf rfl rfl]
          rintro ⟨v, hv, hw, _⟩
          have := hw _ hv0; rw [uniq _ _ hj1 _ hv, he] at this; omega
      · have hne : v0.checkpoint.generation.toNat ≠ v1.checkpoint.generation.toNat := fun h => he (BitVec.eq_of_toNat_eq h)
        rw [if_neg he]
        by_cases hlt : v1.checkpoint.generation.toNat < v0.checkpoint.generation.toNat
        · simp only [hlt, if_true, Option.some.injEq]
          cases hh with
          | zero =>
            rw [core .zero h0 h1 w0 hf rfl rfl]
            constructor
            · intro h; exact ⟨v0, hv0, fun w hw => by rw [uniq _ _ hj1 _ hw]; exact hlt, h.symm⟩
            · rintro ⟨v, hv, _, h⟩; rw [h, uniq _ _ hj0 _ hv]
          | one =>
            rw [core .one h1 h0 w1 hf rfl rfl]
            constructor
            · rintro rfl; cases hf
            · rintro ⟨v, hv, hw, _⟩
              have := hw _ hv0; rw [uniq _ _ hj1 _ hv] at this; omega
        · simp only [hlt, if_false, Option.some.injEq]
          cases hh with
          | one =>
            rw [core .one h1 h0 w1 hf rfl rfl]
            constructor
            · intro h; exact ⟨v1, hv1, fun w hw => by rw [uniq _ _ hj0 _ hw]; omega, h.symm⟩
            · rintro ⟨v, hv, _, h⟩; rw [h, uniq _ _ hj1 _ hv]
          | zero =>
            rw [core .zero h0 h1 w0 hf rfl rfl]
            constructor
            · rintro rfl; cases hf
            · rintro ⟨v, hv, hw, _⟩
              have := hw _ hv1; rw [uniq _ _ hj0 _ hv] at this; omega


/-! ### The live objects (06 R89) -/

/-- The entry of the highest generation, of entries with distinct generations. -/
theorem foldl_newest (l : List FoundEntry) : ∀ (best : Option FoundEntry), (best.toList ++ l).Pairwise (fun a b => a.generation ≠ b.generation) → ∀ e,
   (l.foldl (fun best e => match best with
    | none => some e
    | some x => if x.generation.toNat < e.generation.toNat then some e else some x) best = some e ↔
     e ∈ best.toList ++ l ∧ ∀ x ∈ best.toList ++ l, x.generation.toNat ≤ e.generation.toNat) := by
  induction l with
  | nil =>
    intro best hd e
    cases best with
    | none => simp
    | some x => simp only [List.foldl_nil, Option.some.injEq, Option.toList_some, List.append_nil, List.mem_singleton]
                constructor
                · rintro rfl; exact ⟨rfl, fun y hy => by subst hy; exact Nat.le_refl _⟩
                · rintro ⟨h, _⟩; exact h.symm
  | cons a l ih =>
    intro best hd e
    rw [List.foldl_cons]
    cases best with
    | none =>
      rw [ih (some a) hd]
      simp
    | some x =>
      simp only
      have hd' : (x :: a :: l).Pairwise (fun a b => a.generation ≠ b.generation) := by simpa using hd
      obtain ⟨d1, d2⟩ := List.pairwise_cons.1 hd'
      obtain ⟨d3, d4⟩ := List.pairwise_cons.1 d2
      have hxa : x.generation.toNat ≠ a.generation.toNat := fun h => d1 a (List.mem_cons_self ..) (BitVec.eq_of_toNat_eq h)
      by_cases hlt : x.generation.toNat < a.generation.toNat
      · rw [if_pos hlt, ih (some a) d2]
        simp only [Option.toList_some, List.mem_cons, List.cons_append, List.nil_append]
        constructor
        · rintro ⟨h1, h2⟩
          refine ⟨.inr h1, ?_⟩
          rintro y (rfl | hy)
          · exact Nat.le_trans (Nat.le_of_lt hlt) (h2 a (.inl rfl))
          · exact h2 y hy
        · rintro ⟨h1, h2⟩
          refine ⟨?_, fun y hy => h2 y (.inr hy)⟩
          rcases h1 with rfl | h1
          · have := h2 a (.inr (.inl rfl)); omega
          · exact h1
      · rw [if_neg hlt, ih (some x) (by
          simp only [Option.toList_some, List.singleton_append]
          exact List.pairwise_cons.2 ⟨fun y hy => d1 y (List.mem_cons_of_mem _ hy), d4⟩)]
        simp only [Option.toList_some, List.mem_cons, List.cons_append, List.nil_append]
        constructor
        · rintro ⟨h1, h2⟩
          refine ⟨?_, ?_⟩
          · rcases h1 with h1 | h1
            · exact .inl h1
            · exact .inr (.inr h1)
          · rintro y (rfl | rfl | hy)
            · exact h2 _ (.inl rfl)
            · exact Nat.le_trans (by omega) (h2 x (.inl rfl))
            · exact h2 y (.inr hy)
        · rintro ⟨h1, h2⟩
          refine ⟨?_, ?_⟩
          · rcases h1 with h1 | rfl | h1
            · exact .inl h1
            · have := h2 x (.inl rfl); omega
            · exact .inr h1
          · rintro y (rfl | hy)
            · exact h2 _ (.inl rfl)
            · exact h2 y (.inr (.inr hy))

/-- The newest entry of an object (06 R89). -/
theorem newestEntry_iff (l : List FoundEntry) (hd : l.Pairwise (fun a b => a.generation ≠ b.generation)) (k : ObjectKind) (id : Nat) (e : FoundEntry) :
   newestEntry l k id = some e ↔ e.newestIn l ∧ e.kind = k ∧ e.id = id := by
  have h := foldl_newest (l.filter (fun e => e.kind == k && e.id == id)) none (List.Pairwise.filter _ hd) e
  rw [newestEntry]; refine Iff.trans h ?_
  simp only [Option.toList_none, List.nil_append, List.mem_filter, Bool.and_eq_true, beq_iff_eq, FoundEntry.newestIn]
  constructor
  · rintro ⟨⟨h1, h2, h3⟩, h4⟩
    exact ⟨⟨h1, fun x hx a b => h4 x ⟨hx, a.trans h2, b.trans h3⟩⟩, h2, h3⟩
  · rintro ⟨⟨h1, h2⟩, rfl, rfl⟩
    exact ⟨⟨h1, rfl, rfl⟩, fun x ⟨hx, a, b⟩ => h2 x hx a b⟩

/-- The newest entry of an object where conditions (1) and (2) of R89 hold. -/
theorem liveOne_iff (l : List FoundEntry) (hd : l.Pairwise (fun a b => a.generation ≠ b.generation)) (ep : Word32) (k : ObjectKind) (id : Nat) (e : FoundEntry) :
   liveOne l ep k id = some e ↔ e.aliveIn l ep ∧ e.kind = k ∧ e.id = id := by
  simp only [liveOne, FoundEntry.aliveIn]
  have key := newestEntry_iff l hd k id
  cases hn : newestEntry l k id with
  | none =>
    simp only [reduceCtorEq, false_iff]
    rintro ⟨⟨h1, _⟩, h2, h3⟩
    have := (key e).2 ⟨h1, h2, h3⟩; rw [hn] at this; cases this
  | some x =>
    obtain ⟨x1, x2, x3⟩ := (key x).1 hn
    simp only
    constructor
    · intro h
      split at h
      · rename_i hc
        cases h
        simp only [Bool.and_eq_true, Bool.or_eq_true, bne_iff_ne, beq_iff_eq] at hc
        exact ⟨⟨x1, hc.1, hc.2⟩, x2, x3⟩
      · cases h
    · rintro ⟨⟨h1, h2, h3⟩, h4, h5⟩
      have := (key e).2 ⟨h1, h4, h5⟩; rw [hn] at this; cases this
      rw [if_pos]
      simp only [Bool.and_eq_true, Bool.or_eq_true, bne_iff_ne, beq_iff_eq]
      exact ⟨h2, h3⟩

/-- The live entry of an object, condition (3) of R89 included. -/
theorem liveEntry_iff (l : List FoundEntry) (hd : l.Pairwise (fun a b => a.generation ≠ b.generation)) (ep : Word32) (k : ObjectKind) (id : Nat) (e : FoundEntry) :
   liveEntry l ep k id = some e ↔ e.aliveIn l ep ∧ e.kind = k ∧ e.id = id ∧ (k = .count → ∃ c : FoundEntry, c.aliveIn l ep ∧ c.kind = .cred ∧ c.id = id ∧ c.generation.toNat < e.generation.toNat) := by
  simp only [liveEntry]
  have key := liveOne_iff l hd ep k id
  cases hn : liveOne l ep k id with
  | none =>
    simp only [reduceCtorEq, false_iff]
    rintro ⟨h1, h2, h3, _⟩
    have := (key e).2 ⟨h1, h2, h3⟩; rw [hn] at this; cases this
  | some x =>
    obtain ⟨x1, x2, x3⟩ := (key x).1 hn
    have only : ∀ y : FoundEntry, y.aliveIn l ep ∧ y.kind = k ∧ y.id = id → y = x := fun y hy => by
      have := (key y).2 hy; rw [hn] at this; cases this; rfl
    by_cases hk : k = .count
    · subst hk
      have keyc := liveOne_iff l hd ep .cred id
      simp only
      cases hc : liveOne l ep .cred id with
      | none =>
        simp only [reduceCtorEq, false_iff]
        rintro ⟨_, _, _, h⟩
        obtain ⟨c, c1, c2, c3, _⟩ := h trivial
        have := (keyc c).2 ⟨c1, c2, c3⟩; rw [hc] at this; cases this
      | some c =>
        obtain ⟨c1, c2, c3⟩ := (keyc c).1 hc
        simp only
        constructor
        · intro h
          split at h
          · cases h; exact ⟨x1, x2, x3, fun _ => ⟨c, c1, c2, c3, by assumption⟩⟩
          · cases h
        · rintro ⟨h1, h2, h3, h4⟩
          obtain ⟨c', d1, d2, d3, d4⟩ := h4 trivial
          have := (keyc c').2 ⟨d1, d2, d3⟩; rw [hc] at this; cases this
          rw [only e ⟨h1, h2, h3⟩] at d4 ⊢
          rw [if_pos d4]
    · cases k <;> first
        | exact absurd rfl hk
        | (simp only
           constructor
           · intro h; cases h; exact ⟨x1, x2, x3, fun h => by cases h⟩
           · rintro ⟨h1, h2, h3, _⟩; rw [only e ⟨h1, h2, h3⟩])

/-- The names there can be (06 R88, R89). -/
theorem objectNames_iff (k : ObjectKind) (id : Nat) : (k, id) ∈ objectNames ↔ (match k with
    | .key => 1 ≤ id ∧ id ≤ 15
    | .cred => id ≤ 31
    | .count => id ≤ 31
    | .bank => id = 0
    | .layout => id = 0
    | .layoutTrial => id = 0
    | .ownerEpoch => id = 0
    | .checkpoint => False) := by
  cases k <;> simp [objectNames] <;> try omega
  constructor
  · rintro ⟨a, h1, rfl⟩; omega
  · rintro ⟨h1, h2⟩; exact ⟨id - 1, by omega, by omega⟩

/-- No object is named twice. -/
theorem objectNames_nodup : objectNames.Nodup := by decide +kernel

/-- The owner epoch found (06 R95). -/
theorem epochOf_states (l : List FoundEntry) (hd : l.Pairwise (fun a b => a.generation ≠ b.generation)) :
   (∀ e : FoundEntry, (e.newestIn l ∧ e.kind = .ownerEpoch ∧ e.id = 0 ∧ e.payload ≠ []) → epochOf l = word32At e.payload 0) ∧
   ((∀ e : FoundEntry, ¬(e.newestIn l ∧ e.kind = .ownerEpoch ∧ e.id = 0 ∧ e.payload ≠ [])) → epochOf l = 1) := by
  have key := newestEntry_iff l hd .ownerEpoch 0
  simp only [epochOf]
  refine ⟨fun e ⟨h1, h2, h3, h4⟩ => ?_, fun h => ?_⟩
  · rw [(key e).2 ⟨h1, h2, h3⟩]; simp only; rw [if_neg h4]
  · cases hn : newestEntry l .ownerEpoch 0 with
    | none => rfl
    | some e =>
      obtain ⟨h1, h2, h3⟩ := (key e).1 hn
      simp only
      rw [if_pos]
      exact Classical.byContradiction fun h4 => h e ⟨h1, h2, h3, h4⟩

/-- The object index built is the one of R89 and R99. -/
theorem indexOf_indexes (f : Found) (hd : f.entries.Pairwise (fun a b => a.generation ≠ b.generation)) : f.indexes (epochOf f.entries) (indexOf f) := by
  obtain ⟨e1, e2⟩ := epochOf_states f.entries hd
  have lk := liveEntry_iff f.entries hd (epochOf f.entries)
  unfold Found.indexes indexOf
  generalize epochOf f.entries = ep at *
  have mem : ∀ (k : ObjectKind) (id : Nat) (e : FoundEntry), ((k, id) ∈ objectNames ∧ liveEntry f.entries ep k id = some e) ↔ (e.liveIn f.entries ep ∧ e.kind = k ∧ e.id = id) := by
    intro k id e
    rw [lk, objectNames_iff, FoundEntry.liveIn]
    constructor
    · rintro ⟨h1, h2, rfl, rfl, h5⟩
      refine ⟨⟨h2, ?_⟩, rfl, rfl⟩
      cases hk : e.kind <;> rw [hk] at h1 h5 <;> first | exact h1 | exact ⟨h1, h5 rfl⟩
    · rintro ⟨⟨h1, h2⟩, rfl, rfl⟩
      cases hk : e.kind <;> rw [hk] at h2 <;> simp_all
  refine ⟨e1, e2, ?_, ?_⟩
  · rw [List.pairwise_filterMap]
    have hnd : objectNames.Pairwise (fun a b => a ≠ b) := objectNames_nodup
    refine List.Pairwise.imp ?_ hnd
    rintro ⟨k1, i1⟩ ⟨k2, i2⟩ hne r1 h1 r2 h2 ⟨ha, hb⟩
    rw [Option.map_eq_some_iff] at h1 h2
    obtain ⟨x1, hx1, rfl⟩ := h1
    obtain ⟨x2, hx2, rfl⟩ := h2
    have a1 := (lk _ _ _).1 hx1
    have a2 := (lk _ _ _).1 hx2
    apply hne
    rw [Prod.mk.injEq]
    exact ⟨a1.2.1.symm.trans (ha.trans a2.2.1), a1.2.2.1.symm.trans (hb.trans a2.2.2.1)⟩
  · intro r
    simp only [List.mem_filterMap, Option.map_eq_some_iff]
    constructor
    · rintro ⟨⟨k, i⟩, hn, e, he, rfl⟩
      exact ⟨e, ((mem k i e).1 ⟨hn, he⟩).1, rfl⟩
    · rintro ⟨e, he, rfl⟩
      obtain ⟨h1, h2⟩ := (mem e.kind e.id e).2 ⟨he, rfl, rfl⟩
      exact ⟨_, h1, e, h2, rfl⟩

/-- The capacity found is that of the live LAYOUT object (12 R174). -/
theorem capacity_iff_gives (f : Found) (hd : f.entries.Pairwise (fun a b => a.generation ≠ b.generation)) (area : Capacity) : f.capacity = some area ↔ f.gives (epochOf f.entries) area := by
  have lk := liveEntry_iff f.entries hd (epochOf f.entries) .layout 0
  simp only [Found.capacity, Found.gives]
  generalize epochOf f.entries = ep at *
  constructor
  · intro h
    obtain ⟨e, he, h⟩ := Option.bind_eq_some_iff.1 h
    obtain ⟨l, hl, h⟩ := Option.map_eq_some_iff.1 h
    obtain ⟨h1, h2, h3, _⟩ := (lk e).1 he
    refine ⟨e, l, ⟨h1, ?_⟩, h2, hl, h⟩
    rw [h2]; exact h3
  · rintro ⟨e, l, ⟨h1, h2⟩, h3, hl, h⟩
    rw [h3] at h2
    rw [(lk e).2 ⟨h1, h3, h2, fun h => by cases h⟩]
    simp [hl, h]

end Sys2Proof.Machine
end

