-- ==== Sys2Proof/Laws/SocPort.lean ====
section
/-! SUPPORT. What the opcode of a SoC transaction leads to, said once. -/

namespace Sys2Proof.Machine

/-- The opcode of a transaction that has received nothing gives its decode record and entry (01 R1, R3). -/
theorem opening_of_opens {s : State} {op : Byte} {c : OpClass} {d : Decode} {e : OpcodeEntry}
    (h : s.opens op c d e) : s.opening op c = some (d, e) := by
  obtain ⟨h1, h2, h3, h4, h5⟩ := h
  simp [State.opening, h1, h2, h3, h4, h5]

/-- A transaction of a class without address ends with its effect, SDOUT high for the bytes after the opcode
(01 R1). -/
theorem plainTransaction_of_opens {s : State} {op : Byte} {c : OpClass} {d : Decode} {e : OpcodeEntry}
    (h : s.opens op c d e) (n : Nat) (f : State → State) :
    s.plainTransaction c op n f = f (s.withDecode { d with
      phase := .ended, opcode := op, entry := some e, dummyLeft := e.dummy - n
      dataCount := d.dataCount + (n - e.dummy) } (List.replicate n 0xFF)) := by
  simp [State.plainTransaction, opening_of_opens h, Decode.clocked, highBytes]

end Sys2Proof.Machine
end

