-- ==== Sys2Proof/Laws/Startup.lean ====
section
/-! SUPPORT. What the end of the scan, the hand-over and the end of START leave (04 R57, 06 R98, R99, 08 R137, 12 R174). -/

namespace Sys2Proof.Machine

/-- A restored record's timer starts (08 R137). -/
theorem startDelay_restored (t : State) (id : Nat) : ∃ rec, (match t.creds.get id with
    | some r => if r.count = 0 then t else t.startDelay id
    | none => t) = { t with creds := { t.creds with records := rec } } ∧ (∀ i, i ≠ id → (rec[i]?).join = t.creds.get i) ∧
    (t.creds.get id = none → (rec[id]?).join = none) ∧ (∀ r, t.creds.get id = some r → ∃ r', (rec[id]?).join = some r' ∧ t.restoredTimer id r r') := by
  have hlt : ∀ r, t.creds.get id = some r → id < 32 := fun r h => by
    refine Classical.byContradiction fun hn => ?_
    simp [Creds.get, Vector.getElem?_eq_none (Nat.le_of_not_lt hn)] at h
  have same : ∀ r, t.creds.get id = some r → t.restoredTimer id r r → ∃ rec, t = { t with creds := { t.creds with records := rec } } ∧ (∀ i, i ≠ id → (rec[i]?).join = t.creds.get i) ∧
    (t.creds.get id = none → (rec[id]?).join = none) ∧ (∀ r, t.creds.get id = some r → ∃ r', (rec[id]?).join = some r' ∧ t.restoredTimer id r r') := by
    intro r h k
    refine ⟨t.creds.records, rfl, fun _ _ => rfl, fun h => h, fun r0 h0 => ?_⟩
    rw [h] at h0; cases h0; exact ⟨r, h, k⟩
  have put : ∀ r r', t.creds.get id = some r → t.restoredTimer id r r' → ∃ rec, t.putCred id (some r') = { t with creds := { t.creds with records := rec } } ∧ (∀ i, i ≠ id → (rec[i]?).join = t.creds.get i) ∧
    (t.creds.get id = none → (rec[id]?).join = none) ∧ (∀ r, t.creds.get id = some r → ∃ r', (rec[id]?).join = some r' ∧ t.restoredTimer id r r') := by
    intro r r' h k
    refine ⟨t.creds.records.setIfInBounds id (some r'), rfl, fun i hi => ?_, fun h0 => ?_, fun r0 h0 => ?_⟩
    · simp [Creds.get, Ne.symm hi]
    · rw [h] at h0; cases h0
    · rw [h] at h0; cases h0
      exact ⟨r', by simp [hlt _ h], k⟩
  cases hg : t.creds.get id with
  | none => exact ⟨t.creds.records, rfl, fun _ _ => rfl, fun _ => hg, fun r h => by cases h⟩
  | some r =>
    rw [hg] at same put
    simp only
    cases hc : r.content with
    | secret v =>
      have hr : t.restoredTimer id r r := by simp [State.restoredTimer, hc]
      split
      · exact same r rfl hr
      · have : t.startDelay id = t := by simp [State.startDelay, hg, hc]
        rw [this]; exact same r rfl hr
    | verifier v =>
      by_cases h0 : r.count = 0
      · rw [if_pos h0]
        refine same r rfl ?_
        simp [State.restoredTimer, hc, h0]
      · rw [if_neg h0]
        simp only [State.startDelay, hg, hc]
        by_cases hd : v.delayAt r.count.toNat = 0
        · rw [if_pos hd]
          simp only [State.startDecay, hg, hc]
          split
          · refine put r _ rfl ?_
            rename_i h
            simp only [State.restoredTimer, hc]
            refine ⟨fun h => absurd h h0, fun _ h => absurd hd h, fun _ _ h' => absurd h' h.1, fun _ _ _ _ _ _ => ?_⟩
            have hspan : 1000 * (60 * v.decay) = 60000 * v.decay := by omega
            simp only [State.seconds, State.timer, hspan]
          · refine same r rfl ?_
            rename_i h
            simp only [State.restoredTimer, hc]
            exact ⟨fun _ => trivial, fun _ h => absurd hd h, fun _ _ _ => trivial, fun a b c d e f => absurd ⟨c, a, d, e, f⟩ h⟩
        · rw [if_neg hd]
          refine put r _ rfl ?_
          simp only [State.restoredTimer, hc]
          exact ⟨fun h => absurd h h0, fun _ _ => rfl, fun _ h => absurd h hd, fun _ h => absurd h hd⟩

/-- The timers of the restored records start, one record after another (08 R137). -/
theorem startRestored_fold (ids : List Nat) : ∀ (s : State), ids.Nodup → ∃ rec, ids.foldl (fun t id => match t.creds.get id with
    | some r => if r.count = 0 then t else t.startDelay id
    | none => t) s = { s with creds := { s.creds with records := rec } } ∧ (∀ i, i ∉ ids → (rec[i]?).join = s.creds.get i) ∧
    (∀ id ∈ ids, (s.creds.get id = none → (rec[id]?).join = none) ∧ (∀ r, s.creds.get id = some r → ∃ r', (rec[id]?).join = some r' ∧ s.restoredTimer id r r')) := by
  induction ids with
  | nil => intro s _; exact ⟨s.creds.records, rfl, fun _ _ => rfl, fun id h => by cases h⟩
  | cons a ids ih =>
    intro s hn
    obtain ⟨hna, hn⟩ := List.nodup_cons.1 hn
    rw [List.foldl_cons]
    obtain ⟨rec, e, h1, h2, h3⟩ := startDelay_restored s a
    rw [e]
    obtain ⟨rec', e', k1, k2⟩ := ih { s with creds := { s.creds with records := rec } } hn
    refine ⟨rec', e', fun i hi => ?_, fun id hid => ?_⟩
    · rw [k1 i (fun h => hi (List.mem_cons_of_mem _ h))]
      exact h1 i (fun h => hi (h ▸ List.mem_cons_self ..))
    · rcases List.mem_cons.1 hid with rfl | hid
      · have := k1 id hna
        rw [this]
        exact ⟨h2, h3⟩
      · obtain ⟨a1, a2⟩ := k2 id hid
        have hne : id ≠ a := fun h => hna (h ▸ hid)
        have hg : (State.creds { s with creds := { s.creds with records := rec } }).get id = s.creds.get id := h1 id hne
        rw [hg] at a1 a2
        exact ⟨a1, a2⟩

/-- Start-up is complete (04 R57). -/
theorem startupComplete_done (s : State) (o : StoreState) : StartupDone s o (s.startupComplete o) := by
  generalize hs1 : ({ s with journal := { s.journal with state := o, scan := none } } : State) = s1
  obtain ⟨rec, e, h1, h2⟩ := startRestored_fold (List.range 32) s1 List.nodup_range
  have e2 : s1.startRestored = { s1 with creds := { s1.creds with records := rec } } := e
  generalize hu : ({ s1 with creds := { s1.creds with records := rec }, rst := { s1.rst with hold := if s1.lines.ownerClr then some (s1.seconds holdSeconds) else none } } : State) = u
  have e3 : s.startupComplete o = if u.lines.rstReq then u.enterRequest else u.enterCheck := by
    simp only [State.startupComplete, hs1, e2]
    subst hu; rfl
  have hget : ∀ id, u.creds.get id = (rec[id]?).join := by subst hu; intro id; rfl
  refine ⟨u, ?_, fun id h => ?_, fun id r h => ?_, fun h => ?_, fun h => ?_⟩
  · subst hu; subst hs1; rfl
  · rw [hget]
    have h : s1.creds.get id = none := by subst hs1; exact h
    by_cases hid : id ∈ List.range 32
    · exact (h2 id hid).1 h
    · rw [h1 id hid]; exact h
  · rw [hget]
    have h : s1.creds.get id = some r := by subst hs1; exact h
    by_cases hid : id ∈ List.range 32
    · obtain ⟨r', k1, k2⟩ := (h2 id hid).2 r h
      exact ⟨r', k1, by subst hs1; exact k2⟩
    · exfalso
      have : ¬ id < 32 := by simpa using hid
      simp [Creds.get, Vector.getElem?_eq_none (Nat.le_of_not_lt this)] at h
  · have hl : u.lines.rstReq = true := by subst hu; subst hs1; exact h
    rw [e3, if_pos hl]
    have hb := bump_eq s.rst.counts[1]
    have hv : ∀ x, s.rst.counts.setIfInBounds 1 x = s.rst.counts.set 1 x := by
      intro x; apply Vector.ext; intro i hi; simp [Vector.getElem_setIfInBounds, Vector.getElem_set]
    have hcn : u.rst.counts = s.rst.counts := by subst hu; subst hs1; rfl
    simp only [State.enterRequest, State.recordCause, ResetController.recordCause, ResetController.count, ResetCause.index, ResetCause.code, hcn]
    simp [hb, hv, ← BitVec.ofNat_eq_ofNat]
  · have hl : ¬ u.lines.rstReq = true := by subst hu; subst hs1; simp only [h]; simp
    rw [e3, if_neg hl]
    exact enterCheck_entered u

/-- The hand-over goes on (06 R99). -/
theorem handNext_handsOn (s : State) (o : StoreState) (todo : List IndexRecord) : HandsOn s o todo (s.handNext o todo) := by
  refine ⟨fun r rest h => ?_, fun h => ?_⟩
  · subst h; simp [State.handNext, nextChunk, chunkLength, State.askFlash, Arbiter.setRequest, State.recordBase]
  · subst h; exact startupComplete_done s o

/-- An area is judged (06 R98, 12 R174). -/
theorem areaRead_judged (s : State) (area : Capacity) (h0 h1 : Memory) (w0 : h0.wf = true) (w1 : h1.wf = true)
   (hd : ∀ f, s.journal.finds h0 h1 f → f.entries.Pairwise (fun a b => a.generation ≠ b.generation)) : AreaJudged s area h0 h1 (s.areaRead area h0 h1) := by
  have fi := judgeArea_iff s.journal h0 h1 w0 w1
  obtain ⟨found, neither, hja⟩ : ∃ a b, s.journal.judgeArea h0 h1 = (a, b) := ⟨_, _, rfl⟩
  have hnei : neither = ((judgeHalf s.journal.tagKey s.journal.storageKey h0).isNone && (judgeHalf s.journal.tagKey s.journal.storageKey h1).isNone) := by
    have : (s.journal.judgeArea h0 h1).2 = neither := by rw [hja]
    rw [← this]; rfl
  rw [hja] at fi
  refine ⟨fun f hf => ?_, fun hn => ?_⟩
  · have hfound : found = some f := (fi f).2 hf
    have hdf := hd f hf
    subst hfound
    refine ⟨epochOf f.entries, indexOf f, indexOf_indexes f hdf, ?_⟩
    have gi := capacity_iff_gives f hdf area
    refine ⟨fun hg => ?_, fun hg ha => ?_, fun hg ha => ?_⟩
    · have e : s.areaRead area h0 h1 = s.probeSucceeded area f := by
        simp only [State.areaRead, hja, gi.2 hg, if_true]
      rw [e]
      refine ⟨fun h => ?_, fun h => ?_, fun h h' => ?_⟩
      · simp only [State.probeSucceeded, h, if_true]
        exact handNext_handsOn _ _ _
      · have hne : ¬ f.newest = s.anchor.generation := fun k => by rw [k] at h; omega
        simp only [State.probeSucceeded]
        rw [if_neg hne, if_pos h]
        exact handNext_handsOn _ _ _
      · simp only [State.probeSucceeded]
        rw [if_neg h, if_neg h']
        exact handNext_handsOn _ _ _
    · subst ha
      have : ¬ f.capacity = some .mib16 := fun h => hg (gi.1 h)
      simp only [State.areaRead, hja, this, if_false]
      rfl
    · subst ha
      have : ¬ f.capacity = some .mib32 := fun h => hg (gi.1 h)
      simp only [State.areaRead, hja, this, if_false]
      exact handNext_handsOn _ _ _
  · have hfound : found = none := by
      cases found with
      | none => rfl
      | some f => exact absurd ((fi f).1 rfl) (hn f)
    subst hfound
    have hb : neither = true ↔ (∀ v, ¬ s.journal.halfValid h0 v) ∧ (∀ v, ¬ s.journal.halfValid h1 v) := by
      have one : ∀ h, (judgeHalf s.journal.tagKey s.journal.storageKey h).isNone = true ↔ ∀ v, ¬ s.journal.halfValid h v := by
        intro h
        cases hj : judgeHalf s.journal.tagKey s.journal.storageKey h with
        | none => simp only [Option.isNone_none, true_iff]; intro v hv; rw [← judgeHalf_iff, hj] at hv; cases hv
        | some v => simp only [Option.isNone_some, Bool.false_eq_true, false_iff]; intro k; exact k v ((judgeHalf_iff _ _ _).1 hj)
      rw [hnei, Bool.and_eq_true, one, one]
    refine ⟨fun ha => ?_, fun ha hbl => ?_, fun ha hbl => ?_⟩
    · subst ha
      simp only [State.areaRead, hja]
      rfl
    · subst ha
      obtain ⟨b1, b2, b3, b4⟩ := hbl
      have hc : (neither && s.anchor.generation == 0 && !s.isField) = true := by
        simp [hb.2 ⟨b1, b2⟩, b3, b4, State.isField]
      simp only [State.areaRead, hja, State.probesFailed, hc, if_true]
      exact handNext_handsOn s _ _
    · subst ha
      have hc : ¬ (neither && s.anchor.generation == 0 && !s.isField) = true := by
        intro h
        simp only [Bool.and_eq_true, beq_iff_eq, State.isField, Bool.not_eq_true'] at h
        apply hbl
        obtain ⟨⟨h1, h2⟩, h3⟩ := h
        obtain ⟨b1, b2⟩ := hb.1 h1
        refine ⟨b1, b2, h2, ?_⟩
        revert h3; cases s.anchor.lifeCycle <;> simp
      simp only [State.areaRead, hja, State.probesFailed]
      rw [if_neg hc]
      exact handNext_handsOn (s.contain .storeStale) _ _

/-- An object is handed to its owner (06 R99). -/
theorem handOver_handed (s : State) (e : FoundEntry) : Handed s e (s.handOver e) := by
  have hl : (if s.journal.provisioning.isSome = true then Layout.parse e.payload else none) = if s.journal.provisioning = none then none else Layout.parse e.payload := by
    cases s.journal.provisioning <;> simp
  simp only [Handed, State.handOver]
  cases hk : e.kind with
  | bank => intro r hr; simp only [State.takeBank, hr]
  | layout => simp only [hl]
  | layoutTrial => simp only [hl]
  | key =>
    simp only
    refine ⟨fun h1 h2 => ?_, fun h1 => by rw [if_neg h1]; rfl⟩
    rw [if_pos h1]
    simp only [State.takeAuthority]
    refine ⟨fun h => if_pos ⟨h2, h⟩, fun h => if_neg (fun k => h k.2)⟩
  | cred =>
    simp only [State.takeCred]
    exact ⟨fun c hc => by rw [hc]; rfl, fun hc => by rw [hc]⟩
  | count =>
    simp only [State.takeCount]
    intro r v h1 h2; rw [h1]; simp only [h2]; rfl
  | ownerEpoch => rfl
  | checkpoint => rfl

end Sys2Proof.Machine
end

