-- ==== Sys2Proof/Laws/Update.lean ====
section
/-! SUPPORT. What a verification that goes on with its targets leaves (09 R147, R148), and the sets it names. -/

namespace Sys2Proof.Machine

/-- The base a target is read from (09 R147). -/
theorem targetBase_eq (s : State) (tg : Target) : s.targetBase tg = s.stagedBase tg.region := by
  simp only [State.targetBase, State.stagedBase, State.inactiveBank]
  rcases s.checker.layout with _ | l
  · rfl
  · simp only [Option.bind]
    cases l.region? tg.region with
    | none => rfl
    | some g => cases s.update.presented <;> rfl

/-- A verification goes on with the targets still to do (09 R147, R148). -/
theorem verifyRun_on (s : State) (m : Manifest) (hashed : Nat) (todo : List Target) :
    VerifiesOn s m hashed todo (s.verifyRun m hashed todo) := by
  induction todo with
  | nil => rfl
  | cons tg rest ih =>
    refine ⟨fun h => ?_, fun h1 h2 => ?_, fun h1 h2 => ?_⟩
    · simp only [State.verifyRun, if_neg h, ← targetBase_eq]
      simp [State.askFlash, Arbiter.setRequest, nextChunk, chunkLength]
    · simp only [State.verifyRun, if_pos h1, if_pos h2]
      exact ih
    · simp only [State.verifyRun, if_pos h1, if_neg h2]
      rfl

/-- The STAGE regions of the layout in force, one by one (02 R31). -/
theorem stageRegions_mem (s : State) (i : Nat) (hi : i < 16) : s.stageRegions.getLsbD i = true ↔
    ∃ l g, s.checker.layout = some l ∧ l.region? i = some g ∧ g.kind = .stage := by
  have fold (is : List Nat) (x : BitVec 16) :
      (is.foldl addTo x).getLsbD i = true ↔ x.getLsbD i = true ∨ i ∈ is := by
    induction is generalizing x with
    | nil => simp
    | cons j rest ih =>
      rw [List.foldl_cons, ih]
      have : (addTo x j).getLsbD i = true ↔ x.getLsbD i = true ∨ i = j := by
        rw [addTo, BitVec.getLsbD_or, BitVec.getLsbD_twoPow, Bool.or_eq_true, Bool.and_eq_true, decide_eq_true_eq,
          decide_eq_true_eq]
        exact or_congr_right ⟨fun h => h.2.symm, fun h => ⟨h ▸ hi, h.symm⟩⟩
      rw [this, List.mem_cons, or_assoc]
  cases hl : s.checker.layout with
  | none => simp [State.stageRegions, hl]
  | some l =>
    simp only [State.stageRegions, hl, Option.map, Option.getD, Layout.stageSet, fold]
    simp only [Layout.indices, List.mem_filter, List.mem_range, hi, true_and]
    cases hr : l.region? i with
    | none => simp [hr]
    | some g => simp [hr]

/-- CLAIMED, as 08 R118 says it. -/
theorem claimed_iff (s : State) : s.claimed = true ↔
    ∃ id r v, s.creds.get id = some r ∧ r.content = .verifier v ∧ v.ownerGate = true ∧ r.epoch = s.journal.epoch := by
  simp only [State.claimed, List.any_eq_true]
  constructor
  · rintro ⟨x, hx, h⟩
    obtain ⟨id, hid, rfl⟩ := List.getElem_of_mem hx
    have hl : id < 32 := by simpa using hid
    cases hr : s.creds.records[id] with
    | none => simp [hr] at h
    | some r =>
      simp only [Vector.getElem_toList, hr, Bool.and_eq_true, beq_iff_eq] at h
      cases hc : r.content with
      | secret v => simp [hc, Credential.isOwnerGate] at h
      | verifier v =>
        refine ⟨id, r, v, ?_, hc, by simpa [hc, Credential.isOwnerGate] using h.1, h.2⟩
        simp [Creds.get, Vector.getElem?_eq_getElem hl, hr]
  · rintro ⟨id, r, v, hg, hc, ho, he⟩
    have hl : id < 32 := Nat.lt_of_not_le fun hn => by
      simp [Creds.get, Vector.getElem?_eq_none hn] at hg
    refine ⟨s.creds.records[id], by simp, ?_⟩
    have hr : s.creds.records[id] = some r := by
      simpa [Creds.get, Vector.getElem?_eq_getElem hl] using hg
    simp [hr, hc, Credential.isOwnerGate, ho, he]

end Sys2Proof.Machine
end

