-- ==== Sys2Proof/Tests/Slice0.lean ====
section
/-! SUPPORT. Small tests: the well-formedness checks, one step of commands whose result the manual gives in its
worked examples and tables, and a witness for the hypotheses of each statement. -/

open Sys2Proof Sys2Proof.Machine

namespace Sys2Proof.Tests

-- The tests are checked one after another: as many at once as the kernel would take need more threads than the
-- memory of a check has room for.
set_option Elab.async false

/-! ### Small states -/

/-- A PLAIN region at 010000h with all rights from stage 0 on. -/
def plainRegion : Region :=
  { index := 2, kind := .plain, boot := false, parent := none, base := some 0x10000, length := 0x10000
    physA := some 0x110000, physB := none, readMask := 0xFF, programMask := 0xFF, eraseMask := 0xFF
    measureAt := .stage 1, slot := some 1, onMismatch := some .record }

/-- The boot-flagged region at 000000h. -/
def bootRegion : Region :=
  { index := 0, kind := .banked, boot := true, parent := none, base := some 0, length := 0x10000
    physA := some 0x100000, physB := some 0x200000, readMask := 0x03, programMask := 0, eraseMask := 0
    measureAt := .reset, slot := some 0, onMismatch := some .fallback }

def testLayout : Layout :=
  { block := [], capacity := .mib16, presentedId := [0x4A, 0x56, 0x19], confirmStage := 1, trialCount := 3
    timeoutCode := 0, grantTime := 300, updateMask := 0xFC, extendMasks := List.replicate 8 0x01
    opcodes := defaultOpcodes, regions := [bootRegion, plainRegion]
    responses := [{ source := .all, threshold := 2, action := .contain }] }

/-- A part in FIELD, RUN and stage 0, with the test layout in force and nothing under way. -/
def running : State :=
  { State.reset with
    rst := { ResetController.initial 0 with state := .run, bootCounter := 1 }
    checker := { Checker.initial .field with layout := some testLayout }
    anchor := { Anchor.factory 0 with lifeCycle := .field }
    arbiter := { Arbiter.initial with journal := none }
    journal := { state := .ready, active := some .zero, appendPoint := 1024, index := [], epoch := 1, tagKey := 0
                 storageKey := 0, queue := [], held := [], job := none, scan := none, provisioning := some .mib16 }
    keys := { identity := { scalar := 0, publicKey := 0 }, authority := none, slots := Vector.replicate 16 none
              disabled := 0 }
    measure := { Measure.initial with history := [{ stage := 0, uptime := 0, logLength := 0 }] } }

/-- A window command in the engine that its owner has not taken. -/
def given (c : Command) (body : Bytes) : State :=
  { running with window := { Window.initial with
      engine := .busy, command := some { command := c, body := body, taken := false } } }

/-- A window command that its owner has taken. -/
def taken (c : Command) (body : Bytes) : State :=
  { running with window := { Window.initial with
      engine := .busy, command := some { command := c, body := body, taken := true } } }

/-- A transaction that has received nothing, with the WEL set. -/
def selected : State :=
  { running with
    lines := { ssel := true, rstReq := false, ownerClr := false }
    port := { Port.initial with decode := some Decode.fresh, wel := true }
    arbiter := { running.arbiter with grant := .socRead } }

/-- A VERIFIER with three free attempts (08 section 8.7.1). -/
def verifier : Verifier :=
  { ownerGate := true, verifyMask := 0xFF, label := List.replicate 8 0x41, salt := 0, verifier := 0, free := 3
    delay := 2, ceiling := 600, decay := 10 }

def verifierRecord (count : Byte) (delay decay : Option Timer) : CredRecord :=
  { content := .verifier verifier, epoch := 1, count := count, delayTimer := delay, decayTimer := decay, restored := 0 }

def secretRecord : CredRecord :=
  { content := .secret { needsGrant := false, releaseMask := 0xFF, label := List.replicate 8 0x42, value := [7, 8] }
    epoch := 1, count := 0, delayTimer := none, decayTimer := none, restored := 0 }

/-- A DERIVE key of PLATFORM class. -/
def deriveKey : KeyRecord :=
  { cls := .platform, usage := .derive none, stageMask := 0xFF, needsGrant := false, containedOk := false, epoch := 0
    secret := 0 }

def withCred (s : State) (n : Nat) (r : CredRecord) : State :=
  { s with creds := { s.creds with records := s.creds.records.setIfInBounds n (some r) } }

def withKey (s : State) (n : Nat) (k : KeyRecord) : State :=
  { s with keys := { s.keys with slots := s.keys.slots.setIfInBounds n (some k) } }

/-- The state after one command; a command that did not answer next leaves it as it was. -/
def after (c : Instr) (s : State) : State :=
  match exec c s with
  | .next t => t
  | _ => s

/-! ### Well-formedness: an ill-formed term for each check -/

theorem test_wellFormed_refuses_cell_beyond_flash : (Instr.readChunkComplete [(33554432, 0)]).wellFormed = false := by decide
theorem test_wellFormed_takes_last_cell : (Instr.readChunkComplete [(33554431, 0)]).wellFormed = true := by decide
theorem test_wellFormed_refuses_long_prelude : (Instr.read 3 (List.replicate 8 0)).wellFormed = false := by decide
theorem test_wellFormed_takes_longest_prelude : (Instr.fastRead 3 (List.replicate 7 0)).wellFormed = true := by decide
theorem test_wellFormed_refuses_id_32 : (Instr.delayExpiry 32).wellFormed = false := by decide
theorem test_wellFormed_takes_id_31 : (Instr.decayExpiry 31).wellFormed = true := by decide

/-! ### Decoding: the table gives no bits -/

theorem test_no_word_spells_a_command : decodeTableWord 8 0x03 = none := rfl
theorem test_withFetchWord_leaves_state : running.withFetchWord 8 0x03 = running := rfl

/-! ### The Flash path -/

/-- 01 R1: the opcode 03h and three address bytes; SDOUT is high for each. -/
theorem test_read_takes_the_address :
    (after (.read 0x03 [0x01, 0x02, 0x03]) selected).port.sdout = [0xFF, 0xFF, 0xFF] := by decide

/-- 01 R1: a FAST_READ of the default table has one dummy byte. -/
theorem test_fast_read_waits_for_its_dummy_byte :
    ((after (.fastRead 0x0B [1, 2, 3]) selected).port.decode.map Decode.phase) = some .dummy := by decide

/-- 01 R6. -/
theorem test_write_enable_sets_the_latch :
    (after (.writeEnable ⟨0x06, 0⟩) { selected with port := { selected.port with wel := false } }).port.wel = true := by decide

/-- 01 R1: SDOUT is high for the bytes after the opcode. -/
theorem test_write_enable_drives_high : (after (.writeEnable ⟨0x06, 2⟩) selected).port.sdout = [0xFF, 0xFF] := by decide

theorem test_write_disable_clears_the_latch : (after (.writeDisable ⟨0x04, 0⟩) selected).port.wel = false := by decide

/-- 01 R8: not busy, WEL set. -/
theorem test_status_read_shows_the_latch : (after (.statusRead 0x05 2) selected).port.sdout = [0x02, 0x02] := by decide

/-- 01 R9: FFh after the third byte. -/
theorem test_id_read_ends_in_high :
    (after (.idRead 0x9F 4) selected).port.sdout = [0x4A, 0x56, 0x19, 0xFF] := by decide

/-- 01 R10: 03 section 3.9 gives OPCODE and ERASE_CHIP their codes. -/
theorem test_erase_chip_is_recorded :
    (after (.eraseChip ⟨0xC7, 0⟩) selected).checker.ring.map (fun v => (v.kind, v.cls, v.address, v.region)) =
      [(.opcode, .eraseChip, 0, none)] := by decide

/-- 01 R2: an opcode held by no entry. -/
theorem test_refused_opcode_is_recorded :
    (after (.refusedOpcode 0xAB 1) selected).checker.allCounter = 1 := by decide

/-- 02 R18, R19: 010100h is offset 100h of the region at physical 110000h. -/
theorem test_program_is_translated :
    (match (after (.program 0x02 [0x01, 0x01, 0x00, 0x5A]) selected).arbiter.grant with
      | .socWrite w => (w.address, w.data)
      | _ => (0, [])) = (0x110100, [0x5A]) := by decide +kernel

/-- 02 R24: the boot region's program mask is empty. -/
theorem test_program_is_denied :
    (after (.program 0x02 [0x00, 0x01, 0x00, 0x5A]) selected).checker.ring.map (fun v => (v.kind, v.region)) =
      [(.programDenied, some 0)] := by decide

/-- 02 R29: the unit of 010FFFh begins at 010000h. -/
theorem test_erase_takes_its_unit :
    (match (after (.erase4k 0x20 [0x01, 0x0F, 0xFF]) selected).arbiter.grant with
      | .socWrite w => w.address
      | _ => 0) = 0x110000 := by decide

/-- 02 R30: a 64 KiB unit in no region is unmapped. -/
theorem test_erase_unmapped :
    (after (.erase64k 0xD8 [0x05, 0x00, 0x00]) selected).checker.unmappedCounter = 1 := by decide

/-- 03 R43: a program in the request area. -/
theorem test_window_program_writes_the_request :
    (after (.program 0x02 [0xFF, 0xF0, 0x01, 0x5A]) selected).window.request = [(1, 0x5A)] := by decide

/-- 03 R46: an empty request has body offset FFFFh. -/
theorem test_window_erase_of_a_blank_request_is_malformed :
    (after (.erase4k 0x20 [0xFF, 0xF0, 0x00]) selected).window.result = 0x10 := by decide +kernel

/-- 01 R14. -/
theorem test_transaction_takes_the_port :
    (after .transactionStart running).arbiter.grant = .socRead := by decide

theorem test_transaction_end_frees_the_port : (after .transactionEnd selected).arbiter.grant = .free := by decide

/-- 01 R13: the Journal Store before the Measurement Unit. -/
theorem test_internal_grant_order :
    (after .internalGrant { running with arbiter := { running.arbiter with
      journal := some (.read 0 256), measure := some (.read 1 256) } }).arbiter.grant =
      .internal .journal (.read 0 256) := by decide

/-- A chunk of the Measurement Unit withdrawn while it is in progress, another one asked for since. -/
def withdrawn : State :=
  (State.withdraw { running with arbiter := { running.arbiter with
    grant := .internal .measure (.read 0 256), measure := some (.read 0 256) } } .measure).askFlash .measure (.read 512 256)

/-- 01 R17: the grant stays INTERNAL; 01 R13: at the completion it is FREE, and the later request stays. -/
theorem test_withdrawn_chunk_goes_on :
    withdrawn.arbiter.grant = .internalWithdrawn .measure 0 256 ∧ (after .internalGrant withdrawn).arbiter = withdrawn.arbiter ∧
      (after (.readChunkComplete []) withdrawn).arbiter.grant = .free ∧
      (after (.readChunkComplete []) withdrawn).arbiter.measure = some (.read 512 256) ∧
      (after .transactionStart withdrawn).arbiter.grant = .socRead := by decide

/-- 01 R11: a program clears bits only. -/
theorem test_flash_operation_clears_bits :
    (after (.flashOperationComplete []) { running with
      flash := [(5, 0xF0)]
      arbiter := { running.arbiter with grant := .socWrite ⟨.program, 0x12, 5, [0x3C]⟩ } }).flash = [(5, 0x30)] := by decide

/-- 02 R25: a byte of no region reads FFh, and is recorded once. -/
theorem test_read_unmapped_reads_high :
    let t := after (.readDataByte []) (after (.readDataByte []) (after (.read 0x03 [0x05, 0, 0]) selected))
    (t.port.sdout, t.checker.unmappedCounter) = ([0xFF], 1) := by decide

/-! ### Time and reset -/

/-- 04 R54: the uptime wraps. -/
theorem test_uptime_wraps :
    (after .uptimeTick { running with time := { uptime := 0xFFFFFFFF, clock := 0 } }).time.uptime = 0 := by decide

/-- 04 R60. -/
theorem test_request_is_recorded :
    let t := after .rstReqAsserted running
    (t.rst.state, t.rst.lastCause, t.rst.counts.toList) = (.request, .request, [1, 1, 0, 0, 0, 0]) := by decide

/-- 04 R62: the hold timer of 10 s. -/
theorem test_owner_button_starts_the_hold_timer :
    (after .ownerClrAsserted running).rst.hold = some { start := 0, span := 10000 } := by decide

/-- 04 R64: no response. -/
theorem test_reset_soc_pulses :
    let t := after .resetSoc (given .resetSoc [])
    (t.rst.state, t.rst.lastCause, t.window.engine) = (.pulse, .command, .idle) := by decide

/-- 04 R65: the boot counter read back clears. -/
theorem test_cause_clear_needs_the_boot_counter :
    (after .causeClear (given .causeClear [0, 0, 0, 1])).rst.counts.toList = [0, 0, 0, 0, 0, 0] := by decide

theorem test_cause_clear_stale : (after .causeClear (given .causeClear [0, 0, 0, 2])).window.result = 0x20 := by decide

/-! ### Window commands -/

theorem test_status_begins_with_life_cycle_and_stage :
    (after .status (given .status [])).window.body.take 5 = [1, 0, 0, 0, 0] := by decide

theorem test_events_raise_no_done :
    (after .events (given .events [])).window.pendingEvents = 0 := by decide

theorem test_stage_advance_to_the_same_stage : (after .stageAdvance (given .stageAdvance [0])).window.result = 0x14 := by decide

theorem test_stage_advance_begins_its_region :
    (after .stageAdvance (given .stageAdvance [1])).arbiter.measure = some (.read 0x110000 256) := by decide

theorem test_measure_extend_stage :
    (after .measureExtend { given .measureExtend (0 :: List.replicate 32 0) with
      measure := { running.measure with stage := 1 } }).window.result = 0x13 := by decide

theorem test_measure_read_length : (after .measureRead (given .measureRead [])).window.body.length = 266 := by decide +kernel

theorem test_log_read_refuses_64 : (after .logRead (given .logRead [64])).window.result = 0x10 := by decide

theorem test_attest_refuses_mask_bit_12 :
    (after .attest (given .attest (List.replicate 32 0 ++ [0x10, 0]))).window.result = 0x10 := by decide

theorem test_key_create_refuses_slot_1 :
    (after .keyCreate (given .keyCreate [1, 0, 1, 0xFF, 0, 0xFF])).window.result = 0x17 := by decide

theorem test_key_public_of_an_empty_slot : (after .keyPublic (given .keyPublic [15])).window.result = 0x16 := by decide

theorem test_key_sign_with_a_derive_key :
    (after .keySign (withKey (given .keySign (2 :: List.replicate 32 0)) 2 deriveKey)).window.result = 0x17 := by decide

theorem test_key_derive_waits :
    (after .keyDerive (withKey (given .keyDerive [2, 0x61]) 2 deriveKey)).signature =
      some (.derive 2 deriveKey [0x61]) := by decide

/-- 07 R114: a use in progress completes with SLOT_STATE, though its slot has been emptied meanwhile. -/
theorem test_use_of_a_disabled_slot_is_refused :
    (after .signatureUnitComplete { taken .keyDerive [2, 0x61] with
      keys := { running.keys with disabled := 4 }
      signature := some (.derive 2 deriveKey [0x61]) }).window.result = 0x22 := by decide +kernel

theorem test_key_destroy_asks_the_store :
    (after .keyDestroy (withKey (given .keyDestroy [2]) 2 deriveKey)).journal.queue.map (fun q => q.entries.map StoreEntry.id) =
      [[2]] := by decide

theorem test_key_list_length : (after .keyList (given .keyList [])).window.body.length = 116 := by decide

/-- 08 section 8.7.1: F = 20, D = 0, C = 100000 and Q = 2000 are clamped. -/
theorem test_cred_store_clamps :
    let v := verifierOf ([0, 0, 0, 0xFF] ++ List.replicate 8 0 ++ [20, 0] ++ [0, 1, 0x86, 0xA0] ++ [0x07, 0xD0] ++ [1, 9])
    (v.free, v.delay, v.ceiling, v.decay) = (15, 1, 86400, 1440) := by decide

/-- 08 section 8.7.1: the delays of the worked case. -/
theorem test_throttle_table :
    [3, 4, 5, 6, 11, 12, 13, 20, 21, 255].map verifier.delayAt = [0, 2, 4, 8, 256, 512, 600, 600, 600, 600] := by decide

theorem test_cred_release_hands_the_value :
    (after .credRelease (withCred (given .credRelease [1]) 1 secretRecord)).window.body = [1, 2, 7, 8] := by decide

theorem test_cred_verify_throttled :
    (after .credVerify (withCred (given .credVerify [0, 9]) 0
      (verifierRecord 6 (some { start := 0, span := 8000 }) none))).window.body = [0, 6, 0, 0, 0, 8] := by decide

theorem test_cred_erase_needs_the_grant :
    (after .credErase (withCred (given .credErase [0]) 0 (verifierRecord 0 none none))).window.result = 0x18 := by decide

theorem test_cred_list_counts :
    (after .credList (withCred (given .credList []) 1 secretRecord)).window.body.length = 33 := by decide

theorem test_grant_drop :
    (after .grantDrop { given .grantDrop [] with creds := { Creds.initial with grant := some ⟨0, 300000⟩ } }).creds.grant =
      none := by decide

theorem test_update_verify_needs_staging : (after .updateVerify (given .updateVerify [])).window.result = 0x1D := by decide

theorem test_update_status_length : (after .updateStatus (given .updateStatus [])).window.body.length = 36 := by decide

theorem test_violation_read_length : (after .violationRead (given .violationRead [])).window.body.length = 41 := by decide +kernel

theorem test_layout_read_source : (after .layoutRead (given .layoutRead [])).window.body = [0, 0, 0, 0, 0, 0, 0, 0, 0] := by decide

theorem test_provision_bank_needs_a_layout :
    (after .provisionBank (given .provisionBank [])).window.result = 0x16 := by decide +kernel

theorem test_field_is_taken_at_the_write :
    (after .anchorMemoryWriteComplete { taken .provisionFinish [] with
      anchor := { Anchor.factory 0 with writes := [.field] } }).anchor.lifeCycle = .field := by decide

/-! ### Witnesses: states and operands that meet the hypotheses of the statements, clause by clause -/

/-- A held grant in a claimed part. -/
def granted : State :=
  { withCred running 0 (verifierRecord 0 none none) with
    creds := { (withCred running 0 (verifierRecord 0 none none)).creds with grant := some { start := 0, span := 300000 } } }

/-- A request of the command engine's in the queue and another held behind it. -/
def queueing : State :=
  { running with journal := { running.journal with
      queue := [running.makeRequest (.keyDestroy 2) true], held := [⟨.keyDestroy 3, false⟩] } }

theorem witness_StepRunsTheFrontCommand :
    ({ running with pending := [.status, .events] } : State).pending = .status :: [.events] ∧ running.pending = [] :=
  ⟨rfl, rfl⟩

theorem witness_StepKeepsMemoriesCanonical :
    ({ running with flash := [(0, 1), (7, 0)] } : State).memoriesWf ∧
      step { running with flash := [(0, 1), (7, 0)] } = .next (State.idle { running with flash := [(0, 1), (7, 0)] }) :=
  ⟨⟨by decide, by decide, trivial⟩, rfl⟩

theorem witness_StepKeepsMemoriesCanonical_scan :
    State.reset.memoriesWf ∧ step State.reset = .next State.reset.idle :=
  ⟨⟨by decide, by decide, by decide, by decide⟩, rfl⟩

theorem witness_StepKeepsGrantSafe :
    granted.grantSafe ∧ granted.creds.grant.isSome = true ∧ step granted = .next granted.idle :=
  ⟨⟨fun _ => ⟨by decide, by decide⟩, fun h => (by cases h)⟩, rfl, rfl⟩

theorem witness_StepKeepsStoreQueueSafe : queueing.storeQueueSafe ∧ step queueing = .next queueing.idle :=
  ⟨⟨by decide, by decide⟩, rfl⟩

theorem witness_StepKeepsEngineAndCapacities :
    (given .status []).engineSafe ∧ running.engineSafe ∧ running.capacitiesSafe ∧
      step (given .status []) = .next (given .status []).idle ∧ step running = .next running.idle :=
  ⟨⟨fun _ => rfl, fun _ => rfl⟩, ⟨fun h => (by cases h), fun h => (by cases h)⟩, ⟨by decide, by decide⟩, rfl, rfl⟩

theorem witness_FloorAndLifeCycleNeverGoBack :
    step running = .next running.idle ∧ running.anchor.lifeCycle = .field := ⟨rfl, rfl⟩

theorem witness_CausesStayUntilPowerOn :
    let s : State := { running with response := { Response.initial with causes := 0x10 } }
    ContainCause.response ≠ .bootMismatch ∧ (∀ rest, s.pending ≠ .powerOn :: rest) ∧
      (∀ torn rest, s.pending ≠ .lossOfSupply torn :: rest) ∧
      s.response.causes.getLsbD ContainCause.response.bit = true ∧ step s = .next s.idle :=
  ⟨by decide, fun _ h => (by cases h), fun _ _ h => (by cases h), by decide, rfl⟩

theorem witness_ViolationIsRecordedOnce :
    ({ running with checker := { running.checker with
      ring := List.replicate 16 ⟨1, .opcode, .refuse, 0, none, 0, 0⟩ } } : State).checker.ring.length ≤ 16 ∧
      running.checker.ring.length ≤ 16 := ⟨by decide, by decide⟩

/-- The part with the Response Unit armed with the test layout's one entry: two violations contain. -/
def armed : State :=
  { running with response := { Response.initial with armed := true, table := testLayout.responses } }

/-- 11 R168, R169: the entry fires on the second violation; a saturated counter is not offered. -/
theorem test_second_violation_contains :
    let hit (s : State) : State := s.violate .readDenied .read 0 (some 15)
    let full : State := { armed with checker := { armed.checker with
      allCounter := 65535, regionCounters := armed.checker.regionCounters.set 15 65535 } }
    ((hit armed).contained, (hit (hit armed)).contained, (hit full).contained) = (false, true, false) ∧ 15 < 16 ∧
      armed.response.armed = true ∧ running.response.armed = false := by decide

theorem witness_ContainmentRequestJoinsOnce :
    ({ running with response := { Response.initial with causes := 0x08 } } : State).response.causes.getLsbD
        ContainCause.storeFault.bit = true ∧
      running.response.causes.getLsbD ContainCause.storeFault.bit = false := ⟨by decide, by decide⟩

theorem witness_ResponseEntryFiresOnCrossing :
    let e : ResponseEntry := { source := .all, threshold := 2, action := .contain }
    7 < 8 ∧ (running.response.fired.getLsbD 7 = false ∧ 1 < e.threshold ∧ e.threshold ≤ 2) ∧
      ¬(running.response.fired.getLsbD 7 = false ∧ 2 < e.threshold ∧ e.threshold ≤ 3) ∧ Source.unmapped ≠ e.source := by
  decide

/-- The erase list with an id that has no record before one that has; the Response Unit free, and with one outstanding. -/
def erasing (busy : Bool) : State :=
  { withCred armed 5 secretRecord with
    response := { armed.response with eraseList := [3] }
    journal := { running.journal with
      queue := if busy then [running.makeRequest (.responseErase 7 1) false] else [] } }

theorem witness_ResponseEntryFiresOnCrossing_actions :
    (erasing false).journal.freeFor .responseUnit ∧ (erasing true).journal.outstanding .responseUnit = true ∧
      (erasing false).creds.get 3 = none ∧ (erasing false).creds.get 5 = some secretRecord ∧
      ((erasing false).act (.eraseCredential 5)).journal.queue.map StoreRequest.purpose = [.responseErase 5 1] ∧
      ((erasing false).act (.eraseCredential 5)).response.eraseList = [] ∧
      ((erasing true).act (.eraseCredential 5)).response.eraseList = [3, 5] ∧
      ((erasing true).act (.eraseCredential 3)).response.eraseList = [3] ∧
      ((erasing false).act (.eraseCredential 4)).response.eraseList = [] :=
  ⟨⟨by decide, fun _ h => (by cases h)⟩, by decide, by decide, by decide, by decide, by decide, by decide, by decide, by decide⟩

theorem witness_StoreRequestIsPlacedOrHeld :
    (∀ h ∈ queueing.journal.held, queueing.journal.outstanding h.purpose.source = true) ∧
      queueing.journal.outstanding (Purpose.ownerEpoch).source = false ∧
      queueing.journal.outstanding (Purpose.keyDestroy 4).source = true := by decide

theorem witness_LossOfSupply_and_UptimeTick : running.powered = true := rfl

theorem witness_TransactionStartTakesTheFlashPort :
    let withGrant (g : Grant) : State := { running with arbiter := { running.arbiter with grant := g } }
    (running.powered = true ∧ running.rst.state = .run ∧ running.lines.ssel = false ∧ running.port.decode = none ∧
      running.port.waitHigh = false ∧ running.arbiter.grant = .free) ∧
      (withGrant (.internal .measure (.read 0 256))).arbiter.grant = .internal .measure (.read 0 256) ∧
      (withGrant (.internalWithdrawn .update 0 256)).arbiter.grant = .internalWithdrawn .update 0 256 ∧
      (withGrant (.internal .journal (.erase64k 0))).arbiter.grant = .internal .journal (.erase64k 0) ∧
      (∀ a n, FlashOp.erase64k 0 ≠ .read a n) ∧ State.reset.rst.state ≠ .run ∧
      ({ withGrant .socRead with arbiter := { running.arbiter with
        grant := .socRead, suspended := some (.journal, .erase64k 0) } } : State).arbiter.suspended =
          some (.journal, .erase64k 0) :=
  ⟨⟨rfl, rfl, rfl, rfl, rfl, rfl⟩, rfl, rfl, rfl, fun _ _ h => (by cases h), by decide, rfl⟩

theorem witness_TransactionEndReturnsTheFlashPort :
    (running.powered = true ∧ running.port.decode = none) ∧ selected.port.decode = some Decode.fresh ∧
      selected.arbiter.grant = .socRead ∧ selected.arbiter.suspended = none ∧ selected.arbiter.deferred = none ∧
      ({ selected with arbiter := { selected.arbiter with grant := .free } } : State).arbiter.grant ≠ .socRead :=
  ⟨⟨rfl, rfl⟩, rfl, rfl, rfl, rfl, by decide⟩

theorem witness_ReadsTakeAddressAndDummyBytes :
    selected.opens 0x03 .read Decode.fresh ⟨0x03, .read, 0x13, 0⟩ ∧
      selected.opens 0x0B .fastRead Decode.fresh ⟨0x0B, .fastRead, 0x0C, 1⟩ :=
  ⟨⟨rfl, rfl, rfl, rfl, rfl⟩, ⟨rfl, rfl, rfl, rfl, rfl⟩⟩

/-- A READ whose data begins at an address. -/
def reading (address : Bytes) : Decode :=
  { Decode.fresh with phase := .data, opcode := 0x03, entry := some ⟨0x03, .read, 0x13, 0⟩, addressBytes := address }

/-- The transaction has come to a data byte of a read. -/
def atByte (s : State) (address : Bytes) : State := { s with port := { s.port with decode := some (reading address) } }

theorem witness_ReadDataByteComesFromItsSource :
    let s := atByte selected [0xFF, 0xF0, 0x00]
    let d := reading [0xFF, 0xF0, 0x00]
    s.powered = true ∧ s.port.decode = some d ∧ d.phase = .data ∧ d.entry = some ⟨0x03, .read, 0x13, 0⟩ ∧
      s.checker.openMapping = false ∧ s.checker.layout = some testLayout ∧
      (beNat (d.addressBytes.take 3) + d.dataCount) % 16777216 = 0xFFF000 ∧
      testLayout.regionOf (beNat [0x05, 0, 0]) = none ∧ testLayout.regionOf 0x1FFFF = some (plainRegion, 0xFFFF) ∧
      testLayout.regionOf 0 = some (bootRegion, 0) :=
  ⟨rfl, rfl, rfl, rfl, rfl, rfl, rfl, by decide, by decide, by decide⟩

theorem witness_classes_open :
    selected.opens 0x06 .writeEnable Decode.fresh ⟨0x06, .writeEnable, 0x06, 0⟩ ∧
      selected.opens 0x04 .writeDisable Decode.fresh ⟨0x04, .writeDisable, 0x04, 0⟩ ∧
      selected.opens 0xC7 .eraseChip Decode.fresh ⟨0xC7, .eraseChip, 0x00, 0⟩ ∧
      selected.opens 0x05 .statusRead Decode.fresh ⟨0x05, .statusRead, 0x05, 0⟩ ∧
      selected.opens 0x9F .idRead Decode.fresh ⟨0x9F, .idRead, 0x9F, 0⟩ ∧
      selected.opens 0x02 .program Decode.fresh ⟨0x02, .program, 0x12, 0⟩ ∧
      selected.opens 0x20 .erase4k Decode.fresh ⟨0x20, .erase4k, 0x21, 0⟩ ∧
      selected.opens 0xD8 .erase64k Decode.fresh ⟨0xD8, .erase64k, 0xDC, 0⟩ ∧ selected.port.wel = true :=
  ⟨⟨rfl, rfl, rfl, rfl, rfl⟩, ⟨rfl, rfl, rfl, rfl, rfl⟩, ⟨rfl, rfl, rfl, rfl, rfl⟩, ⟨rfl, rfl, rfl, rfl, rfl⟩,
    ⟨rfl, rfl, rfl, rfl, rfl⟩, ⟨rfl, rfl, rfl, rfl, rfl⟩, ⟨rfl, rfl, rfl, rfl, rfl⟩, ⟨rfl, rfl, rfl, rfl, rfl⟩, rfl⟩

theorem witness_StatusAndIdReadsGiveTheirBytes_going_on :
    let d (o : Byte) (e : OpcodeEntry) : Decode := { Decode.fresh with phase := .data, opcode := o, entry := some e }
    (d 0x05 ⟨0x05, .statusRead, 0x05, 0⟩).phase ≠ .opcode ∧ (d 0x05 ⟨0x05, .statusRead, 0x05, 0⟩).phase ≠ .ended ∧
      (d 0x9F ⟨0x9F, .idRead, 0x9F, 0⟩).opcode = 0x9F := by decide

theorem witness_RefusedOpcodeRecordsOneViolation :
    lookupOpcode selected.opcodes 0xAB = none ∧
      lookupOpcode selected.opcodes 0x75 = some ⟨0x75, .suspend, 0x75, 0⟩ ∧ selected.powered = true ∧
      selected.port.decode = some Decode.fresh ∧ Decode.fresh.phase = .opcode := by decide +kernel

theorem witness_WritesNeedTheLatchAndNoBusy :
    let e : OpcodeEntry := ⟨0x02, .program, 0x12, 0⟩
    let busy : State := { selected with arbiter := { selected.arbiter with deferred := some ⟨.program, 0x12, 0, [1]⟩ } }
    ([0, 0, 0] : Bytes).length < 4 + e.dummy ∧ 4 + e.dummy ≤ ([0, 0, 0, 1] : Bytes).length ∧
      busy.opens 0x02 .program Decode.fresh e ∧ busy.port.wel = true ∧ busy.arbiter.busy = true ∧
      ({ selected with port := { selected.port with wel := false } } : State).port.wel = false :=
  ⟨by decide, by decide, ⟨rfl, rfl, rfl, rfl, rfl⟩, rfl, rfl, rfl⟩

theorem witness_writes_in_field :
    selected.arbiter.busy = false ∧ selected.checker.openMapping = false ∧ selected.checker.layout = some testLayout ∧
      beNat [0xFF, 0xEF, 0xFF] < 0xFFF000 ∧ 0xFFF000 ≤ beNat [0xFF, 0xF0, 0x00] ∧ selected.window.request.wf = true ∧
      beNat [0xFF, 0xF7, 0xFF] < 0xFFF800 ∧ 0xFFF800 ≤ beNat [0xFF, 0xF8, 0x00] ∧ selected.window.engine ≠ .busy := by decide

/-- A transaction in FACTORY under the open mapping, with no layout: E = 16 MiB less 256 KiB. -/
def selectedFactory : State :=
  { selected with checker := Checker.initial .factory, anchor := Anchor.factory 0 }

/-- Under the open mapping the last byte below E and the first from E on; and FIELD with no layout. -/
theorem witness_ReadDataByteComesFromItsSource_no_layout :
    let s := atByte selectedFactory [0xFB, 0xFF, 0xFF]
    let bare : State := { atByte selected [0, 0, 0] with checker := { selected.checker with layout := none } }
    s.powered = true ∧ s.port.decode = some (reading [0xFB, 0xFF, 0xFF]) ∧ s.checker.openMapping = true ∧
      s.checker.layout = none ∧ beNat [0xFB, 0xFF, 0xFF] < 16777216 - 262144 ∧
      ¬beNat [0xFC, 0x00, 0x00] < 16777216 - 262144 ∧ beNat [0xFC, 0x00, 0x00] < 0xFFF000 ∧
      bare.powered = true ∧ bare.checker.openMapping = false ∧ bare.checker.layout = none :=
  ⟨rfl, rfl, rfl, rfl, by decide, by decide, by decide, rfl, rfl, rfl⟩

/-- What those bytes are: of the blank flash below E, FFh and a violation from E on and with no layout (R35, 12 R174). -/
theorem test_reads_with_no_layout_in_force :
    let read (s : State) := let t := after (.readDataByte []) s; (t.port.sdout, t.checker.unmappedCounter)
    read { atByte selectedFactory [0xFB, 0xFF, 0xFF] with flash := [(0xFBFFFF, 0x5A)] } = ([0x5A], 0) ∧
      read (atByte selectedFactory [0xFC, 0x00, 0x00]) = ([0xFF], 1) ∧
      read { atByte selected [0, 0, 0] with checker := { selected.checker with layout := none } } = ([0xFF], 1) := by
  decide +kernel

theorem witness_FactoryOpenMappingAllowsWritesBelowE :
    let E := min (16777216 - 262144) 0xFFF000
    selectedFactory.opens 0x20 .erase4k Decode.fresh ⟨0x20, .erase4k, 0x21, 0⟩ ∧
      selectedFactory.port.wel = true ∧ selectedFactory.arbiter.busy = false ∧
      selectedFactory.checker.openMapping = true ∧
      beNat [0xFB, 0xFF, 0xFF] / 4096 * 4096 + 4096 ≤ E ∧ E ≤ beNat [0xFC, 0x00, 0x00] / 4096 * 4096 ∧
      0xFFF000 < beNat [0xFF, 0xEF, 0xFF] / 65536 * 65536 + 65536 ∧
      beNat [0xFF, 0xEF, 0xFF] / 65536 * 65536 < min (33554432 - 262144) 0xFFF000 :=
  ⟨⟨rfl, rfl, rfl, rfl, rfl⟩, rfl, rfl, rfl, by decide, by decide, by decide, by decide⟩

theorem witness_PageImageKeepsTheLastByte : ([1] : Bytes) ≠ [] ∧ (0 : Nat) < ([1] : Bytes).length := by decide

/-- A request whose header is a tag, body offset 6 and length 0. -/
def submitting (code : Byte) : State :=
  { selected with window := { selected.window with
      request := ([(0, code), (1, 0x5A), (2, 0), (3, 6), (4, 0), (5, 0)] : Memory) } }

theorem witness_WindowEraseSubmitsTheRequest :
    let w (c : Byte) := (submitting c).window
    beNat ((w 0x01).request.readBytes 2 2) = 6 ∧ beNat ((w 0x01).request.readBytes 4 2) = 0 ∧
      Command.ofCode ((w 0x01).request.read 0) = some .status ∧ Command.ofCode ((w 0x05).request.read 0) = none ∧
      Command.ofCode ((w 0x70).request.read 0) = some .provisionLayout ∧
      ¬(6 ≤ beNat (selected.window.request.readBytes 2 2) ∧ beNat (selected.window.request.readBytes 2 2) ≤ 2047) := by
  decide

theorem witness_InternalGrantFollowsItsOrder :
    let s (j m u : Option FlashOp) : State :=
      { running with arbiter := { running.arbiter with journal := j, measure := m, update := u } }
    let x : Option FlashOp := some (.read 0 256)
    (running.arbiter.grant = .free ∧ running.port.decode = none ∧ running.arbiter.suspended = none ∧
      running.arbiter.deferred = none) ∧
      (s x x x).arbiter.journal = x ∧ (s none x x).arbiter.measure = x ∧ (s none none x).arbiter.update = x ∧
      selected.arbiter.grant ≠ .free := by decide

theorem witness_FlashOperationChangesItsBytes :
    let writing (w : SocWrite) : State := { running with arbiter := { running.arbiter with grant := .socWrite w } }
    let erasing : State := { running with arbiter := { running.arbiter with
      grant := .internal .journal (.erase64k 0), deferred := some ⟨.erase4k, 0x21, 4096, []⟩ } }
    (writing ⟨.program, 0x12, 255, List.replicate 256 0⟩).arbiter.grant =
        .socWrite ⟨.program, 0x12, 255, List.replicate 256 0⟩ ∧
      (List.replicate 256 (0 : Byte)).length ≤ 256 ∧ running.flash.wf = true ∧
      (SocWrite.op ⟨.erase4k, 0x21, 4096, []⟩).touches 8192 = false ∧
      erasing.arbiter.grant = .internal .journal (.erase64k 0) ∧ (∀ a n, FlashOp.erase64k 0 ≠ .read a n) ∧
      erasing.arbiter.deferred = some ⟨.erase4k, 0x21, 4096, []⟩ ∧
      ({ erasing with arbiter := { erasing.arbiter with deferred := none } } : State).arbiter.deferred = none ∧
      (∀ a n, FlashOp.program 255 [1, 2] ≠ .read a n) :=
  ⟨rfl, by decide +kernel, rfl, by decide, rfl, fun _ _ h => (by cases h), rfl, rfl, fun _ _ h => (by cases h)⟩

/-- A chunk granted to a requester. -/
def chunk (s : State) (r : Requester) (base n : Nat) : State :=
  { s with arbiter := (s.arbiter.setRequest r (some (.read base n))) } |> fun t =>
    { t with arbiter := { t.arbiter with grant := .internal r (.read base n) } }

/-- A manifest with two targets. -/
def manifest (n0 : Nat) : Manifest :=
  { version := 5, raiseFloor := true
    targets := [{ region := 0, length := n0, digest := 1 }, { region := 1, length := 3, digest := 2 }]
    layout := some testLayout }

def session (s : State) (x : Session) : State := { s with update := { s.update with session := x } }

theorem witness_ReadChunkFeedsTheDigest :
    let m : Measuring := { region := 2, base := 0x110000, length := 65536, fed := [] }
    let measuring : State := { chunk running .measure 0x110000 256 with measure := { running.measure with current := some m } }
    let verifying := session (chunk running .update 0x200000 256)
      (.verifying (manifest 1000) { todo := (manifest 1000).targets, fed := [] } 0)
    withdrawn.arbiter.grant = .internalWithdrawn .measure 0 256 ∧
      measuring.arbiter.grant = .internal .measure (.read 0x110000 256) ∧ measuring.measure.current = some m ∧
      m.fed.length + 256 < m.length ∧ verifying.arbiter.grant = .internal .update (.read 0x200000 256) ∧
      verifying.update.session =
        .verifying (manifest 1000) { todo := ⟨0, 1000, 1⟩ :: [⟨1, 3, 2⟩], fed := [] } 0 ∧ 0 + 256 < 1000 := by decide

/-- The last chunk of the only region of an advance to stage 1. -/
def lastChunk : State :=
  { chunk (taken .stageAdvance [1]) .measure 0x11FF00 256 with
    measure := { running.measure with
      advance := some { target := 1, todo := [], done := [], mismatched := 0 }
      current := some { region := 2, base := 0x110000, length := 256, fed := [] } } }

theorem witness_AdvanceCompletesWithItsLastRegion :
    lastChunk.powered = true ∧ lastChunk.arbiter.grant = .internal .measure (.read 0x11FF00 256) ∧
      (lastChunk.measure.advance.map Advance.todo) = some [] ∧ lastChunk.checker.layout = some testLayout ∧
      testLayout.region? 2 = some plainRegion ∧ plainRegion.slot = some 1 ∧ lastChunk.measure.log.length < 64 ∧
      lastChunk.window.command = some { command := .stageAdvance, body := [1], taken := true } ∧
      (∀ d, lastChunk.differs plainRegion d = false) :=
  ⟨rfl, rfl, rfl, rfl, by decide, rfl, by decide, rfl, fun _ => rfl⟩

/-- A BANKED region measured at stage 1 whose mismatch contains, and a RECOVERY region. -/
def lateRegion : Region :=
  { bootRegion with index := 4, boot := false, base := some 0x40000, measureAt := .stage 1, slot := some 1, onMismatch := some .contain }

def recoveryRegion : Region :=
  { index := 3, kind := .recovery, boot := false, parent := none, base := none, length := 3, physA := some 0x800000
    physB := none, readMask := 0, programMask := 0, eraseMask := 0, measureAt := .none, slot := none, onMismatch := none }

def fullLayout : Layout := { testLayout with regions := [bootRegion, plainRegion, recoveryRegion, lateRegion] }

/-- The last three bytes of a region being measured, in a boot check or with an advance. -/
def measuringLast (region : Nat) (check : BootCheck) : State :=
  { chunk (taken .stageAdvance [1]) .measure 0x100000 3 with
    checker := { running.checker with layout := some fullLayout }
    rst := { running.rst with state := .check, check := check }
    measure := { running.measure with current := some { region := region, base := 0x100000, length := 3, fed := [] } } }

def firstPass : BootCheck := .measuring { second := false, todo := [], needFallback := false, needContain := false }

/-- The part with bank B GOOD in the bank record. -/
def bankBGood (s : State) : State :=
  { s with update := { s.update with record := { s.update.record with bankB := { state := .good, version := 0, images := [] } } } }

/-- The digest of three bytes of blank flash is not the reference of an absent record. -/
theorem witness_AdvanceCompletesWithItsLastRegion_mismatch :
    let s : State := { measuringLast 4 .idle with measure := { (measuringLast 4 .idle).measure with
      advance := some { target := 1, todo := [], done := [], mismatched := 0 } } }
    s.powered = true ∧ s.arbiter.grant = .internal .measure (.read 0x100000 3) ∧ s.checker.layout = some fullLayout ∧
      fullLayout.region? 4 = some lateRegion ∧ lateRegion.slot = some 1 ∧
      s.window.command = some { command := .stageAdvance, body := [1], taken := true } ∧
      (s.presentedImage lateRegion).digest ≠ sha256 ([] ++ s.flash.readBytesThrough [] 0x100000 3) ∧
      (after (.readChunkComplete []) s).window.body = [1, 1, 4, 0x00, 0x10] ∧
      (after (.readChunkComplete []) s).response.causes = 2 := by decide +kernel

/-- With a region left the next one is begun, of an advance and of a pass. -/
theorem witness_AdvanceCompletesWithItsLastRegion_next :
    let advancing : State := { measuringLast 4 .idle with measure := { (measuringLast 4 .idle).measure with
      advance := some { target := 1, todo := [2], done := [], mismatched := 0 } } }
    let passing := measuringLast 0 (.measuring { second := false, todo := [2], needFallback := false, needContain := false })
    (fullLayout.hashed BankRecord.absent .a plainRegion).2 ≠ 0 ∧ fullLayout.region? 2 = some plainRegion ∧
      advancing.update.record = BankRecord.absent ∧ advancing.update.presented = .a ∧
      (after (.readChunkComplete []) advancing).arbiter.measure = some (.read 0x110000 256) ∧
      (after (.readChunkComplete []) passing).rst.check =
        .measuring { second := false, todo := [], needFallback := true, needContain := false } := by decide +kernel

/-- A pass that ends well releases the SoC, or measures the recovery image while another cause is left; one that
does not falls back where the other bank is GOOD, else contains. -/
theorem witness_AdvanceCompletesWithItsLastRegion_pass :
    let causes (s : State) (x : Byte) : State := { s with response := { s.response with causes := x } }
    let fallback := bankBGood (measuringLast 0 firstPass)
    (measuringLast 2 firstPass).measure.advance = none ∧ (measuringLast 2 firstPass).rst.check = firstPass ∧
      (1 : Byte) &&& 0xFE = 0 ∧ (0x11 : Byte) &&& 0xFE ≠ 0 ∧ fullLayout.recovery = some recoveryRegion ∧
      recoveryRegion.length ≠ 0 ∧ fallback.update.trialBoot = false ∧
      (fallback.update.record.bank fallback.update.presented.other).state = .good ∧
      fallback.journal.freeFor .resetController ∧
      (after (.readChunkComplete []) (causes (measuringLast 2 firstPass) 1)).rst.state = .run ∧
      (after (.readChunkComplete []) (causes (measuringLast 2 firstPass) 0x11)).rst.check = .recovery ∧
      (after (.readChunkComplete []) fallback).rst.check = .waitFallback ∧
      (after (.readChunkComplete []) (measuringLast 0 firstPass)).rst.check = .recovery :=
  ⟨by decide, by decide, by decide, by decide, by decide, by decide, by decide, by decide,
    ⟨by decide, fun _ h => (by cases h)⟩, by decide +kernel, by decide +kernel, by decide +kernel, by decide +kernel⟩

theorem witness_AdvanceCompletesWithItsLastRegion_recovery :
    let s := measuringLast 3 .recovery
    let right : State := { s with update := { s.update with record := { s.update.record with
      recoveryDigest := sha256 [0xFF, 0xFF, 0xFF] } } }
    s.measure.advance = none ∧ s.rst.check = .recovery ∧ recoveryRegion.kind = .recovery ∧
      fullLayout.bootRegion = some bootRegion ∧ bootRegion.slot = some 0 ∧
      (after (.readChunkComplete []) right).rst.state = .run ∧ (after (.readChunkComplete []) s).rst.state = .halt := by
  decide +kernel

/-- A store request in progress at a step. -/
def storing (step : JobStep) : State :=
  { chunk running .journal 0xFE0400 48 with journal := { running.journal with
      job := some { request := running.makeRequest (.keyDestroy 2) true, todo := [⟨.key, 2, 0, false, []⟩]
                    failed := false, step := step } } }

/-- A request whose only entry has come to its last read-back. -/
def lastEntry (c : Command) (p : Purpose) : State :=
  let w : Writing := { half := .zero, offset := 1024, bytes := List.replicate 48 0xFF }
  let q := running.makeRequest p true
  let job : Job := { request := q, todo := q.entries, failed := false, step := .readingBack (.entry 5) w [] }
  { storing .anchorWriting with
    window := (taken c []).window
    journal := { running.journal with job := some job } }

theorem witness_StoreChunkJudgesTheReadBack :
    let w : Writing := { half := .zero, offset := 1024, bytes := List.replicate 48 0xFF }
    let scan : State := { chunk running .journal 0xFC0000 256 with journal := { running.journal with
      scan := some (.probing .mib16 [] [] 0) } }
    scan.journal.scan = some (.probing .mib16 [] [] 0) ∧ 0 + 256 < 262144 ∧
      (storing (.readingBack (.entry 5) w [])).journal.scan = none ∧
      (storing (.readingBack (.entry 5) w [])).flash.readBytesThrough [] 0xFE0400 48 = w.bytes ∧
      (storing (.readingBack (.entry 5) w [])).flash.readBytesThrough [(0xFE0400, 0)] 0xFE0400 48 ≠ w.bytes ∧
      w.bytes.length ≤ 0 + 48 := by decide

/-- A half that holds one CHECKPOINT of generation 1 alone, and one with a KEY entry at 1024. -/
def checkpointHalf : Memory := (encodeEntry 0 0 ⟨.checkpoint, 0, 0, false, [0, 0]⟩ 1).zipIdx.map (fun x => (x.2, x.1))

def keyBytes : Bytes := encodeEntry 0 0 ⟨.key, 2, 0, false, [1, 2, 3]⟩ 1

/-- A scan that has come to the last chunk of the two halves of an area. -/
def scanned (area : Capacity) (half0 : Memory) : State :=
  { chunk running .journal (area.privateBase + 261888) 256 with journal := { running.journal with
      state := .scanning, active := none, index := [], scan := some (.probing area half0 [] 261888) } }

/-- What the first half holds. -/
def onlyCheckpoint : ValidHalf :=
  { checkpoint := { kind := .checkpoint, id := 0, generation := 1, epoch := 0, secret := false, payload := [0, 0]
                    offset := 0, length := 48 }
    copies := [] }

theorem checkpointHalf_judged : judgeHalf 0 0 checkpointHalf = some onlyCheckpoint := by decide +kernel

theorem checkpointHalf_ends (a : Nat) (h : 48 ≤ a) : checkpointHalf.read a = 0xFF := by
  have hl : (checkpointHalf.getLast?.map Prod.fst).all (fun x => decide (x < 48)) = true := by decide +kernel
  have hw : Memory.wfFrom 0 checkpointHalf = true := by decide +kernel
  cases hc : checkpointHalf.getLast? with
  | none => rw [List.getLast?_eq_none_iff.1 hc]; rfl
  | some c =>
    rw [hc] at hl
    have : c.1 < 48 := by simpa using hl
    exact (Memory.wfFrom_getLast _ 0 hw c hc).2.2 a (by omega)

theorem checkpointHalf_next (e : FoundEntry) : ¬running.journal.nextFrom checkpointHalf 48 e :=
  fun h => holds_nothing_at (checkpointHalf_ends _ h.2.1) e h.1

/-- Where a half holds nothing but its CHECKPOINT, that is what the scan finds. -/
theorem witness_StoreChunkJudgesTheReadBack_found :
    running.journal.finds checkpointHalf [] { half := .zero, entries := [], newest := 1, appendPoint := 48 } :=
  ⟨onlyCheckpoint, [], (judgeHalf_iff running.journal _ _).1 checkpointHalf_judged,
    fun w hw => absurd ((judgeHalf_iff running.journal [] w).2 hw) (by
      rw [show judgeHalf running.journal.tagKey running.journal.storageKey [] = none by decide +kernel]; exact fun h => (by cases h)),
    fun e he => absurd he (checkpointHalf_next e), rfl, rfl,
    ⟨rfl, checkpointHalf_ends, fun _ => ⟨47, by decide, by decide, by decide +kernel⟩⟩⟩

/-- No two entries found there have one generation. -/
theorem witness_StoreChunkJudgesTheReadBack_scan (f : Found) (h : running.journal.finds checkpointHalf [] f) :
    f.entries.Pairwise (fun a b => a.generation ≠ b.generation) := by
  obtain ⟨v, chain, hv, -, hc, he, -, -⟩ := h
  have hz : f.half = .zero := by
    cases hh : f.half with
    | zero => rfl
    | one =>
      rw [hh, if_neg (by decide), ← judgeHalf_iff] at hv
      rw [show judgeHalf running.journal.tagKey running.journal.storageKey [] = none by decide +kernel] at hv
      cases hv
  rw [hz, if_pos rfl] at hv hc
  have e := (judgeHalf_iff running.journal _ _).2 hv
  rw [show judgeHalf running.journal.tagKey running.journal.storageKey checkpointHalf = some onlyCheckpoint from
    checkpointHalf_judged] at e
  cases e
  cases chain with
  | nil => rw [he]; exact .nil
  | cons x xs => exact absurd hc.1 (checkpointHalf_next x)

theorem witness_StoreChunkJudgesTheReadBack_lastChunk :
    (scanned .mib16 checkpointHalf).journal.scan = some (.probing .mib16 checkpointHalf [] 261888) ∧
      261888 + 256 = 262144 ∧
      Memory.writeBytes [] (261888 - 131072) ((scanned .mib16 []).flash.readBytesThrough [] 0xFFFF00 256) = [] :=
  ⟨rfl, rfl, by decide +kernel⟩

/-- 06 R98, 12 R174: with no valid half the 32 MiB area is next; after it a part in FIELD is STALE. -/
theorem test_scan_goes_on_to_the_second_area :
    (after (.storeReadChunkComplete []) (scanned .mib16 [])).arbiter.journal = some (.read 0x1FC0000 256) ∧
      (after (.storeReadChunkComplete []) (scanned .mib32 [])).journal.state = .stale ∧
      (after (.storeReadChunkComplete []) { scanned .mib32 [] with anchor := Anchor.factory 0 }).journal.state = .ready := by
  decide +kernel

/-- Two objects still to hand over, the first of them the KEY entry. -/
def handing : State :=
  { chunk running .journal 0xFC0400 48 with journal := { running.journal with
      scan := some (.handing .ready [{ kind := .key, id := 2, half := .zero, offset := 1024, length := 48, generation := 1, epoch := 0 }] []) } }

theorem witness_StoreChunkJudgesTheReadBack_handing :
    let e : FoundEntry := { kind := .key, id := 2, generation := 1, epoch := 0, secret := false, payload := [1, 2, 3]
                            offset := 1024, length := 48 }
    let half : Memory := keyBytes.zipIdx.map (fun x => (1024 + x.2, x.1))
    let cells : FlashCells := keyBytes.zipIdx.map (fun x => (0xFC0400 + x.2, x.1))
    running.journal.holds half 1024 e ∧ half.readBytes 1024 48 = [] ++ handing.flash.readBytesThrough cells 0xFC0400 48 ∧
      tagCorrect handing.journal.tagKey ([] ++ handing.flash.readBytesThrough [] 0xFC0400 48) = false ∧ 48 ≤ 0 + 48 :=
  ⟨(holds_iff _ _ _ _).2 (by decide +kernel), by decide +kernel, by decide +kernel, by decide⟩

/-- A spoiled tag read back: the entry is written once more behind it; one that does not read 00h; a second failure. -/
theorem witness_StoreChunkJudgesTheReadBack_spoiled :
    let w : Writing := { half := .zero, offset := 1024, bytes := List.replicate 48 0 }
    let spoiled (final : Bool) : State :=
      { chunk running .journal 0xFC0420 16 with journal := (storing (.spoilReading w final)).journal }
    let zeros : FlashCells := (List.range 16).map (fun k => (0xFC0420 + k, 0))
    (spoiled false).flash.readBytesThrough zeros 0xFC0420 16 = List.replicate 16 0 ∧
      (spoiled false).flash.readBytesThrough [] 0xFC0420 16 ≠ List.replicate 16 0 ∧
      1024 + 48 + entryLength 0 ≤ 131072 ∧ 131072 < 131000 + 48 + entryLength 0 ∧
      (after (.storeReadChunkComplete zeros) (spoiled false)).journal.appendPoint = 1072 ∧
      (after (.storeReadChunkComplete zeros) (spoiled true)).journal.state = .fault := by decide +kernel

/-- Every purpose of the answers' clauses, each with its one entry, and the owner epoch's. -/
theorem witness_StoreChunkJudgesTheReadBack_answers :
    let one (p : Purpose) (k : ObjectKind) := let q := running.makeRequest p true
      q.entries.map StoreEntry.kind = [k] ∧ q.floorRaise = none ∧ q.authorityHash = none ∧ q.live = true
    let m : Manifest := { manifest 1000 with layout := none }
    one (.keyCreate 2 deriveKey) .key ∧ one (.keyDestroy 2) .key ∧ one (.credErase 0 1) .cred ∧
      one (.credStore 0 (verifierRecord 0 none none).content running.journal.epoch) .cred ∧
      one (.updateOpen m) .bank ∧ one .updateAbort .bank ∧ one (.updateCommit m) .bank ∧ one .updateConfirm .bank ∧
      one (.credCount 0 1 1 [9]) .count ∧ one (.credMatch 0 1) .count ∧
      one .ownerEpoch .ownerEpoch ∧ (running.makeRequest .updateConfirm true).record.isSome = true ∧
      (running.makeRequest (.keyDestroy 2) true).record = none ∧
      ((withCred running 0 (verifierRecord 0 none none)).creds.get 0).isSome = true := by decide +kernel

theorem witness_StoreChunkJudgesTheReadBack_quiet (c : Command) (p : Purpose) :
    (lastEntry c p).quiet ∧ (lastEntry c p).journal.scan = none ∧
      (lastEntry c p).window.command = some { command := c, body := [], taken := true } ∧
      (lastEntry c p).arbiter.grant = .internal .journal (.read 0xFE0400 48) ∧
      (lastEntry c p).flash.readBytesThrough [] 0xFE0400 48 = List.replicate 48 0xFF :=
  ⟨⟨rfl, rfl, by simp [lastEntry, storing, chunk, running, ResetController.initial],
    by simp [lastEntry, storing, chunk, running, ResetController.initial]⟩, rfl, rfl, rfl, rfl⟩

theorem witness_StoreChunkJudgesTheReadBack_unasked :
    let one (p : Purpose) (k : ObjectKind) := let q := running.makeRequest p true
      q.entries.map StoreEntry.kind = [k] ∧ q.floorRaise = none ∧ q.authorityHash = none
    one .trialAttempt .bank ∧ one .trialTimeout .bank ∧ one .bootFallback .bank ∧ one .sessionAbandon .bank ∧
      one (.responseErase 0 1) .cred ∧ one (.provisionLayout testLayout) .layout ∧
      (running.makeRequest (.provisionAuthority 0) true).authorityHash.isSome = true ∧
      (running.makeRequest (.provisionBank BankRecord.absent) true).floorRaise = some 0 ∧
      (running.makeRequest (.updateCommit (manifest 1000)) true).entries.map StoreEntry.kind = [.layoutTrial, .bank] := by decide +kernel

/-- The part in FIELD with the test layout stored and a boot image of three bytes. -/
def bootable : State :=
  { running with update := { running.update with
      layout := some testLayout
      record := { BankRecord.absent with bankA := { state := .good, version := 0, images := [⟨3, 1⟩] } } } }

/-- The entry of a boot check that waits for it, in a part with a trial of bank B. -/
def deciding (p : Purpose) (check : BootCheck) (trialBoot : Bool) : State :=
  let record : BankRecord := { bootable.update.record with
    bankB := { state := .staged, version := 1, images := [⟨3, 1⟩] }, trialPending := true, attempts := 2 }
  let s := { bootable with update := { bootable.update with record := record, trialBoot := trialBoot } }
  let q := s.makeRequest p true
  let w : Writing := { half := .zero, offset := 1024, bytes := List.replicate 48 0xFF }
  { chunk s .journal 0xFE0400 48 with
    rst := { running.rst with state := .check, check := check }
    journal := { running.journal with
      job := some { request := q, todo := q.entries, failed := false, step := .readingBack (.entry 5) w [] } } }

/-- 09 R153, R154: the answer to an attempt presents the trial bank, one to a timeout or a fallback from a trial the
active bank, one to a fallback of the active bank the other one. -/
theorem witness_StoreChunkJudgesTheReadBack_decides :
    let next (p : Purpose) (check : BootCheck) (trial : Bool) := after (.storeReadChunkComplete []) (deciding p check trial)
    ((next .trialAttempt .waitEntry false).update.presented, (next .trialAttempt .waitEntry false).update.record.attempts) =
        (.b, 1) ∧
      (next .trialAttempt .waitEntry false).update.record.bankB.state = .trial ∧
      ((next .trialTimeout .waitEntry false).update.presented, (next .trialTimeout .waitEntry false).update.fallbacks) = (.a, 1) ∧
      ((next .bootFallback .waitFallback true).update.presented, (next .bootFallback .waitFallback true).update.fallbacks) =
        (.a, 1) ∧
      ((next .bootFallback .waitFallback false).update.presented, (next .bootFallback .waitFallback false).update.fallbacks) =
        (.b, 0) ∧
      (next .trialAttempt .waitEntry false).arbiter.measure = some (.read 0x200000 3) ∧
      (next .trialAttempt .idle false).update.presented = .a := by decide +kernel

/-- The next entry of a request that has two, where it fits, where it does not, and with no generation left; a request
with a write to anchor memory. -/
theorem witness_StoreChunkJudgesTheReadBack_next :
    let s (p : Purpose) (g : Word32) (offset : Nat) : State :=
      let q := running.makeRequest p true
      let w : Writing := { half := .zero, offset := offset, bytes := List.replicate 48 0xFF }
      { storing .anchorWriting with journal := { running.journal with
          job := some { request := q, todo := q.entries, failed := false, step := .readingBack (.entry g) w [] } } }
    let two : Purpose := .updateCommit (manifest 1000)
    let next (t : State) := after (.storeReadChunkComplete []) t
    ((next (s two 5 1024)).journal.job.map Job.step).any (fun x => match x with
        | .programming (.entry 6) w _ => w.offset == 1072
        | _ => false) = true ∧
      (next (s two 5 131024)).arbiter.journal = some (.erase64k 0xFE0000) ∧
      (next (s two 0xFFFFFFFF 1024)).journal.state = .fault ∧
      (next (s (.provisionBank BankRecord.absent) 5 1024)).anchor.writes = [.request (some 0) none] := by decide +kernel

/-- What follows an answer where something waits: a held request, the erase list, a check and a pulse. -/
theorem witness_FollowedBy :
    let held : State := { running with journal := { running.journal with held := [⟨.keyDestroy 3, true⟩] } }
    let waiting : State := { bootable with rst := { running.rst with state := .check, check := .waitStore } }
    let ended : State := { bootable with rst := { running.rst with state := .pulse, pulse := none, pulseWait := true } }
    held.heldPlaced.journal.queue = [running.makeRequest (.keyDestroy 3) true] ∧
      held.heldPlaced.journal.outstanding .responseUnit = false ∧
      (erasing true).heldPlaced.journal.outstanding .responseUnit = true ∧
      waiting.rst.check = .waitStore ∧ ended.journal.anyRequest (fun p => p == .ownerEpoch) = false ∧
      waiting.afterAnswer.arbiter.measure = some (.read 0x100000 3) ∧
      ended.afterAnswer.arbiter.measure = some (.read 0x100000 3) ∧
      (erasing false).afterAnswer.response.eraseList = [] := by decide +kernel

/-- The store with one key entry of 48 bytes live. -/
def oneLive : Journal :=
  { running.journal with index := [{ kind := .key, id := 2, half := .zero, offset := 1024, length := 48, generation := 1, epoch := 0 }] }

theorem witness_OldestRequestIsTakenOrRefused :
    let s : State := { running with journal := { running.journal with queue := [running.makeRequest (.keyDestroy 2) true] } }
    let stale : State := { s with journal := { s.journal with state := .stale } }
    let scanning : State := { s with journal := { s.journal with state := .scanning } }
    s.journal.queue = running.makeRequest (.keyDestroy 2) true :: [] ∧ s.journal.job = none ∧ s.journal.state = .ready ∧
      s.journal.active = some .zero ∧ s.anchor.generation ≠ 0xFFFFFFFF ∧
      s.journal.appendPoint + entryLength 0 ≤ 131072 ∧ stale.journal.state = .stale ∧
      scanning.journal.state = .scanning :=
  ⟨rfl, rfl, rfl, rfl, by decide, by decide, rfl, rfl⟩

/-- The entry that fills the half exactly, the one past it, a blank store, an epoch entry, and none left. -/
theorem witness_OldestRequestIsTakenOrRefused_edges :
    let s (p : Purpose) (at_ : Nat) (epoch : Word32) : State := { running with journal := { running.journal with
      queue := [running.makeRequest p true], appendPoint := at_, epoch := epoch } }
    131040 + entryLength 0 ≤ 131072 ∧ 131072 < 131041 + entryLength 0 ∧
      (after .storeRequestTaken (s (.keyDestroy 2) 131056 1)).arbiter.journal = some (.erase64k 0xFE0000) ∧
      ({ s (.keyDestroy 2) 0 1 with journal := { (s (.keyDestroy 2) 0 1).journal with active := none } } : State).journal.active = none ∧
      ((s .ownerEpoch 1024 7).journal.filled ⟨.ownerEpoch, 0, 0, false, []⟩).payload = [0, 0, 0, 8] ∧
      (s .ownerEpoch 1024 0xFFFFFFFF).journal.epoch = 0xFFFFFFFF ∧
      (after .storeRequestTaken (s .ownerEpoch 1024 0xFFFFFFFF)).journal.state = .fault := by decide +kernel

/-- Compaction: its second erase, the first copy, a copied entry with its tag, and the CHECKPOINT read back. -/
theorem witness_OldestRequestIsTakenOrRefused_compaction :
    let erasing (second : Bool) (j : Journal) : State := { storing .anchorWriting with
      arbiter := { running.arbiter with grant := .internal .journal (.erase64k 0xFE0000) }
      journal := { j with job := (storing (.erasing second)).journal.job } }
    let entry := encodeEntry 0 0 ⟨.key, 2, 0, false, [1, 2, 3]⟩ 1
    let cells : FlashCells := entry.zipIdx.map (fun x => (0xFE0400 + x.2, x.1))
    (∀ a k, FlashOp.erase64k 0xFE0000 ≠ .read a k) ∧ (erasing false running.journal).journal.index = [] ∧
      (erasing true oneLive).journal.index ≠ [] ∧
      (storing .anchorWriting).flash.readBytesThrough cells 0xFE0400 48 = entry ∧
      tagCorrect running.journal.tagKey entry = true ∧
      48 + 48 + entryLength 0 ≤ 131072 ∧ running.anchor.generation + 1 ≠ 0xFFFFFFFF :=
  ⟨fun _ _ h => (by cases h), rfl, by decide, by decide +kernel, by decide +kernel, by decide, by decide⟩

/-- A page programmed with another left and with none, a copy with another left, and a compaction that fails. -/
theorem witness_OldestRequestIsTakenOrRefused_failure :
    let x : IndexRecord := { kind := .key, id := 2, half := .zero, offset := 1024, length := 48, generation := 1, epoch := 0 }
    let blank : Writing := { half := .one, offset := 0, bytes := List.replicate 48 0xFF }
    let programmed (pages : List (Nat × Bytes)) : State := { storing (.programming (.entry 1) blank pages) with
      arbiter := { running.arbiter with grant := .internal .journal (.program 0xFE0000 [0]) } }
    let next (s : State) := after (.storeReadChunkComplete []) s
    (after (.flashOperationComplete []) (programmed [(0xFE0000, [0]), (0xFE0100, [1])])).arbiter.journal =
        some (.program 0xFE0100 [1]) ∧
      (after (.flashOperationComplete []) (programmed [(0xFE0000, [0])])).arbiter.journal = some (.read 0xFE0000 48) ∧
      (next (storing (.readingBack (.copy x [x] []) blank []))).arbiter.journal = some (.read 0xFC0400 48) ∧
      tagCorrect running.journal.tagKey ((storing .anchorWriting).flash.readBytesThrough [] 0xFE0400 48) = false ∧
      (next (storing (.copyReading x [] [] []))).arbiter.journal = some (.erase64k 0xFE0000) ∧
      (next (storing (.readingBack (.checkpoint []) { blank with bytes := List.replicate 48 0 } []))).journal.job.map Job.failed =
        some true := by decide +kernel

theorem witness_SignatureUnitAnswersItsCommand :
    let s (c : Command) (j : SignatureJob) : State := { taken c [] with signature := some j }
    (s .keyDerive (.derive 2 deriveKey [0x61])).window.command = some { command := .keyDerive, body := [], taken := true } ∧
      Command.keyDerive ≠ .events ∧ (s .keySign (.sign 2 deriveKey 0)).signature = some (.sign 2 deriveKey 0) ∧
      (s .attest (.attest [])).signature = some (.attest []) ∧
      (s .credStore (.salt 0 verifier [9])).signature = some (.salt 0 verifier [9]) ∧
      (s .keyCreate (.createKey 3 .owner false 0xFF true false none)).journal.freeFor .engine :=
  ⟨rfl, by decide, rfl, rfl, rfl, rfl, fun _ h => (by cases h)⟩

theorem witness_ResetRequestLineIsALevel :
    let s (x : ResetState) (low : Bool) : State :=
      { running with rst := { running.rst with state := x }, lines := { running.lines with rstReq := low } }
    (s .halt false).rst.state = .halt ∧ (s .pulse false).rst.state = .pulse ∧ (s .check false).rst.state = .check ∧
      (s .run false).lines.rstReq = false ∧ (s .request true).lines.rstReq = true ∧ (s .run true).rst.state ≠ .request ∧
      ({ s .check false with arbiter := { running.arbiter with grant := .internal .measure (.read 0 256) } } : State).abandonCheck.arbiter.grant =
        .internalWithdrawn .measure 0 256 := by
  decide

/-- An owner-reset pulse whose epoch request waits in the queue. -/
def pulsing : State :=
  { running with
    rst := { running.rst with state := .pulse, pulse := some { start := 0, span := 20 }, pulseWait := true }
    time := { uptime := 0, clock := 20 }
    journal := { running.journal with queue := [running.makeRequest .ownerEpoch false] } }

theorem witness_PulseEndEntersCheck :
    pulsing.rst.state = .pulse ∧ pulsing.rst.pulse = some { start := 0, span := 20 } ∧ 0 + 20 ≤ pulsing.time.clock ∧
      (pulsing.rst.pulseWait = true ∧ pulsing.journal.anyRequest (fun p => p == .ownerEpoch) = true) ∧
      ({ pulsing with journal := running.journal } : State).journal.anyRequest (fun p => p == .ownerEpoch) = false ∧
      running.time.clock < 0 + 20 := by decide

theorem witness_CheckEntered_firstPass :
    ¬bootable.storeAwaited ∧ bootable.anchor.lifeCycle = .field ∧ bootable.update.record.trialPending = false ∧
      bootable.layoutNow = some testLayout ∧ testLayout.region? 0 = some bootRegion ∧ bootRegion.measureAt = .reset ∧
      (testLayout.hashed bootable.update.record bootable.update.record.active bootRegion).2 ≠ 0 ∧
      bootable.enterCheck.arbiter.measure = some (.read 0x100000 3) :=
  ⟨fun ⟨_, h, _⟩ => (by cases h), by decide, by decide, by decide +kernel, by decide, by decide, by decide, by decide +kernel⟩

/-- A SoC reset with a session open, and with each kind of grant. -/
theorem witness_SocResetDone_clauses :
    let opened := session running (.staging (manifest 1000))
    let granted (g : Grant) (x : Option (Requester × FlashOp)) (w : Option SocWrite) : State :=
      { running with arbiter := { running.arbiter with grant := g, suspended := x, deferred := w } }
    let w : SocWrite := ⟨.erase4k, 0x21, 4096, []⟩
    opened.update.session.isOpen = true ∧ running.update.session.isOpen = false ∧
      opened.journal.freeFor .updateController ∧ (∀ a n, FlashOp.erase64k 0 ≠ .read a n) ∧
      (granted .socRead (some (.journal, .erase64k 0)) none).assertReset.arbiter.grant = .internal .journal (.erase64k 0) ∧
      (granted .socRead none (some w)).assertReset.arbiter.grant = .socWrite w ∧
      (granted .socRead none none).assertReset.arbiter.grant = .free ∧
      (granted (.internal .measure (.read 0 256)) none none).assertReset.arbiter.grant = .internalWithdrawn .measure 0 256 :=
  ⟨rfl, rfl, ⟨rfl, fun _ h => (by cases h)⟩, fun _ _ h => (by cases h), rfl, rfl, rfl, rfl⟩

/-- The waits of an entry into CHECK, and a trial with and without attempts left. -/
theorem witness_CheckEntered_clauses :
    let trial (n : Nat) : State := { bootable with update := { bootable.update with
      record := { bootable.update.record with trialPending := true, attempts := n } } }
    pulsing.storeAwaited ∧ ¬({ running with anchor := Anchor.factory 0 } : State).storeAwaited ∧
      (Anchor.factory 0).lifeCycle = .factory ∧ ¬(trial 2).storeAwaited ∧ (trial 2).journal.freeFor .resetController ∧
      (trial 2).enterCheck.journal.queue.map (fun q => (q.purpose, q.record.map BankRecord.attempts)) =
        [(.trialAttempt, some 1)] ∧
      (trial 0).enterCheck.journal.queue.map (fun q => (q.purpose, q.record.map BankRecord.outcome)) =
        [(.trialTimeout, some .fellBackTimeout)] ∧
      running.enterCheck.rst.state = .run :=
  ⟨⟨.ownerEpoch, by decide, .inl rfl⟩, fun ⟨_, h, _⟩ => (by cases h), rfl, fun ⟨_, h, _⟩ => (by cases h),
    ⟨rfl, fun _ h => (by cases h)⟩, by decide +kernel, by decide +kernel, by decide +kernel⟩

theorem witness_OwnerButtonMakesTheOwnerReset :
    let held : State := { running with
      lines := { running.lines with ownerClr := true }
      rst := { running.rst with hold := some { start := 0, span := 10000 } }
      time := { uptime := 10, clock := 10000 } }
    running.lines.ownerClr = false ∧ running.rst.state ≠ .start ∧ State.reset.rst.state = .start ∧
      State.reset.lines.ownerClr = false ∧ held.lines.ownerClr = true ∧
      held.rst.hold = some { start := 0, span := 10000 } ∧ 0 + 10000 ≤ held.time.clock ∧ held.rst.state = .run ∧
      (let s (x : ResetState) : State := { held with rst := { held.rst with state := x } }
       (s .check).rst.state = .check ∧ (s .pulse).rst.state = .pulse ∧ (s .request).rst.state = .request ∧
        (s .halt).rst.state = .halt ∧
        (after .ownerReset (s .check)).rst.pulse = some { start := 10000, span := 20 } ∧
        (after .ownerReset (s .check)).rst.pulseWait = true ∧ (after .ownerReset (s .pulse)).rst.pulse = none) := by decide

theorem witness_DevicePulseResetsTheSoc :
    (given .resetSoc []).hands .resetSoc [] ∧ (given .resetSoc [0]).hands .resetSoc [0] ∧ running.rst.state = .run ∧
      ({ running with update := { running.update with timer := some { start := 0, span := 0 } } } : State).update.timer =
        some { start := 0, span := 0 } := ⟨⟨rfl, rfl⟩, ⟨rfl, rfl⟩, rfl, rfl⟩

theorem witness_CauseClearReportsAndClears :
    (given .causeClear [0, 0, 0, 1]).hands .causeClear [0, 0, 0, 1] ∧
      BitVec.ofNat 32 (beNat [0, 0, 0, 1]) = (given .causeClear []).rst.bootCounter ∧
      BitVec.ofNat 32 (beNat [0, 0, 0, 2]) ≠ (given .causeClear []).rst.bootCounter := ⟨⟨rfl, rfl⟩, rfl, by decide⟩

/-- Every window command is handed to its owner in some state. -/
theorem witness_hands (c : Command) (body : Bytes) : (given c body).hands c body := ⟨rfl, rfl⟩

theorem witness_StageAdvanceFreezesThenMeasures :
    let s := given .stageAdvance [1]
    s.advanceList 0 1 = [2] ∧ s.advanceList 1 7 = [] ∧ s.checker.layout = some testLayout ∧
      testLayout.region? 2 = some plainRegion ∧ (s.measuredRange plainRegion).2 ≠ 0 ∧
      (Anchor.factory 0).lifeCycle = .factory := by decide

theorem witness_MeasureExtendFoldsTheDigest :
    (List.replicate 32 (0 : Byte)).length = 32 ∧
      (testLayout.extendMasks.getD 7 0).getLsbD running.measure.stage.toNat = true ∧
      (testLayout.extendMasks.getD 7 0).getLsbD 1 = false := by decide

theorem witness_AttestTakesItsSnapshot : (List.replicate 32 (0 : Byte)).length = 32 ∧ (0x0F : Byte).toNat < 16 := by decide

/-- Requests of the command engine and of the Update Controller find none outstanding. -/
theorem witness_freeFor (c : Command) (body : Bytes) (src : StoreSource) : (given c body).journal.freeFor src :=
  ⟨by cases src <;> rfl, fun _ h => (by cases h)⟩

theorem witness_CredVerifyCountsBeforeItCompares :
    (withCred running 31 (verifierRecord 3 none none)).creds.get 31 = some (verifierRecord 3 none none) ∧
      (verifierRecord 3 none none).content = .verifier verifier ∧ verifier.ownerGate = true ∧
      (withCred running 31 (verifierRecord 0 none none)).claimed = true ∧ running.response.causes = 0 ∧
      running.creds.get 31 = none ∧ (verifierRecord 0 none none).epoch ≠ 2 ∧
      ((withCred running 31 secretRecord).countWritten true 31 1 1 [9]).window.result = 0x16 := by decide

theorem witness_CredentialTimersExpire :
    let now (r : CredRecord) (t : Nat) : State := { withCred running 0 r with time := { uptime := 0, clock := t } }
    let tm : Timer := { start := 0, span := 8000 }
    (now (verifierRecord 6 (some tm) none) 8000).creds.get 0 = some (verifierRecord 6 (some tm) none) ∧
      (now (verifierRecord 6 (some tm) none) 8000).verifyOutstanding 0 = false ∧ tm.start + tm.span ≤ 8000 ∧
      7999 < tm.start + tm.span ∧ (verifierRecord 6 none (some tm)).count ≠ 0 ∧
      verifier.free < 4 ∧ 1 ≤ verifier.delay ∧ verifier.ceiling ≤ 86400 ∧
      granted.creds.grant = some { start := 0, span := 300000 } := by decide

/-- A manifest body with one target and no layout block: 9 + 37 + 64 bytes. -/
def manifestBody : Bytes := [1, 0, 0, 0, 5, 1, 1] ++ ([0, 0, 0, 0, 3] ++ List.replicate 32 0) ++ [0, 0] ++ List.replicate 64 0

theorem witness_UpdateOpenIsTestedInOrder_form :
    manifestBody.length = 9 + 37 * 1 + 0 + 64 ∧ manifestBody.getD 0 0 = 1 ∧ (manifestBody.getD 5 0).toNat ≤ 1 ∧
      (manifestBody.getD 6 0).toNat = 1 ∧ field manifestBody (7 + 37 * 1) 2 = 0 := by decide

theorem witness_UpdateOpenIsTestedInOrder_signed :
    let s : State := { taken .updateOpen manifestBody with signature := some (.manifest manifestBody) }
    s.window.command = some { command := .updateOpen, body := manifestBody, taken := true } ∧
      s.checker.layout = some testLayout ∧ s.keys.authority = none ∧
      (manifestTargetList manifestBody).map Target.region = testLayout.banked ∧
      s.anchor.floor.toNat ≤ (BitVec.ofNat 32 (field manifestBody 1 4)).toNat := ⟨rfl, rfl, rfl, by decide, by decide⟩

/-- The answer to the request comes while the command is taken. -/
theorem witness_UpdateOpenIsTestedInOrder_answered :
    (taken .updateOpen manifestBody).window.command = some { command := .updateOpen, body := manifestBody, taken := true } ∧
      ((taken .updateOpen manifestBody).opened true (manifest 1000)).window.body = [1, 1] := ⟨rfl, rfl⟩

theorem witness_UpdateVerifyHashesTheTargets :
    let s := session (given .updateVerify []) (.staging (manifest 1000))
    let last := session (chunk running .update 0x200000 3) (.verifying (manifest 0) { todo := [⟨1, 3, 2⟩], fed := [] } 0)
    s.hands .updateVerify [] ∧ s.update.session = .staging (manifest 1000) ∧
      (manifest 1000).targets = ⟨0, 1000, 1⟩ :: [⟨1, 3, 2⟩] ∧ (manifest 0).targets = ⟨0, 0, 1⟩ :: [⟨1, 3, 2⟩] ∧
      last.arbiter.grant = .internal .update (.read 0x200000 3) ∧ 3 ≤ 0 + 3 :=
  ⟨⟨rfl, rfl⟩, rfl, rfl, rfl, rfl, by decide⟩

/-- 09 R147, R148: the last chunk of the first of two targets, matched and not; then one of length 0. -/
theorem witness_UpdateVerifyHashesTheTargets_first :
    let blank := sha256 [0xFF, 0xFF, 0xFF]
    let s (d : Digest) (next : Target) : State := session (chunk running .update 0x200000 3)
      (.verifying (manifest 3) { todo := [⟨0, 3, d⟩, next], fed := [] } 0)
    let done (d : Digest) (next : Target) := after (.readChunkComplete []) (s d next)
    (done blank ⟨0, 3, 2⟩).arbiter.update = some (.read 0x200000 3) ∧
      (done blank ⟨0, 3, 2⟩).update.session = .verifying (manifest 3) { todo := [⟨0, 3, 2⟩], fed := [] } 3 ∧
      (done 0 ⟨1, 3, 2⟩).update.verification = .rejected 0 ∧
      (done blank ⟨1, 0, 2⟩).update.verification = .rejected 1 ∧
      (done blank ⟨1, 0, sha256 []⟩).update.verification = .verified := by decide +kernel

theorem witness_UpdateCommitAbortConfirmPlaceTheirRecord :
    let committing := session (given .updateCommit []) (.verified (manifest 1000))
    let trial (stage : BitVec 3) : State := { given .updateConfirm [] with
      update := { running.update with running := true }, measure := { running.measure with stage := stage } }
    committing.hands .updateCommit [] ∧ committing.update.session = .verified (manifest 1000) ∧
      (given .updateAbort []).update.session = .idle ∧ (given .updateConfirm []).update.running = false ∧
      (trial 0).update.running = true ∧ (trial 0).measure.stage.toNat < testLayout.confirmStage ∧
      testLayout.confirmStage ≤ (trial 1).measure.stage.toNat ∧ (trial 1).response.causes = 0 ∧
      (trial 1).checker.layout = some testLayout :=
  ⟨⟨rfl, rfl⟩, rfl, rfl, rfl, rfl, by decide, by decide, rfl, rfl⟩

/-- The reference layout of 02 section 2.15 as a layout block (03 section 3.9), written out from the tables. -/
def refHead : Bytes :=
  [0x01, 0x01, 0x4A, 0x56, 0x18, 0x03, 0x03, 0x03, 0x01, 0x2C, 0xFC, 0x00, 0x00, 0x00, 0xFC, 0xFC, 0xFC, 0xFC, 0xFC, 0x07, 0x04]

def refOpcodes : Bytes :=
  [0x03, 0x00, 0x13, 0x00, 0x0B, 0x01, 0x0C, 0x01, 0x02, 0x02, 0x12, 0x00, 0x20, 0x03, 0x21, 0x00,
   0xD8, 0x04, 0xDC, 0x00, 0x06, 0x06, 0x06, 0x00, 0x04, 0x07, 0x04, 0x00, 0x05, 0x08, 0x05, 0x00,
   0x9F, 0x09, 0x9F, 0x00, 0xC7, 0x05, 0x00, 0x00, 0x60, 0x05, 0x00, 0x00, 0x75, 0x0A, 0x75, 0x00,
   0x7A, 0x0B, 0x7A, 0x00, 0xB9, 0x0C, 0x00, 0x00, 0x66, 0x0C, 0x00, 0x00, 0x99, 0x0C, 0x00, 0x00]

def refRegions : Bytes :=
  [0x00, 0x00, 0x01, 0xFF, 0x00, 0x00, 0x00, 0x00, 0x04, 0x00, 0x00, 0x00, 0x00,
   0x00, 0x00, 0x01, 0x00, 0x00, 0x00, 0x03, 0x00, 0x00, 0x08, 0x00, 0x01,
   0x01, 0x00, 0x00, 0xFF, 0x04, 0x00, 0x00, 0x00, 0x70, 0x00, 0x00, 0x00, 0x04,
   0x00, 0x00, 0x01, 0x04, 0x00, 0x00, 0xFF, 0x00, 0x00, 0x01, 0x01, 0x02,
   0x02, 0x02, 0x00, 0xFF, 0x74, 0x00, 0x00, 0x00, 0x04, 0x00, 0x00, 0x00, 0x74,
   0x00, 0x00, 0xFF, 0xFF, 0xFF, 0xFF, 0xFF, 0xFC, 0xFC, 0x00, 0xFF, 0xFF,
   0x03, 0x02, 0x00, 0xFF, 0x78, 0x00, 0x00, 0x00, 0x08, 0x00, 0x00, 0x00, 0x78,
   0x00, 0x00, 0xFF, 0xFF, 0xFF, 0xFF, 0xFF, 0xFC, 0xFC, 0x00, 0xFF, 0xFF,
   0x04, 0x01, 0x00, 0x00, 0x80, 0x00, 0x00, 0x00, 0x04, 0x00, 0x00, 0xFF, 0xFF,
   0xFF, 0xFF, 0xFF, 0xFF, 0xFF, 0xFF, 0xFC, 0xFC, 0xFC, 0x00, 0xFF, 0xFF,
   0x05, 0x01, 0x00, 0x01, 0x84, 0x00, 0x00, 0x00, 0x70, 0x00, 0x00, 0xFF, 0xFF,
   0xFF, 0xFF, 0xFF, 0xFF, 0xFF, 0xFF, 0xFC, 0xFC, 0xFC, 0x00, 0xFF, 0xFF,
   0x06, 0x03, 0x00, 0xFF, 0xFF, 0xFF, 0xFF, 0x00, 0x04, 0x00, 0x00, 0x00, 0x80,
   0x00, 0x00, 0xFF, 0xFF, 0xFF, 0xFF, 0x00, 0x00, 0x00, 0x00, 0xFF, 0xFF]

def refResponses : Bytes :=
  [0x01, 0xFF, 0x01, 0x00, 0x00, 0xFF,
   0x00, 0x01, 0x00, 0x10, 0x02, 0x02,
   0x04, 0xFF, 0x00, 0x01, 0x05, 0xFF,
   0x05, 0xFF, 0x00, 0x03, 0x03, 0xFF]

def refBlock : Bytes := refHead ++ refOpcodes ++ refRegions ++ refResponses

/-- The reference layout is 284 bytes long, passes every check and has the default table (02 sections 2.3, 2.15). -/
theorem test_reference_layout_is_valid :
    refBlock.length = 284 ∧ (Layout.parse refBlock).map (fun l => (l.valid, l.grantTime, l.banked)) = some (true, 300, [0, 1]) ∧
      (Layout.parse refBlock).map Layout.opcodes = some defaultOpcodes := by decide +kernel

/-- Reads of 02 section 2.16: 03FFF0h lies in region 0, its last 16 bytes, and 040000h begins region 1. -/
theorem test_reference_layout_lookup :
    (Layout.parse refBlock).map (fun l => [0x3FFFF, 0x40000, 0xF40000].map (fun p => (l.regionOf p).map (fun x => (x.1.index, x.2)))) =
      some [some (0, 0x3FFFF), some (1, 0), none] := by decide +kernel

/-- SHA-256 of the three bytes "abc" (FIPS 180-4). -/
theorem test_sha256_abc : sha256 [0x61, 0x62, 0x63] = 0xba7816bf8f01cfea414140de5dae2223b00361a396177a9cb410ff61f20015ad := by
  decide +kernel

/-- A public key of a published P-256 test vector (RFC 6979, A.2.5). -/
def vectorKey : Pair :=
  0x60FED4BA255A9D31C961EB74C6356D68C049B8923B61FA6CE669622E60F29FB67903FE1008B8BC99A41AE9E95628BC64F2F1B20C2D7E9F5177A3C294D4462299

theorem test_onCurve_vector : onCurve vectorKey = true := by decide +kernel

/-- PROVISION LAYOUT past its last test: the reference layout, with none stored. -/
theorem witness_ProvisionCommandsPlaceTheirRequest_layout :
    (given .provisionLayout refBlock).currentLayout = none ∧ refBlock.getD 0 0 = 1 ∧
      refBlock.length = 85 + 25 * (refBlock.getD 19 0).toNat + 6 * (refBlock.getD 20 0).toNat ∧
      (Layout.parse refBlock).any (fun l => l.valid) = true := by decide +kernel

/-- PROVISION AUTHORITY past its last test: a key on the curve, a layout stored, no hash in anchor memory. -/
theorem witness_ProvisionCommandsPlaceTheirRequest_authority :
    let s : State := { given .provisionAuthority (pairBytes vectorKey) with
      update := { Update.initial with layout := some testLayout } }
    (pairBytes vectorKey).length = 64 ∧ onCurve (BitVec.ofNat 512 (field (pairBytes vectorKey) 0 64)) = true ∧
      s.currentLayout = some testLayout ∧ s.anchor.authorityHash = 0 := by
  refine ⟨?_, ?_, rfl, rfl⟩ <;> decide +kernel

/-- A PROVISION BANK body for the one BANKED region of the test layout: bank A GOOD with version 2, floor 1. -/
def bankBody : Bytes :=
  [0, 0, 0, 0, 1, 3, 0, 0, 0, 2, 0, 0, 1, 0] ++ List.replicate 32 0x11 ++ List.replicate 41 0 ++ List.replicate 32 0x22

theorem witness_ProvisionCommandsPlaceTheirRequest_bank :
    bankBody.length = 47 + 72 * testLayout.banked.length ∧
      (provisionedRecord testLayout bankBody).any (fun r => r.bankA.provisionOk testLayout && r.bankB.provisionOk testLayout &&
        (r.bank r.active).state == .good && decide ((0 : Nat) ≤ r.floor.toNat ∧ r.floor.toNat ≤ (r.bank r.active).version.toNat)) =
        true := by decide +kernel

theorem witness_ProvisionFinishWritesField :
    let s (w : AnchorWrite) : State := { taken .provisionFinish [] with anchor := { Anchor.factory 0 with writes := [w] } }
    (s .field).anchor.writes = .field :: [] ∧
      (s .field).window.command = some { command := .provisionFinish, body := [], taken := true } ∧
      running.window.command = none ∧ (s (.request (some 3) none)).anchor.writes = .request (some 3) none :: [] ∧
      (storing .anchorWriting).journal.job.map Job.step = some .anchorWriting :=
  ⟨rfl, rfl, rfl, rfl, rfl⟩

end Sys2Proof.Tests
end

section
namespace Sys2Proof.Machine

/-! ### Power-on -/

/-- The HMAC of R102 for one counter value. -/
def identityDraw (secret : Digest) (k : Nat) : Digest :=
  hmacKey secret ([0x49, 0x44, 0x45, 0x4E, 0x54, 0x49, 0x54, 0x59] ++ [BitVec.ofNat 8 k])

/-- A number that 07 R102 takes as the identity scalar. -/
def inScalarRange (d : Digest) : Prop := d.toNat ≠ 0 ∧ d.toNat < p256Order

/-- The identity scalar is the draw of the first counter value, from the one given on, that is in range (07 R102). -/
theorem identityScalar_eq_draw (secret : Digest) (fuel counter k : Nat) (low : counter ≤ k) (high : k < counter + fuel)
    (hit : inScalarRange (identityDraw secret k))
    (first : ∀ j, counter ≤ j → j < k → ¬inScalarRange (identityDraw secret j)) :
    identityScalar secret fuel counter = identityDraw secret k := by
  induction fuel generalizing counter with
  | zero => omega
  | succ fuel ih =>
    have step : identityScalar secret (fuel + 1) counter =
        if (identityDraw secret counter).toNat = 0 ∨ p256Order ≤ (identityDraw secret counter).toNat then
          identityScalar secret fuel (counter + 1)
        else identityDraw secret counter := rfl
    rw [step]
    by_cases now : counter = k
    · subst now
      obtain ⟨nonzero, below⟩ := hit
      exact if_neg (by omega)
    · have out := first counter (Nat.le_refl _) (by omega)
      rw [if_pos (by unfold inScalarRange at out; omega)]
      exact ih (counter + 1) (by omega) (by omega) (fun j hj => first j (by omega))

end Sys2Proof.Machine

open Sys2Proof Sys2Proof.Machine

/-- Settles O13: each block's initial value written out; the identity scalar by its counter. -/
theorem powerOnGivesFirstValues : Obligations.PowerOnGivesFirstValues := by
  intro s
  have identity (k : Nat) (hk : k < 256) (hit : inScalarRange (identityDraw s.anchor.deviceSecret k))
      (first : ∀ j, j < k → ¬inScalarRange (identityDraw s.anchor.deviceSecret j)) :
      s.powerOn.keys.identity.scalar = identityDraw s.anchor.deviceSecret k :=
    identityScalar_eq_draw s.anchor.deviceSecret 256 0 k (Nat.zero_le k) (by omega) hit (fun j _ => first j)
  exact ⟨s.powerOn, rfl, rfl, rfl, rfl, rfl, rfl, rfl, rfl, rfl, rfl, rfl, rfl, rfl, rfl, rfl, rfl, rfl, rfl, rfl, rfl,
    rfl, rfl, rfl, rfl, rfl, rfl, identity, rfl, rfl, rfl, rfl⟩
end

section
namespace Sys2Proof.Machine

/-! ### The Flash Port Arbiter -/

/-- An operation that is no read chunk writes. -/
def FlashOp.writes (op : FlashOp) : Prop := ∀ a n, op ≠ .read a n

/-- An internal program or erase is suspended by a transaction (01 R15). -/
theorem serveSoc_of_writing {a : Arbiter} {r : Requester} {op : FlashOp} (hg : a.grant = .internal r op)
    (hw : op.writes) (suspend poll : Byte) :
    a.serveSoc suspend poll =
      { a with grant := .socRead, suspended := some (r, op), suspendDone := false, bus := [[suspend], [poll]] } := by
  cases op with
  | read base n => exact absurd rfl (hw base n)
  | program base data => simp only [Arbiter.serveSoc, hg]
  | erase4k base => simp only [Arbiter.serveSoc, hg]
  | erase64k base => simp only [Arbiter.serveSoc, hg]

/-- A read chunk is ended by a transaction, withdrawn or not (01 R14). -/
theorem serveSoc_of_reading {a : Arbiter} {r : Requester} {base n : Nat}
    (hg : a.grant = .internal r (.read base n) ∨ a.grant = .internalWithdrawn r base n) (suspend poll : Byte) :
    a.serveSoc suspend poll = { a with grant := .socRead } := by
  rcases hg with hg | hg <;> simp only [Arbiter.serveSoc, hg]

/-- While SOC_RST is asserted only the level of SSEL changes (01 R4). -/
theorem startTransaction_of_reset {s : State} (h : s.rst.state ≠ .run) :
    s.startTransaction = { s with lines := { s.lines with ssel := true } } := by
  have reset : s.socRst = true := by simpa [State.socRst] using h
  simp [State.startTransaction, reset]

/-- With the SoC running and the port idle a transaction begins (01 R1, R14). -/
theorem startTransaction_of_run {s : State} (hp : s.powered = true) (hr : s.rst.state = .run)
    (hl : s.lines.ssel = false) (hd : s.port.decode = none) (hw : s.port.waitHigh = false) :
    s.startTransaction = { s with
      lines := { s.lines with ssel := true }, port := { s.port with decode := some Decode.fresh }
      arbiter := s.arbiter.serveSoc (s.flashOp .suspend) (s.flashOp .statusRead) } := by
  have released : s.socRst = false := by simp [State.socRst, hr]
  simp [State.startTransaction, hp, released, hl, hd, hw]

/-- A poll that reads ready makes the flash readable in the suspension (01 R15). -/
theorem suspendComplete_of_suspended {s : State} {x : Requester × FlashOp} (hp : s.powered = true)
    (hs : s.arbiter.suspended = some x) (hg : s.arbiter.grant = .socRead) :
    exec .suspendComplete s = .next { s with arbiter := { s.arbiter with suspendDone := true } } := by
  simp [exec, execSuspendComplete, State.whenPowered, hp, hs, hg]

/-- A grant other than SOC_READ is kept when the SoC Port goes idle (01 R14). -/
theorem portIdle_of_other {a : Arbiter} (h : a.grant ≠ .socRead) (resume poll : Byte) (frames : SocWrite → List Bytes) :
    a.portIdle resume poll frames = a := by
  unfold Arbiter.portIdle
  split
  · contradiction
  · rfl

/-- An end of SSEL's low phase that ends no transaction: an SSEL waited out is high (01 R4). -/
theorem endTransaction_of_none {s : State} (hp : s.powered = true) (hd : s.port.decode = none) :
    s.endTransaction = { s with lines := { s.lines with ssel := false }, port := { s.port with waitHigh := false } } := by
  simp [State.endTransaction, hp, hd]

/-- The end of a transaction clears the decode record and leaves the Flash Port to the rest (01 R1, R14). -/
theorem endTransaction_of_some {s : State} {d : Decode} (hp : s.powered = true) (hd : s.port.decode = some d) :
    s.endTransaction = { s with
      lines := { s.lines with ssel := false }, port := { s.port with decode := none }, arbiter := s.portIdle.arbiter } := by
  simp [State.endTransaction, hp, hd]
  rfl

end Sys2Proof.Machine

open Sys2Proof Sys2Proof.Machine

/-- Settles O16: what the arbiter makes of each grant. -/
theorem transactionStartTakesTheFlashPort : Obligations.TransactionStartTakesTheFlashPort := by
  intro s
  refine ⟨fun hp hr hl hd hw => ?_, fun hr => congrArg Host.Outcome.next (startTransaction_of_reset hr),
    fun x hp hs hg => suspendComplete_of_suspended hp hs hg⟩
  have start := startTransaction_of_run hp hr hl hd hw
  refine ⟨_, congrArg Host.Outcome.next start, rfl, ⟨Decode.fresh, rfl, rfl, rfl, rfl, rfl, rfl, rfl, rfl⟩, fun hg => ?_,
    fun r a n hg => serveSoc_of_reading hg _ _, fun r op hg ho => serveSoc_of_writing hg ho _ _, fun hg => ?_,
    fun w hg => ?_⟩
  · simp only [Arbiter.serveSoc, hg]
  · simp only [Arbiter.serveSoc, hg]
  · simp only [Arbiter.serveSoc, hg]

/-- Settles O17: what the SoC Port's going idle makes of the grant. -/
theorem transactionEndReturnsTheFlashPort : Obligations.TransactionEndReturnsTheFlashPort := by
  refine ⟨fun s hp hd => congrArg Host.Outcome.next (endTransaction_of_none hp hd), fun s d hp hd => ?_⟩
  refine ⟨_, congrArg Host.Outcome.next (endTransaction_of_some hp hd), rfl,
    fun hg => ⟨fun r op hs => ?_, fun w hs hw => ?_, fun hs hw => ?_⟩, fun hg => portIdle_of_other hg _ _ _⟩
  · simp only [State.portIdle, Arbiter.portIdle, hg, hs]
  · simp only [State.portIdle, Arbiter.portIdle, hg, hs, hw]
  · simp only [State.portIdle, Arbiter.portIdle, hg, hs, hw]

end

section
namespace Sys2Proof.Machine

/-- The addresses received are those of the bytes a read takes. -/
theorem take_three_of_take (received : Bytes) (n : Nat) : (received.take (3 + n)).take 3 = received.take 3 := by
  rw [List.take_take, Nat.min_eq_left (by omega)]

/-- A read takes no more than its address and dummy bytes (01 R1). -/
theorem openRead_of_opens {s : State} {op : Byte} {c : OpClass} {d : Decode} {e : OpcodeEntry} (h : s.opens op c d e)
    (received : Bytes) :
    let n := min received.length (3 + e.dummy)
    s.openRead c op received = s.withDecode { d with
      opcode := e.opcode, entry := some e, addressBytes := received.take 3, dummyLeft := e.dummy - (n - 3)
      phase := if n < 3 then .address else if n < 3 + e.dummy then .dummy else .data } (List.replicate n 0xFF) := by
  intro n
  have len : (received.take (3 + e.dummy)).length = n := by rw [List.length_take, Nat.min_comm]
  have atMost : n ≤ 3 + e.dummy := Nat.min_le_right _ _
  have phase : (if n < 3 then Phase.address else if e.dummy - (n - 3) = 0 then .data else .dummy) =
      if n < 3 then .address else if n < 3 + e.dummy then .dummy else .data := by
    split
    · rfl
    · by_cases short : n < 3 + e.dummy
      · rw [if_pos short, if_neg (by omega)]
      · rw [if_neg short, if_pos (by omega)]
  simp only [State.openRead, opening_of_opens h, Decode.addressed, len, phase, take_three_of_take, highBytes]

/-- A bare transaction leaves its decode record, the WEL as the class sets it and SDOUT high (01 R1, R6). -/
theorem plainTransaction_ended {s : State} {op : Byte} {c : OpClass} {d : Decode} {e : OpcodeEntry}
    (h : s.opens op c d e) (n : Nat) (f : State → State) :
    s.plainTransaction c op n f = f (s.ended { d with
      phase := .ended, opcode := op, entry := some e, dummyLeft := e.dummy - n
      dataCount := d.dataCount + (n - e.dummy) } s.port.wel (List.replicate n 0xFF)) :=
  plainTransaction_of_opens h n f

/-- ERASE_CHIP, with the latch clear and with it set (01 R10). -/
theorem eraseChip_of_opens {s : State} {op : Byte} {d : Decode} {e : OpcodeEntry} (h : s.opens op .eraseChip d e) (n : Nat) :
    let past : State := s.ended { d with
      phase := .ended, opcode := op, entry := some e, dummyLeft := e.dummy - n
      dataCount := d.dataCount + (n - e.dummy) } false (List.replicate n 0xFF)
    exec (.eraseChip ⟨op, n⟩) s = .next (if s.port.wel then past.violate .opcode .eraseChip 0 none else past) := by
  intro past
  refine congrArg Host.Outcome.next ((plainTransaction_ended h n _).trans ?_)
  cases wel : s.port.wel
  · rfl
  · rfl

/-! ### Violations -/

/-- A violation leaves the SoC Port as it was (02 R36). -/
theorem violate_port (s : State) (k : ViolationKind) (c : OpClass) (p : Nat) (r : Option Nat) :
    (s.violate k c p r).port = s.port := (violate_only s k c p r).port

/-- A violation leaves the Flash Port Arbiter as it was (02 R36). -/
theorem violate_arbiter (s : State) (k : ViolationKind) (c : OpClass) (p : Nat) (r : Option Nat) :
    (s.violate k c p r).arbiter = s.arbiter := (violate_only s k c p r).arbiter

/-- A violation leaves the flash as it was (02 R36). -/
theorem violate_flash (s : State) (k : ViolationKind) (c : OpClass) (p : Nat) (r : Option Nat) :
    (s.violate k c p r).flash = s.flash := (violate_only s k c p r).flash

/-! ### Status and ID -/

/-- The status byte as the sum of its bits (01 R8). -/
theorem statusByte_eq (s : State) :
    s.statusByte = (if s.arbiter.busy then 1 else 0) + (if s.port.wel then 2 else 0) := by
  unfold State.statusByte
  generalize s.arbiter.busy = busy, s.port.wel = wel
  cases busy <;> cases wel <;> rfl

/-- The three bytes of the presented ID in force (01 R9). -/
theorem presentedId_take (s : State) : s.presentedId.take 3 = (match s.checker.layout with
    | some l => l.presentedId.take 3
    | none => [0x4A, 0x56, 0x18]) := by
  unfold State.presentedId
  cases s.checker.layout <;> rfl

/-- A transaction that begins answers from its entry's dummy bytes on (01 R8, R9). -/
theorem answer_of_opens {s : State} {op : Byte} {c : OpClass} {d : Decode} {e : OpcodeEntry} (h : s.opens op c d e)
    (n : Nat) (byte : Nat → Byte) : ∃ d', s.answer op c n byte = s.withDecode d'
      (List.replicate (min n e.dummy) 0xFF ++ (List.range (n - e.dummy)).map (fun k => byte (d.dataCount + k))) := by
  simp only [State.answer, State.answering, opening_of_opens h]
  exact ⟨_, rfl⟩

/-- A transaction under way answers from where it stands (01 R8, R9). -/
theorem answer_of_underway {s : State} {op : Byte} {c : OpClass} {d : Decode} {e : OpcodeEntry} (hp : s.powered = true)
    (hd : s.port.decode = some d) (h1 : d.phase ≠ .opcode) (h2 : d.phase ≠ .ended) (ho : d.opcode = op)
    (he : d.entry = some e) (hc : e.cls = c) (n : Nat) (byte : Nat → Byte) :
    ∃ d', s.answer op c n byte = s.withDecode d' (List.replicate (min n d.dummyLeft) 0xFF ++
      (List.range (n - d.dummyLeft)).map (fun k => byte (d.dataCount + k))) := by
  have begun : s.opening op c = none := by
    cases found : lookupOpcode s.opcodes op <;> simp [State.opening, hp, hd, found, h1]
  have now : s.answering op c = some d := by simp [State.answering, begun, hp, hd, he, h1, h2, ho, hc]
  exact ⟨d.clocked n, by simp only [State.answer, now]; rfl⟩

/-- The same byte for every data byte. -/
theorem map_range_const (n : Nat) (x : Byte) : (List.range n).map (fun _ => x) = List.replicate n x := by
  rw [List.map_const', List.length_range]

/-- What a transaction that answers byte by byte changes: its own decode record and SDOUT (01 R8, R9). -/
theorem exists_answered {i : Instr} {s : State} {d : Decode} {out out' : Bytes}
    (run : exec i s = .next (s.withDecode d out)) (ho : out = out') : ∃ t, exec i s = .next t ∧
      t = { s with port := { s.port with decode := t.port.decode, sdout := t.port.sdout } } ∧ t.port.sdout = out' :=
  ⟨s.withDecode d out, run, rfl, ho⟩

/-! ### Refused opcodes -/

/-- The class that a refused opcode's violation carries (01 R2, 02 R36). -/
theorem refusedClass_of_refused {s : State} {op : Byte} {c : OpClass}
    (h : (lookupOpcode s.opcodes op = none ∧ c = .refuse) ∨
      ∃ e, lookupOpcode s.opcodes op = some e ∧ e.cls = c ∧ (c = .refuse ∨ c = .suspend ∨ c = .resume)) :
    s.refusedClass op = some c := by
  rcases h with ⟨absent, rfl⟩ | ⟨e, found, rfl, refused⟩
  · simp only [State.refusedClass, absent]
  · simp only [State.refusedClass, found, if_pos refused]

/-- The opcode byte of a refused opcode records its violation (01 R2). -/
theorem refuseOpcode_of_opcode {s : State} {op : Byte} {d : Decode} {c : OpClass} (hp : s.powered = true)
    (hd : s.port.decode = some d) (hc : s.refusedClass op = some c) (ho : d.phase = .opcode) (n : Nat) :
    s.refuseOpcode op n = (s.withDecode { d with
      phase := .data, opcode := op, entry := lookupOpcode s.opcodes op, dataCount := n, violated := true }
      (List.replicate n 0xFF)).violate .opcode c 0 none := by
  simp only [State.refuseOpcode, hp, hd, hc, ho, if_true, highBytes]

/-- The bytes after it record nothing (01 R2). -/
theorem refuseOpcode_of_data {s : State} {op : Byte} {d : Decode} {c : OpClass} (hp : s.powered = true)
    (hd : s.port.decode = some d) (hc : s.refusedClass op = some c) (hdata : d.phase = .data) (ho : d.opcode = op)
    (hv : d.violated = true) (n : Nat) :
    s.refuseOpcode op n = s.withDecode { d with dataCount := d.dataCount + n } (List.replicate n 0xFF) := by
  simp [State.refuseOpcode, hp, hd, hc, hdata, ho, hv, highBytes]

end Sys2Proof.Machine

open Sys2Proof Sys2Proof.Machine

/-- Settles O18: both classes open a read. -/
theorem readsTakeAddressAndDummyBytes : Obligations.ReadsTakeAddressAndDummyBytes := by
  intro s op received d e i c hi h
  simp only [List.mem_cons, Prod.mk.injEq, List.not_mem_nil, or_false] at hi
  rcases hi with ⟨rfl, rfl⟩ | ⟨rfl, rfl⟩
  · exact congrArg Host.Outcome.next (openRead_of_opens h received)
  · exact congrArg Host.Outcome.next (openRead_of_opens h received)

/-- Settles O20: the two classes' effects on the WEL. -/
theorem writeEnableAndDisableSetTheLatch : Obligations.WriteEnableAndDisableSetTheLatch := by
  intro s op n d e
  exact ⟨fun h => congrArg Host.Outcome.next (plainTransaction_ended h n _),
    fun h => congrArg Host.Outcome.next (plainTransaction_ended h n _)⟩

/-- Settles O21: by the WEL. -/
theorem eraseChipIsNeverForwarded : Obligations.EraseChipIsNeverForwarded := by
  intro s op n d e h past
  have run := eraseChip_of_opens h n
  refine ⟨fun clear => ?_, fun latched => ?_⟩
  · rw [clear] at run
    exact run
  · rw [latched] at run
    exact ⟨past.violate .opcode .eraseChip 0 none, run, rfl, violate_port past _ _ _ _, violate_arbiter past _ _ _ _,
      violate_flash past _ _ _ _⟩

/-- Settles O22: the answers of both classes, of a transaction that begins and of one under way. -/
theorem statusAndIdReadsGiveTheirBytes : Obligations.StatusAndIdReadsGiveTheirBytes := by
  refine ⟨?_, ?_⟩
  · intro s op n d e busy status
    have byte : s.statusByte = status := statusByte_eq s
    refine ⟨fun h => ?_, fun hp hd h1 h2 ho he hc => ?_⟩
    · obtain ⟨d', run⟩ := answer_of_opens h n (fun _ => s.statusByte)
      exact exists_answered (congrArg Host.Outcome.next run) (by rw [map_range_const, byte])
    · obtain ⟨d', run⟩ := answer_of_underway hp hd h1 h2 ho he hc n (fun _ => s.statusByte)
      exact exists_answered (congrArg Host.Outcome.next run) (by rw [map_range_const, byte])
  · intro s op n d e id
    have bytes : s.presentedId.take 3 = id := presentedId_take s
    refine ⟨fun h => ?_, fun hp hd h1 h2 ho he hc => ?_⟩
    · obtain ⟨d', run⟩ := answer_of_opens h n (fun k => (s.presentedId.take 3).getD k 0xFF)
      exact exists_answered (congrArg Host.Outcome.next run) (by rw [bytes])
    · obtain ⟨d', run⟩ := answer_of_underway hp hd h1 h2 ho he hc n (fun k => (s.presentedId.take 3).getD k 0xFF)
      exact exists_answered (congrArg Host.Outcome.next run) (by rw [bytes])

/-- Settles O23: the opcode byte records, later bytes do not. -/
theorem refusedOpcodeRecordsOneViolation : Obligations.RefusedOpcodeRecordsOneViolation := by
  intro s op n d c hp hd refused
  have cls := refusedClass_of_refused refused
  refine ⟨fun ho => ?_, fun hdata ho hv => congrArg Host.Outcome.next (refuseOpcode_of_data hp hd cls hdata ho hv n)⟩
  exact ⟨_, _, congrArg Host.Outcome.next (refuseOpcode_of_opcode hp hd cls ho n), rfl, rfl, rfl, rfl,
    by rw [violate_port]; rfl, violate_arbiter (s.withDecode _ _) _ _ _ _,
    violate_flash (s.withDecode _ _) _ _ _ _⟩

end

section
namespace Sys2Proof.Machine

/-- Data bytes have come exactly when more than the address and the dummy bytes have (01 R1). -/
theorem dataBytes_eq_nil_iff (received : Bytes) (dummy : Nat) :
    dataBytes received dummy = [] ↔ received.length < 4 + dummy := by
  simp only [dataBytes, List.drop_eq_nil_iff]
  omega

/-! ### The rows of PROGRAM and the erases -/

/-- The busy indication: a forwarded SoC write is in progress or one is deferred (01 R8). -/
theorem busy_iff (a : Arbiter) : a.busy = true ↔ (∃ w, a.grant = .socWrite w) ∨ a.deferred ≠ none := by
  have deferred : a.deferred.isSome = true ↔ a.deferred ≠ none := Option.isSome_iff_ne_none
  cases hg : a.grant <;> simp [Arbiter.busy, hg, deferred]

/-- An internal program or erase is in progress or suspended (01 R7, R16). -/
theorem internalWriting_iff (a : Arbiter) : a.internalWriting = true ↔
    a.suspended ≠ none ∨ ∃ r op, a.grant = .internal r op ∧ ∀ base n, op ≠ .read base n := by
  have suspended : a.suspended.isSome = true ↔ a.suspended ≠ none := Option.isSome_iff_ne_none
  cases hg : a.grant with
  | internal r op =>
    cases op with
    | read base n => simp [Arbiter.internalWriting, hg, suspended]
    | _ => exact iff_of_true (by simp only [Arbiter.internalWriting, hg, Bool.or_true]) (.inr ⟨r, _, rfl, nofun⟩)
  | free => simp [Arbiter.internalWriting, hg, suspended]
  | socRead => simp [Arbiter.internalWriting, hg, suspended]
  | socWrite w => simp [Arbiter.internalWriting, hg, suspended]
  | internalWithdrawn r base n => simp [Arbiter.internalWriting, hg, suspended]

/-- A PROGRAM without a data byte has no effect (01 R4). -/
theorem programTransaction_of_incomplete {s : State} {op : Byte} {d : Decode} {e : OpcodeEntry} {received : Bytes}
    (h : s.opens op .program d e) (short : received.length < 4 + e.dummy) :
    ∃ d', s.programTransaction op received = s.ended d' s.port.wel (List.replicate received.length 0xFF) := by
  simp only [State.programTransaction, opening_of_opens h, (dataBytes_eq_nil_iff _ _).2 short, if_true]
  exact ⟨_, rfl⟩

/-- A complete PROGRAM is judged with its page image (01 R7, 02 R27). -/
theorem programTransaction_of_complete {s : State} {op : Byte} {d : Decode} {e : OpcodeEntry} {received : Bytes}
    (h : s.opens op .program d e) (long : 4 + e.dummy ≤ received.length) :
    let p := beNat (received.take 3)
    ∃ d', d'.phase = .ended ∧ s.programTransaction op received =
      (s.ended d' s.port.wel (List.replicate received.length 0xFF)).judgeWrite .program p
        (fun t => t.placeProgram e p (pageImage p (received.drop (3 + e.dummy)))) := by
  have data : dataBytes received e.dummy ≠ [] := fun short => absurd ((dataBytes_eq_nil_iff _ _).1 short) (by omega)
  simp only [State.programTransaction, opening_of_opens h, if_neg data]
  exact ⟨_, rfl, rfl⟩

/-- An erase without its address has no effect (01 R4). -/
theorem eraseTransaction_of_incomplete {s : State} {op : Byte} {c : OpClass} {d : Decode} {e : OpcodeEntry}
    {received : Bytes} (h : s.opens op c d e) (short : received.length < 3) (size : Nat) :
    ∃ d', s.eraseTransaction c size op received = s.ended d' s.port.wel (List.replicate received.length 0xFF) := by
  simp only [State.eraseTransaction, opening_of_opens h, if_pos short]
  exact ⟨_, rfl⟩

/-- A complete erase is judged with its unit (01 R7). -/
theorem eraseTransaction_of_complete {s : State} {op : Byte} {c : OpClass} {d : Decode} {e : OpcodeEntry}
    {received : Bytes} (h : s.opens op c d e) (long : 3 ≤ received.length) (size : Nat) :
    let p := beNat (received.take 3)
    ∃ d', d'.phase = .ended ∧ s.eraseTransaction c size op received =
      (s.ended d' s.port.wel (List.replicate received.length 0xFF)).judgeWrite c p (fun t => t.placeErase e p size) := by
  simp only [State.eraseTransaction, opening_of_opens h, if_neg (Nat.not_lt.2 long)]
  exact ⟨_, rfl, rfl⟩

/-- A write with the WEL clear is ignored (01 R7 (1)). -/
theorem judgeWrite_of_clear {s : State} (clear : s.port.wel = false) (d : Decode) (out : Bytes) (c : OpClass) (p : Nat)
    (act : State → State) : (s.ended d s.port.wel out).judgeWrite c p act = s.ended d false out := by
  rw [clear]
  rfl

/-- A write while busy is dropped, whatever the rights (01 R7 (2)). -/
theorem judgeWrite_of_busy {s : State} (latched : s.port.wel = true) (busy : s.arbiter.busy = true) (d : Decode) (out : Bytes)
    (c : OpClass) (p : Nat) (act : State → State) : (s.ended d s.port.wel out).judgeWrite c p act =
      (s.ended d false out).violate .writeWhileBusy c p (s.lookup p).index := by
  rw [latched]
  exact if_pos busy

/-- A write with the WEL set and the busy indication 0 reaches the Region Checker, the WEL cleared (01 R7 (3)). -/
theorem judgeWrite_of_ready {s : State} (latched : s.port.wel = true) (ready : s.arbiter.busy = false) (d : Decode)
    (out : Bytes) (c : OpClass) (p : Nat) (act : State → State) :
    (s.ended d s.port.wel out).judgeWrite c p act = act (s.ended d false out) := by
  rw [latched]
  have notBusy : ¬s.arbiter.busy = true := by simp [ready]
  exact if_neg notBusy

/-- The three classes of writes: incomplete none has an effect, complete each is judged (01 R4, R7). -/
theorem write_rows {s : State} {op : Byte} {received : Bytes} {d : Decode} {e : OpcodeEntry} {i : Instr} {c : OpClass}
    {least : Nat} (row : (i, c, least) ∈ [(Instr.program op received, OpClass.program, 4 + e.dummy),
      (Instr.erase4k op received, OpClass.erase4k, 3), (Instr.erase64k op received, OpClass.erase64k, 3)])
    (h : s.opens op c d e) :
    (received.length < least →
      ∃ d', exec i s = .next (s.ended d' s.port.wel (List.replicate received.length 0xFF))) ∧
    (least ≤ received.length → ∃ d' act, d'.phase = .ended ∧
      exec i s = .next ((s.ended d' s.port.wel (List.replicate received.length 0xFF)).judgeWrite c
        (beNat (received.take 3)) act)) := by
  simp only [List.mem_cons, Prod.mk.injEq, List.not_mem_nil, or_false] at row
  rcases row with ⟨rfl, rfl, rfl⟩ | ⟨rfl, rfl, rfl⟩ | ⟨rfl, rfl, rfl⟩
  · refine ⟨fun short => ?_, fun long => ?_⟩
    · obtain ⟨d', run⟩ := programTransaction_of_incomplete h short
      exact ⟨d', congrArg Host.Outcome.next run⟩
    · obtain ⟨d', past, run⟩ := programTransaction_of_complete h long
      exact ⟨d', _, past, congrArg Host.Outcome.next run⟩
  all_goals
    refine ⟨fun short => ?_, fun long => ?_⟩
    · obtain ⟨d', run⟩ := eraseTransaction_of_incomplete h short _
      exact ⟨d', congrArg Host.Outcome.next run⟩
    · obtain ⟨d', past, run⟩ := eraseTransaction_of_complete h long _
      exact ⟨d', _, past, congrArg Host.Outcome.next run⟩

/-- The two classes of erases, complete, are judged with their unit (01 R7). -/
theorem erase_rows {s : State} {op : Byte} {received : Bytes} {d : Decode} {e : OpcodeEntry} {i : Instr} {c : OpClass}
    {size : Nat} (row : (i, c, size) ∈ [(Instr.erase4k op received, OpClass.erase4k, 4096),
      (Instr.erase64k op received, OpClass.erase64k, 65536)])
    (h : s.opens op c d e) (long : 3 ≤ received.length) :
    let p := beNat (received.take 3)
    (c = .erase4k ∨ c = .erase64k) ∧ ∃ d', d'.phase = .ended ∧
      exec i s = .next ((s.ended d' s.port.wel (List.replicate received.length 0xFF)).judgeWrite c p
        (fun t => t.placeErase e p size)) := by
  simp only [List.mem_cons, Prod.mk.injEq, List.not_mem_nil, or_false] at row
  rcases row with ⟨rfl, rfl, rfl⟩ | ⟨rfl, rfl, rfl⟩
  · obtain ⟨d', past, run⟩ := eraseTransaction_of_complete h long 4096
    exact ⟨.inl rfl, d', past, congrArg Host.Outcome.next run⟩
  · obtain ⟨d', past, run⟩ := eraseTransaction_of_complete h long 65536
    exact ⟨.inr rfl, d', past, congrArg Host.Outcome.next run⟩

/-- The flash-side transactions of a forwarded erase (01 R11). -/
theorem operationFrames_of_erase (s : State) {c : OpClass} (erases : c = .erase4k ∨ c = .erase64k) (flashOp : Byte)
    (a : Nat) : s.operationFrames flashOp (SocWrite.op ⟨c, flashOp, a, []⟩) =
      [[s.flashOp .writeEnable], flashOp :: beBytes 4 a, [s.flashOp .statusRead]] := by
  rcases erases with rfl | rfl <;> rfl

/-! ### Where an address leads -/

/-- The translated address (02 R19). -/
theorem translate_eq_physical (s : State) (r : Region) (o : Nat) : s.translate r o = s.physical r o := by
  unfold State.translate State.physical
  cases r.kind with
  | banked => cases s.update.presented <;> rfl
  | plain => rfl
  | recovery => rfl
  | stage =>
    cases s.checker.layout with
    | none => rfl
    | some l =>
      cases hp : r.parent with
      | none => rfl
      | some i =>
        cases hi : l.region? i <;> cases s.update.presented <;> simp [hi, Region.bankBase, Bank.other]

/-- An address of a region of the layout in force (02 R18). -/
theorem lookup_of_regionOf {s : State} {l : Layout} {p o : Nat} {r : Region} (below : p < 0xFFF000)
    (closed : s.checker.openMapping = false) (hl : s.checker.layout = some l) (found : l.regionOf p = some (r, o)) :
    s.lookup p = .region r o := by
  simp only [State.lookup, if_neg (Nat.not_le.2 (show p < windowBase from below)), closed, hl, found,
    Bool.false_eq_true, if_false]

/-- An address below the window in no region of the layout in force (02 R18). -/
theorem lookup_of_outside {s : State} {l : Layout} {p : Nat} (below : p < 0xFFF000)
    (closed : s.checker.openMapping = false) (hl : s.checker.layout = some l) (outside : l.regionOf p = none) :
    s.lookup p = .unmapped := by
  simp only [State.lookup, if_neg (Nat.not_le.2 (show p < windowBase from below)), closed, hl, outside,
    Bool.false_eq_true, if_false]

/-! ### Programs and erases at the Region Checker -/

/-- The tests of R24 in their order, each with what a write refused by it comes to. -/
theorem writeRefusal_elim {α : Type} (s : State) (r : Region) (mask : Byte) (denied : ViolationKind) (pass : α)
    (drop : ViolationKind → α) : (s.writeRefusal r mask denied).elim pass drop =
      if r.boot = true ∧ s.response.causes ≠ 0 then drop denied
      else if s.checker.hideSet.getLsbD r.index then drop denied
      else if mask.getLsbD s.measure.stage.toNat = false then drop denied
      else if s.checker.freezeSet.getLsbD r.index then drop .frozen
      else if r.kind = .stage ∧ s.update.session.isStaging = false then drop denied
      else pass := by
  have boot : (r.boot && s.contained) = true ↔ r.boot = true ∧ s.response.causes ≠ 0 := by
    simp [State.contained, Response.latch]
  have stage : (!s.stageIn mask) = true ↔ mask.getLsbD s.measure.stage.toNat = false := by simp [State.stageIn, inSet]
  have staged : (r.kind == .stage && !s.update.session.isStaging) = true ↔
      r.kind = .stage ∧ s.update.session.isStaging = false := by simp
  simp only [State.writeRefusal, boot, stage, staged, State.hidden, inSet]
  repeat' split
  all_goals rfl

/-- A write allowed: deferred while an internal program or erase is in progress or suspended, else forwarded (01 R7 (3),
R11, R16). -/
theorem handWrite_eq (s : State) (w : SocWrite) : s.handWrite w =
    if s.arbiter.internalWriting then { s with arbiter := { s.arbiter with deferred := some w } }
    else { s with arbiter := { s.arbiter with grant := .socWrite w, bus := s.operationFrames w.flashOp w.op } } := rfl

/-- A PROGRAM in a region is dropped with the first test that fails, or allowed at its translated address (02 R24, R28). -/
theorem placeProgram_of_region {s : State} {p o : Nat} {r : Region} (h : s.lookup p = .region r o) (e : OpcodeEntry)
    (page : List (Option Byte)) : s.placeProgram e p page =
      (s.writeRefusal r r.programMask .programDenied).elim
        (s.handWrite ⟨.program, e.flashOp, s.physical r o, imageData page p⟩)
        (fun k => s.violate k .program p (some r.index)) := by
  rw [← translate_eq_physical]
  simp only [State.placeProgram, State.judgeProgram, h]
  cases s.writeRefusal r r.programMask .programDenied <;> rfl

/-- A PROGRAM in unmapped space is dropped (02 R28). -/
theorem placeProgram_of_unmapped {s : State} {p : Nat} (h : s.lookup p = .unmapped) (e : OpcodeEntry)
    (page : List (Option Byte)) : s.placeProgram e p page = s.violate .unmapped .program p none := by
  simp only [State.placeProgram, State.judgeProgram, h]

/-- An erase whose unit lies in one region is dropped with the first test that fails, or allowed at its unit's
translated base (02 R24, R29). -/
theorem placeErase_of_within {s : State} {p o size : Nat} {r : Region} (h : s.lookup p = .region r o) (e : OpcodeEntry)
    (within : r.base.getD 0 ≤ p / size * size ∧ p / size * size + size ≤ r.base.getD 0 + r.length) :
    s.placeErase e p size = (s.writeRefusal r r.eraseMask .eraseDenied).elim
      (s.handWrite ⟨e.cls, e.flashOp, s.physical r (o - (p - p / size * size)), []⟩)
      (fun k => s.violate k e.cls p (some r.index)) := by
  rw [← translate_eq_physical]
  simp only [State.placeErase, State.judgeErase, h, within, decide_true, Bool.and_true, if_true]
  cases s.writeRefusal r r.eraseMask .eraseDenied <;> rfl

/-- An erase whose unit reaches out of its region is dropped (02 R30). -/
theorem placeErase_of_across {s : State} {p o size : Nat} {r : Region} (h : s.lookup p = .region r o) (e : OpcodeEntry)
    (across : ¬(r.base.getD 0 ≤ p / size * size ∧ p / size * size + size ≤ r.base.getD 0 + r.length)) :
    s.placeErase e p size = s.violate .straddle e.cls p (some r.index) := by
  simp only [State.placeErase, State.judgeErase, h, ← Bool.decide_and, across, decide_false, Bool.false_eq_true, if_false]

/-- A unit lies below the window and touches no region of the layout in force (02 R29). -/
theorem unitUnmapped_iff {s : State} {l : Layout} (hl : s.checker.layout = some l) (u size : Nat) :
    s.unitUnmapped u size = true ↔
      u + size ≤ 0xFFF000 ∧ ∀ x ∈ l.presentedRanges, x.1 + x.2 ≤ u ∨ u + size ≤ x.1 := by
  simp only [State.unitUnmapped, hl, disjointRanges, Bool.and_eq_true, Bool.or_eq_true, decide_eq_true_eq,
    List.all_eq_true]
  exact Iff.rfl

/-- An erase at an unmapped address, the layout in force: UNMAPPED for a unit wholly unmapped, else STRADDLE (02 R30). -/
theorem placeErase_of_unmapped {s : State} {l : Layout} {p : Nat} (h : s.lookup p = .unmapped)
    (closed : s.checker.openMapping = false) (hl : s.checker.layout = some l) (e : OpcodeEntry) (size : Nat) :
    let u := p / size * size
    s.placeErase e p size =
      if u + size ≤ 0xFFF000 ∧ (∀ x ∈ l.presentedRanges, x.1 + x.2 ≤ u ∨ u + size ≤ x.1) then
        s.violate .unmapped e.cls p none
      else s.violate .straddle e.cls p none := by
  intro u
  simp only [State.placeErase, State.judgeErase, h, closed, Bool.false_eq_true, if_false]
  by_cases unit : s.unitUnmapped u size = true
  · rw [if_pos unit, if_pos ((unitUnmapped_iff hl u size).1 unit)]
  · rw [if_neg unit, if_neg (mt (unitUnmapped_iff hl u size).2 unit)]

end Sys2Proof.Machine

open Sys2Proof Sys2Proof.Machine

/-- Settles O24: the three classes' rows, by the latch and the busy indication. -/
theorem writesNeedTheLatchAndNoBusy : Obligations.WritesNeedTheLatchAndNoBusy := by
  refine ⟨busy_iff, fun s op received d e i c least row h => ?_⟩
  obtain ⟨incomplete, complete⟩ := write_rows row h
  refine ⟨incomplete, fun long clear => ?_, fun long latched busy => ?_⟩
  · obtain ⟨d', act, past, run⟩ := complete long
    exact ⟨d', past, by rw [run, judgeWrite_of_clear clear]⟩
  · obtain ⟨d', act, past, run⟩ := complete long
    refine ⟨d', past, ?_⟩
    rw [run, judgeWrite_of_busy latched busy]
    rfl

/-- Settles O25: a PROGRAM that reaches the Region Checker, by its region. -/
theorem programIsTestedThenForwarded : Obligations.ProgramIsTestedThenForwarded := by
  refine ⟨internalWriting_iff, ?_⟩
  intro s op received d e l p h long latched ready closed hl hp below n data
  subst hp
  obtain ⟨d', ended, run⟩ := programTransaction_of_complete h long
  rw [judgeWrite_of_ready latched ready] at run
  refine ⟨d', ended, congrArg Host.Outcome.next (run.trans ?_)⟩
  cases found : l.regionOf (beNat (received.take 3)) with
  | none => exact placeProgram_of_unmapped (s := s.ended d' false _) (lookup_of_outside below closed hl found) e _
  | some x =>
    obtain ⟨r, o⟩ := x
    refine (placeProgram_of_region (s := s.ended d' false _) (lookup_of_regionOf below closed hl found) e _).trans ?_
    rw [writeRefusal_elim, handWrite_eq]
    rfl

/-- Settles O27: an erase that reaches the Region Checker, by its unit. -/
theorem eraseIsPlacedByItsUnit : Obligations.EraseIsPlacedByItsUnit := by
  intro s op received d e l p i c size row h long latched ready closed hl hp below u
  subst hp
  obtain ⟨erases, d', ended, run⟩ := erase_rows row h long
  obtain ⟨_, _, _, _, rfl⟩ := h
  rw [judgeWrite_of_ready latched ready] at run
  refine ⟨d', ended, run.trans (congrArg Host.Outcome.next ?_)⟩
  generalize hpast : s.ended d' false (List.replicate received.length 0xFF) = past
  have closed' : past.checker.openMapping = false := by rw [← hpast]; exact closed
  have hl' : past.checker.layout = some l := by rw [← hpast]; exact hl
  cases found : l.regionOf (beNat (received.take 3)) with
  | none => exact placeErase_of_unmapped (lookup_of_outside below closed' hl' found) closed' hl' e size
  | some x =>
    obtain ⟨r, o⟩ := x
    have place := lookup_of_regionOf below closed' hl' found
    by_cases within : r.base.getD 0 ≤ u ∧ u + size ≤ r.base.getD 0 + r.length
    · refine (placeErase_of_within place e within).trans (Eq.trans ?_ (if_pos within).symm)
      rw [writeRefusal_elim, handWrite_eq, operationFrames_of_erase _ erases]
      subst hpast
      rfl
    · exact (placeErase_of_across place e within).trans (if_neg within).symm

end

section
namespace Sys2Proof.Machine

/-! ### The bytes of the control window -/

/-- The summary's two bytes: no event above bit 7 (03 section 3.9). -/
theorem bytes16_summary (w : Window) : bytes16 w.summary = [0, w.pendingEvents] := by
  have small : w.pendingEvents.toNat < 256 := w.pendingEvents.isLt
  have summary : w.summary.toNat = w.pendingEvents.toNat := by
    rw [Window.summary, BitVec.toNat_setWidth, Nat.mod_eq_of_lt (by omega)]
  have high : w.pendingEvents.toNat / 256 = 0 := Nat.div_eq_of_lt small
  simp [bytes16, beBytes, summary, high]

/-- A byte of the request or response area is the one that the header, the body and FFh after it give (03 R42). -/
theorem byteAt_eq_windowByte (s : State) (p : Nat) : s.window.byteAt p = s.windowByte p := by
  by_cases low : p < 0xFFF800
  · exact (if_pos low).trans (if_pos low).symm
  · refine (if_neg low).trans (Eq.trans ?_ (if_neg low).symm)
    rw [bytes16_summary]
    change _ = List.getD _ (p - responseBase) _
    generalize p - responseBase = o
    match o with
    | 0 => simp; cases s.window.engine <;> rfl
    | 1 => rfl
    | 2 => rfl
    | 3 => rfl
    | 4 => rfl
    | 5 => rfl
    | 6 => rfl
    | 7 => rfl
    | k + 8 =>
      have pastHeader : ¬k + 8 < 6 := by omega
      have pastEvents : ¬k + 8 < 8 := by omega
      simp [beBytes, pastHeader, pastEvents]

/-! ### Where a read's byte comes from -/

/-- Flash bytes can be fetched (01 R12, R15). -/
theorem fetches_iff (a : Arbiter) : a.fetches = true ↔
    (∀ w, a.grant ≠ .socWrite w) ∧ (a.suspended = none ∨ a.suspendDone = true) := by
  cases hg : a.grant <;> simp [Arbiter.fetches, hg]

/-- A run goes on at the address after its last byte, in the same region and image (01 R12). -/
theorem continues_iff (run : Option FlashRun) (region : Option Nat) (sub : Bool) (a : Nat) :
    FlashRun.continues run region sub a = true ↔ run = some { region := region, substituted := sub, next := a } := by
  cases run with
  | none => simp [FlashRun.continues]
  | some r => cases r; simp [FlashRun.continues, and_assoc]

/-- The next data byte, its source known. -/
theorem readDataByte_of_source {s : State} {d : Decode} {e : OpcodeEntry} (hp : s.powered = true)
    (hd : s.port.decode = some d) (hdata : d.phase = .data) (he : d.entry = some e)
    (hc : e.cls = .read ∨ e.cls = .fastRead) (misread : FlashCells) :
    (s.byteSource d.nextAddress = .window →
      exec (.readDataByte misread) s = .next (s.serve d (s.windowByte d.nextAddress) none)) ∧
    (∀ region sub a, s.byteSource d.nextAddress = .flash region sub a →
      exec (.readDataByte misread) s = .next (s.serveFlash d e misread region sub a)) ∧
    (∀ v, s.byteSource d.nextAddress = .fill v → exec (.readDataByte misread) s = .next (s.serveFill d e.cls v)) := by
  have run : exec (.readDataByte misread) s = .next (s.readDataByte misread) := by
    simp only [exec, execReadDataByte, State.whenPowered, hp, if_true]
  rw [run]
  refine ⟨fun h => ?_, fun region sub a h => ?_, fun v h => ?_⟩
  · simp only [State.readDataByte, hd, he, h, if_pos (And.intro hdata hc), byteAt_eq_windowByte]
  · simp only [State.readDataByte, hd, he, h, if_pos (And.intro hdata hc)]
  · simp only [State.readDataByte, hd, he, h, if_pos (And.intro hdata hc)]

/-- A byte of the control window (02 R18). -/
theorem byteSource_of_window {s : State} {p : Nat} (h : 0xFFF000 ≤ p) : s.byteSource p = .window := by
  simp only [State.byteSource, State.lookup, if_pos (show windowBase ≤ p from h)]

/-- A byte at an unmapped address (02 R25). -/
theorem byteSource_of_unmapped {s : State} {p : Nat} (h : s.lookup p = .unmapped) :
    s.byteSource p = .fill (some (.unmapped, none)) := by
  simp only [State.byteSource, h]

/-- Below the window under the factory open mapping (02 R35). -/
theorem byteSource_of_open {s : State} {p : Nat} (below : p < 0xFFF000) (opened : s.checker.openMapping = true) :
    s.byteSource p = if p < s.openEnd then .flash none false p else .fill (some (.unmapped, none)) := by
  have outside : ¬windowBase ≤ p := Nat.not_le.2 below
  by_cases low : p < s.openEnd <;> simp only [State.byteSource, State.lookup, if_neg outside, opened, low, if_true, if_false]

/-- The open range below the window ends where the area reserved to the device begins (02 R35). -/
theorem lt_openEnd_iff {s : State} {p : Nat} (below : p < 0xFFF000) : p < s.openEnd ↔ p < (match s.checker.layout with
    | some l => l.capacity.bytes
    | none => 16777216) - 262144 := by
  unfold State.openEnd
  rw [Nat.lt_min, and_iff_left (show p < windowBase from below)]
  cases s.checker.layout <;> exact Iff.rfl

/-- With no layout in FIELD everything below the window is unmapped (12 R174). -/
theorem lookup_of_no_layout {s : State} {p : Nat} (below : p < 0xFFF000) (closed : s.checker.openMapping = false)
    (hl : s.checker.layout = none) : s.lookup p = .unmapped := by
  simp only [State.lookup, if_neg (Nat.not_le.2 (show p < windowBase from below)), closed, hl, Bool.false_eq_true,
    if_false]

/-- A byte of a region: denied, of the recovery image while contained, or at its translated address (02 R24, R25, R32,
R33). -/
theorem byteSource_of_region {s : State} {p o : Nat} {r : Region} (h : s.lookup p = .region r o) : s.byteSource p =
      if s.checker.hideSet.getLsbD r.index = true ∨ r.readMask.getLsbD s.measure.stage.toNat = false then
        .fill (some (.readDenied, some r.index))
      else if r.boot = true ∧ s.response.causes ≠ 0 then s.substitutedByte r o
      else .flash (some r.index) false (s.physical r o) := by
  have allowed : s.readAllowed r = true ↔
      ¬(s.checker.hideSet.getLsbD r.index = true ∨ r.readMask.getLsbD s.measure.stage.toNat = false) := by
    simp [State.readAllowed, State.hidden, State.stageIn, inSet]
  have contained : (r.boot && s.contained) = true ↔ r.boot = true ∧ s.response.causes ≠ 0 := by
    simp [State.contained, Response.latch]
  simp only [State.byteSource, h, allowed, contained, translate_eq_physical, ite_not]

/-- The recovery image's byte in place of the boot-flagged region's (02 R32, R33). -/
theorem substitutedByte_of_recovery {s : State} {l : Layout} {rec : Region} (hl : s.checker.layout = some l)
    (hr : l.recovery = some rec) (r : Region) (o : Nat) : s.substitutedByte r o =
      if o < rec.length then
        (if s.checker.hideSet.getLsbD rec.index then .fill (some (.readDenied, some r.index))
         else .flash (some r.index) true (rec.physA.getD 0 + o))
      else .fill none := by
  simp only [State.substitutedByte, hl, Option.bind, hr]
  rfl

/-- With no RECOVERY region there is no byte in its place. -/
theorem substitutedByte_of_none {s : State} {l : Layout} (hl : s.checker.layout = some l) (hr : l.recovery = none)
    (r : Region) (o : Nat) : s.substitutedByte r o = .fill none := by
  simp only [State.substitutedByte, hl, Option.bind, hr]

/-- A flash byte that cannot be fetched reads FFh, and the run is over (01 R12, R15). -/
theorem serveFlash_of_blocked {s : State} (blocked : ¬s.arbiter.fetches = true) (d : Decode) (e : OpcodeEntry)
    (misread : FlashCells) (region : Option Nat) (sub : Bool) (a : Nat) :
    s.serveFlash d e misread region sub a = s.serve d 0xFF none := if_neg blocked

/-- A flash byte of a run that goes on (01 R12). -/
theorem serveFlash_of_run {s : State} (fetches : s.arbiter.fetches = true) {d : Decode} {region : Option Nat} {sub : Bool}
    {a : Nat} (run : d.run = some { region := region, substituted := sub, next := a }) (e : OpcodeEntry)
    (misread : FlashCells) : s.serveFlash d e misread region sub a =
      s.serve d (s.flash.readThrough misread a) (some { region := region, substituted := sub, next := a + 1 }) := by
  simp only [State.serveFlash, fetches, (continues_iff _ _ _ _).2 run, if_true]

/-- A flash byte that begins a new flash-side read (01 R12). -/
theorem serveFlash_of_new {s : State} (fetches : s.arbiter.fetches = true) {d : Decode} {region : Option Nat} {sub : Bool}
    {a : Nat} (new : ¬d.run = some { region := region, substituted := sub, next := a }) (e : OpcodeEntry)
    (misread : FlashCells) : s.serveFlash d e misread region sub a =
      { s.serve d (s.flash.readThrough misread a) (some { region := region, substituted := sub, next := a + 1 }) with
        arbiter := { s.arbiter with bus := [readFrame e a] } } := by
  simp only [State.serveFlash, fetches, mt (continues_iff _ _ _ _).1 new, if_true]
  rfl

/-- The first fill byte that is denied or unmapped records the read's violation, no later one does (02 R26). -/
theorem serveFill_of_denied (s : State) (d : Decode) (c : OpClass) (kind : ViolationKind) (region : Option Nat) :
    s.serveFill d c (some (kind, region)) =
      if d.violated then s.serve { d with violated := true } 0xFF none
      else (s.serve { d with violated := true } 0xFF none).violate kind c d.nextAddress region := by
  cases before : d.violated
  · simp [State.serveFill, before]
  · have same : { d with violated := true } = d := by rw [← before]
    simp [State.serveFill, before, same]

end Sys2Proof.Machine

open Sys2Proof Sys2Proof.Machine

/-- Settles O19: by the source of the byte. -/
theorem readDataByteComesFromItsSource : Obligations.ReadDataByteComesFromItsSource := by
  intro s misread d e p hp hd hdata he hc hpe next flashByte denied
  obtain rfl : p = d.nextAddress := hpe
  obtain ⟨ofWindow, ofFlash, ofFill⟩ := readDataByte_of_source hp hd hdata he hc misread
  have flash (region : Option Nat) (sub : Bool) (a : Nat) :
      s.serveFlash d e misread region sub a = flashByte region sub a := by
    have fetch : s.arbiter.fetches = true ↔ (match s.arbiter.grant with
        | .socWrite _ => true
        | _ => false) = false ∧ (s.arbiter.suspended = none ∨ s.arbiter.suspendDone = true) := by
      rw [fetches_iff]
      cases s.arbiter.grant <;> simp
    by_cases fetches : s.arbiter.fetches = true
    · refine Eq.trans ?_ (if_pos (fetch.1 fetches)).symm
      by_cases run : d.run = some { region := region, substituted := sub, next := a }
      · exact (serveFlash_of_run fetches run e misread).trans (if_pos run).symm
      · exact (serveFlash_of_new fetches run e misread).trans (if_neg run).symm
    · exact (serveFlash_of_blocked fetches d e misread region sub a).trans (if_neg (mt fetch.2 fetches)).symm
  have fill (kind : ViolationKind) (region : Option Nat) (h : s.byteSource d.nextAddress = .fill (some (kind, region))) :
      exec (.readDataByte misread) s = .next (denied kind region) := by
    rw [ofFill _ h, serveFill_of_denied]
    rfl
  refine ⟨fun high => ofWindow (byteSource_of_window high), fun below opened => ?_, fun below closed hl =>
    fill _ _ (byteSource_of_unmapped (lookup_of_no_layout below closed hl)), fun l below closed hl => ?_⟩
  · have source := byteSource_of_open below opened
    intro capacity
    by_cases low : d.nextAddress < capacity - 262144
    · rw [if_pos ((lt_openEnd_iff below).2 low)] at source
      rw [if_pos low, ofFlash _ _ _ source, flash]
    · rw [if_neg (mt (lt_openEnd_iff below).1 low)] at source
      rw [if_neg low, fill _ _ source]
  · cases found : l.regionOf d.nextAddress with
    | none => exact fill _ _ (byteSource_of_unmapped (lookup_of_outside below closed hl found))
    | some x =>
      obtain ⟨r, o⟩ := x
      have source := byteSource_of_region (lookup_of_regionOf below closed hl found)
      dsimp only
      split
      · next hidden => exact fill _ _ (source.trans (if_pos hidden))
      · next shown =>
        rw [if_neg shown] at source
        split
        · next contained =>
          rw [if_pos contained] at source
          cases hr : l.recovery with
          | none => exact ofFill _ (source.trans (substitutedByte_of_none hl hr r o))
          | some rec =>
            rw [substitutedByte_of_recovery hl hr] at source
            dsimp only
            split
            · next inside =>
              rw [if_pos inside] at source
              split
              · next hidden => exact fill _ _ (source.trans (if_pos hidden))
              · next shown => rw [ofFlash _ _ _ (source.trans (if_neg shown)), flash]
            · next past => exact ofFill _ (source.trans (if_neg past))
        · next free =>
          rw [if_neg free] at source
          rw [ofFlash _ _ _ source, flash]

end

section
namespace Sys2Proof.Machine

/-! ### The internal grant -/

/-- When an internal requester may be granted the Flash Port (01 R13). -/
theorem mayGrant_iff (s : State) : s.mayGrant = true ↔ s.arbiter.grant = .free ∧ s.port.decode = none ∧
    s.arbiter.suspended = none ∧ s.arbiter.deferred = none := by
  simp [State.mayGrant, and_assoc]

/-- An open Flash Port goes to the request of the highest priority (01 R13). -/
theorem internalGrant_of_request {s : State} {r : Requester} {op : FlashOp} (hp : s.powered = true)
    (open_ : s.mayGrant = true) (next : s.arbiter.nextRequest = some (r, op)) :
    exec .internalGrant s = .next { s with arbiter := { s.arbiter with
      grant := .internal r op, bus := s.operationFrames (s.flashOp op.cls) op } } := by
  simp only [exec, execInternalGrant, State.whenPowered, hp, open_, next, if_true]

/-- With the Flash Port not open, or nothing asked for, nothing is granted (01 R13). -/
theorem internalGrant_of_nothing {s : State} (hp : s.powered = true)
    (nothing : ¬s.mayGrant = true ∨ s.arbiter.nextRequest = none) : exec .internalGrant s = .next s := by
  rcases nothing with closed | none
  · simp only [exec, execInternalGrant, State.whenPowered, hp, if_true, if_neg closed]
  · simp only [exec, execInternalGrant, State.whenPowered, hp, none, ite_self]

/-! ### What a flash operation changes -/

/-- The addresses of an erase unit. -/
theorem unit_iff {size : Nat} (pos : 0 < size) (a base : Nat) :
    a / size = base / size ↔ base / size * size ≤ a ∧ a < base / size * size + size := by
  rw [Nat.div_eq_iff pos]
  omega

/-- An erase of the unit of an address (01 R11). -/
theorem read_erase_unit {size : Nat} (pos : 0 < size) (m : Memory) (base a : Nat) :
    (m.erase (base / size * size) size).read a = if a / size = base / size then blankByte else m.read a := by
  rw [Memory.read_erase]
  exact ite_congr (propext (unit_iff pos a base).symm) (fun _ => rfl) (fun _ => rfl)

/-- A program from position `k` of page `page` on clears bits of its own bytes (09 R146); at most a page's bytes, none is
programmed twice. -/
theorem read_programBytes (page : Nat) (m : Memory) (k : Nat) (bs : Bytes) (wf : m.wf = true) (short : bs.length ≤ 256)
    (a : Nat) : (programBytes (page * 256) m k bs).read a =
      if a / 256 = page ∧ (a + 256 - k % 256) % 256 < bs.length then
        m.read a &&& bs.getD ((a + 256 - k % 256) % 256) 0xFF
      else m.read a := by
  induction bs generalizing m k with
  | nil => simp [programBytes]
  | cons v vs ih =>
    simp only [List.length_cons] at short
    simp only [programBytes, List.length_cons]
    rw [ih _ _ (Memory.write_wf m _ _ wf) (by omega)]
    by_cases here : a = page * 256 + k % 256
    · have first : (a + 256 - k % 256) % 256 = 0 := by omega
      have after : (a + 256 - (k + 1) % 256) % 256 = 255 := by omega
      rw [if_neg (by omega), if_pos (by omega), first, here, Memory.read_write_same m 0 _ _ wf]
      rfl
    · rw [Memory.read_write_other m _ a _ (Ne.symm here)]
      by_cases inPage : a / 256 = page
      · have later : (a + 256 - k % 256) % 256 = (a + 256 - (k + 1) % 256) % 256 + 1 := by omega
        simp only [inPage, true_and, later, Nat.add_lt_add_iff_right, List.getD_cons_succ]
      · simp only [inPage, false_and, if_false]

/-- A program leaves every byte that is none of its own (09 R146). -/
theorem read_programBytes_outside (page : Nat) (m : Memory) (k : Nat) (bs : Bytes) (a : Nat)
    (outside : ∀ j, j < bs.length → page + (k + j) % 256 ≠ a) : (programBytes page m k bs).read a = m.read a := by
  induction bs generalizing m k with
  | nil => rfl
  | cons v vs ih =>
    simp only [programBytes]
    have first : page + k % 256 ≠ a := outside 0 (Nat.zero_lt_succ _)
    rw [ih, Memory.read_write_other _ _ _ _ first]
    intro j hj
    rw [Nat.add_assoc, Nat.add_comm 1 j]
    exact outside (j + 1) (Nat.succ_lt_succ hj)

/-- The bytes of a program: those of its page from its address on, wrapping (02 R27). -/
theorem touches_program_iff (base : Nat) (data : Bytes) (a : Nat) : (FlashOp.program base data).touches a = true ↔
    a / 256 = base / 256 ∧ (a + 256 - base % 256) % 256 < data.length := by
  have page : pageBase a = pageBase base ↔ a / 256 = base / 256 := by unfold pageBase; omega
  simp [FlashOp.touches, page]

/-- A completed operation leaves every byte outside its unit or bytes (01 R11). -/
theorem read_apply_outside {op : FlashOp} {a : Nat} (outside : op.touches a = false) (m : Memory) :
    (op.apply m).read a = m.read a := by
  cases op with
  | read base n => rfl
  | program base data =>
    refine read_programBytes_outside _ m _ data a fun j hj here => ?_
    have mine : (FlashOp.program base data).touches a = true := by
      rw [touches_program_iff]
      unfold pageBase at here
      have wrapped : (a + 256 - base % 256) % 256 = j % 256 := by omega
      exact ⟨by omega, by omega⟩
    rw [mine] at outside
    cases outside
  | erase4k base => exact (read_erase_unit (by decide) m base a).trans (if_neg (of_decide_eq_false outside))
  | erase64k base => exact (read_erase_unit (by decide) m base a).trans (if_neg (of_decide_eq_false outside))

/-- An operation that the chip carries out otherwise changes no byte outside its unit or bytes either. -/
theorem read_operated_outside {op : FlashOp} {a : Nat} (outside : op.touches a = false) (s : State) (failed : FlashCells) :
    (s.operated op failed).read a = s.flash.read a :=
  (Memory.read_patch_outside _ _ failed a outside).trans (read_apply_outside outside s.flash)

/-- A program carried out as it should be (02 R27, 09 R146). -/
theorem read_operated_program {s : State} {data : Bytes} (short : data.length ≤ 256) (wf : s.flash.wf = true)
    (base a : Nat) : (s.operated (.program base data) []).read a =
      if a / 256 = base / 256 ∧ (a + 256 - base % 256) % 256 < data.length then
        s.flash.read a &&& data.getD ((a + 256 - base % 256) % 256) 0xFF
      else s.flash.read a := by
  have := read_programBytes (base / 256) s.flash (base % 256) data wf short a
  rwa [Nat.mod_mod] at this

/-! ### The completion of an operation -/

/-- A forwarded SoC write completes (01 R11). -/
theorem flashOperationComplete_of_socWrite {s : State} {w : SocWrite} (hp : s.powered = true)
    (hg : s.arbiter.grant = .socWrite w) (failed : FlashCells) :
    exec (.flashOperationComplete failed) s = .next (s.socWriteDone w failed) := by
  simp only [exec, execFlashOperationComplete, State.whenPowered, hp, hg, if_true]

/-- An internal program or erase completes (01 R13). -/
theorem flashOperationComplete_of_internal {s : State} {r : Requester} {op : FlashOp} (hp : s.powered = true)
    (hg : s.arbiter.grant = .internal r op) (writes : op.writes) (failed : FlashCells) :
    exec (.flashOperationComplete failed) s = .next (s.internalDone r op failed) := by
  cases op with
  | read base n => exact absurd rfl (writes base n)
  | program base data => simp only [exec, execFlashOperationComplete, State.whenPowered, hp, hg, if_true]
  | erase4k base => simp only [exec, execFlashOperationComplete, State.whenPowered, hp, hg, if_true]
  | erase64k base => simp only [exec, execFlashOperationComplete, State.whenPowered, hp, hg, if_true]

/-- `t` has the flash and the Flash Port Arbiter of `s`, but for what the Journal Store asks for. -/
def AsksOnly (s t : State) : Prop := t.flash = s.flash ∧ ∃ asked, t.arbiter = { s.arbiter with journal := asked }

theorem goTo_asksOnly (s : State) (job : Job) (st : JobStep) (op : FlashOp) : AsksOnly s (s.goTo job st op) :=
  ⟨rfl, some op, rfl⟩

theorem programNext_asksOnly (s : State) (job : Job) (k : WriteKind) (w : Writing) (pages : List (Nat × Bytes)) :
    AsksOnly s (s.programNext job k w pages) := by
  cases pages <;> exact goTo_asksOnly _ _ _ _

theorem copyNext_asksOnly (s : State) (job : Job) (todo copied : List IndexRecord) :
    AsksOnly s (s.copyNext job todo copied) := by
  cases todo
  · exact programNext_asksOnly _ _ _ _ _
  · exact goTo_asksOnly _ _ _ _

/-- The Journal Store goes on after its program or erase: it asks for its next operation, if there is one (06 R91, R93). -/
theorem journalOpDone_asksOnly (s : State) : AsksOnly s s.journalOpDone := by
  have stays : AsksOnly s s := ⟨rfl, s.arbiter.journal, rfl⟩
  unfold State.journalOpDone
  cases s.journal.job with
  | none => exact stays
  | some job =>
    cases step : job.step with
    | programming k w pages => simpa only [step] using programNext_asksOnly _ _ _ _ _
    | spoiling w final => simpa only [step] using goTo_asksOnly _ _ _ _
    | erasing second =>
      cases second
      · simpa only [step] using goTo_asksOnly _ _ _ _
      · simpa only [step] using copyNext_asksOnly _ _ _ _
    | readingBack k w got => simpa only [step] using stays
    | spoilReading w final => simpa only [step] using stays
    | copyReading source rest copied got => simpa only [step] using stays
    | anchorWriting => simpa only [step] using stays

/-- The deferred write, if any, takes the Flash Port after an internal program or erase (01 R16). -/
def grantAfterInternal (deferred : Option SocWrite) : Grant :=
  match deferred with
  | some w => .socWrite w
  | none => .free

/-- An internal program or erase has changed the flash, and the Flash Port has gone to the deferred write or to nobody. -/
def State.handedOn (s : State) (r : Requester) (op : FlashOp) (failed : FlashCells) : State :=
  { s with
    flash := s.operated op failed
    arbiter := { s.arbiter.setRequest r none with
      grant := grantAfterInternal s.arbiter.deferred
      deferred := none
      bus := match s.arbiter.deferred with
        | some w => s.operationFrames w.flashOp w.op
        | none => (s.arbiter.setRequest r none).bus } }

/-- Then the Journal Store goes on, where the operation was its own (01 R13, R16). -/
theorem internalDone_eq (s : State) (r : Requester) (op : FlashOp) (failed : FlashCells) :
    s.internalDone r op failed =
      if r = .journal then (s.handedOn r op failed).journalOpDone else s.handedOn r op failed := by
  cases hw : s.arbiter.deferred <;> cases r <;> simp only [State.internalDone, State.handedOn, hw] <;> rfl

/-- An internal program or erase that completes has changed the flash, and leaves the grant to the deferred write or FREE
(01 R13, R16). -/
theorem internalDone_leaves (s : State) (r : Requester) (op : FlashOp) (failed : FlashCells) :
    (s.internalDone r op failed).flash = s.operated op failed ∧
      (s.internalDone r op failed).arbiter.grant = grantAfterInternal s.arbiter.deferred ∧
      (s.internalDone r op failed).arbiter.deferred = none := by
  rw [internalDone_eq]
  split
  · obtain ⟨flash, asked, arbiter⟩ := journalOpDone_asksOnly (s.handedOn r op failed)
    rw [flash, arbiter]
    exact ⟨rfl, rfl, rfl⟩
  · exact ⟨rfl, rfl, rfl⟩

/-! ### Read chunks -/

/-- As many bytes come as were asked for. -/
theorem readBytesThrough_length (m : Memory) (misread : FlashCells) (a n : Nat) :
    (m.readBytesThrough misread a n).length = n := by simp [Memory.readBytesThrough]

/-- A read chunk of the Measurement Unit completes (01 R13). -/
theorem readChunkComplete_of_measure {s : State} {base n : Nat} (hp : s.powered = true)
    (hg : s.arbiter.grant = .internal .measure (.read base n)) (misread : FlashCells) :
    exec (.readChunkComplete misread) s =
      .next ((s.chunkDone .measure).measureChunk (s.flash.readBytesThrough misread base n)) := by
  simp [exec, execReadChunkComplete, State.whenPowered, hp, Arbiter.chunk, hg]

/-- A read chunk of the Update Controller completes (01 R13). -/
theorem readChunkComplete_of_update {s : State} {base n : Nat} (hp : s.powered = true)
    (hg : s.arbiter.grant = .internal .update (.read base n)) (misread : FlashCells) :
    exec (.readChunkComplete misread) s =
      .next ((s.chunkDone .update).verifyChunk (s.flash.readBytesThrough misread base n)) := by
  simp [exec, execReadChunkComplete, State.whenPowered, hp, Arbiter.chunk, hg]

/-- A withdrawn read chunk completes: its bytes go to nobody (01 R17). -/
theorem readChunkComplete_of_withdrawn {s : State} {r : Requester} {base n : Nat} (hp : s.powered = true)
    (hg : s.arbiter.grant = .internalWithdrawn r base n) (misread : FlashCells) :
    exec (.readChunkComplete misread) s = .next { s with arbiter := { s.arbiter with grant := .free } } := by
  simp [exec, execReadChunkComplete, State.whenPowered, hp, Arbiter.chunk, hg, State.withdrawnDone]

/-- A chunk before the last of a region feeds the measurement, and the next is asked for (05 R70). -/
theorem measureChunk_of_more {s : State} {m : Measuring} {bs : Bytes} (hm : s.measure.current = some m)
    (more : m.fed.length + bs.length < m.length) :
    s.measureChunk bs = State.askFlash
      { s with measure := { s.measure with current := some { m with fed := m.fed ++ bs } } } .measure
      (nextChunk m.base m.length (m.fed.length + bs.length)) := by
  simp only [State.measureChunk, hm, List.length_append, if_pos more]

/-- A chunk before the last of a target feeds the verification, and the next is asked for (09 R147). -/
theorem verifyChunk_of_more {s : State} {m : Manifest} {tg : Target} {rest : List Target} {fed bs : Bytes} {hashed : Nat}
    (hs : s.update.session = .verifying m { todo := tg :: rest, fed := fed } hashed)
    (more : fed.length + bs.length < tg.length) :
    s.verifyChunk bs = State.askFlash
      { s with update := { s.update with
          session := .verifying m { todo := tg :: rest, fed := fed ++ bs } (hashed + bs.length) } }
      .update (nextChunk (s.stagedBase tg.region) tg.length (fed.length + bs.length)) := by
  simp only [State.verifyChunk, hs, List.length_append, if_pos more, targetBase_eq]

end Sys2Proof.Machine

open Sys2Proof Sys2Proof.Machine

/-- Settles O31: the order of the requesters. -/
theorem internalGrantFollowsItsOrder : Obligations.InternalGrantFollowsItsOrder := by
  intro s hp open_ granted
  have order : open_ ↔ s.mayGrant = true := (mayGrant_iff s).symm
  refine ⟨fun o op hj => ?_, fun o hj op hm => ?_, fun o hj hm op hu => ?_, fun nothing => ?_⟩
  · exact internalGrant_of_request hp (order.1 o) (by simp only [Arbiter.nextRequest, hj])
  · exact internalGrant_of_request hp (order.1 o) (by simp only [Arbiter.nextRequest, hj, hm])
  · exact internalGrant_of_request hp (order.1 o) (by simp only [Arbiter.nextRequest, hj, hm, hu, Option.map])
  · refine internalGrant_of_nothing hp (nothing.imp (mt order.2) fun ⟨hj, hm, hu⟩ => ?_)
    simp only [Arbiter.nextRequest, hj, hm, hu, Option.map]

/-- Settles O32: what each operation changes, and to whom the grant goes. -/
theorem flashOperationChangesItsBytes : Obligations.FlashOperationChangesItsBytes := by
  refine ⟨fun s w hp hg => ?_, fun s r op hp hg writes => ?_, fun base a => ⟨fun n => rfl,
    fun data => touches_program_iff base data a, decide_eq_true_iff, decide_eq_true_iff⟩,
    fun s op failed hp writes running => ?_, fun s w op failed hp hg writes hw => ?_⟩
  · refine ⟨_, flashOperationComplete_of_socWrite hp hg [], rfl, fun hc a => ?_, fun hc a => ?_, fun hc short wf a => ?_⟩ <;>
      simp only [State.socWriteDone, SocWrite.op, hc]
    · exact read_erase_unit (by decide) s.flash w.address a
    · exact read_erase_unit (by decide) s.flash w.address a
    · exact read_operated_program short wf w.address a
  · obtain ⟨flash, grant, _⟩ := internalDone_leaves s r op []
    refine ⟨_, flashOperationComplete_of_internal hp hg writes [], ?_, ?_, ?_, fun none => by rw [grant, none]; rfl⟩
    · rintro base rfl a
      rw [flash]
      exact read_erase_unit (by decide) s.flash base a
    · rintro base rfl a
      rw [flash]
      exact read_erase_unit (by decide) s.flash base a
    · rintro base data rfl short wf a
      rw [flash]
      exact read_operated_program short wf base a
  · rcases running with ⟨w, hg, rfl⟩ | ⟨r, hg⟩
    · exact ⟨_, flashOperationComplete_of_socWrite hp hg failed, fun a outside => read_operated_outside outside s failed⟩
    · refine ⟨_, flashOperationComplete_of_internal hp hg writes failed, fun a outside => ?_⟩
      rw [(internalDone_leaves s r op failed).1]
      exact read_operated_outside outside s failed
  · obtain ⟨_, grant, deferred⟩ := internalDone_leaves s .journal op failed
    rw [hw] at grant
    exact ⟨_, flashOperationComplete_of_internal hp hg writes failed, grant, deferred,
      (busy_iff _).2 (.inl ⟨w, grant⟩)⟩

/-- Settles O33: the chunks of a measurement, of a verification and of nobody. -/
theorem readChunkFeedsTheDigest : Obligations.ReadChunkFeedsTheDigest := by
  intro s misread base n hp bytes
  have len : bytes.length = n := readBytesThrough_length _ _ _ _
  refine ⟨fun m hg hm more => ?_, fun r hg => readChunkComplete_of_withdrawn hp hg misread,
    fun mf tg rest fed hashed hg hs more => ?_⟩
  · rw [readChunkComplete_of_measure hp hg, measureChunk_of_more (s := s.chunkDone .measure) hm (by rw [len]; exact more), len]
    rfl
  · rw [readChunkComplete_of_update hp hg, verifyChunk_of_more (s := s.chunkDone .update) hs (by rw [len]; exact more), len]
    rfl

end

section
namespace Sys2Proof.Machine

/-! ### Store requests -/

/-- A request made of a purpose is of that purpose. -/
theorem makeRequest_purpose (s : State) (p : Purpose) (live : Bool) : (s.makeRequest p live).purpose = p := by
  cases p with
  | provisionLayout l =>
    simp only [State.makeRequest]
    split <;> rfl
  | _ => rfl

/-- The held requests placed or held again are the ones asked for, beside those there were (06 R90). -/
theorem placeHeld_anyRequest (s : State) (hs : List HeldRequest) (f : Purpose → Bool) :
    (State.placeHeld s hs).journal.anyRequest f = (s.journal.anyRequest f || hs.any (fun h => f h.purpose)) := by
  induction hs generalizing s with
  | nil => simp [State.placeHeld]
  | cons h rest ih =>
    simp only [State.placeHeld, ih, List.any_cons, ← Bool.or_assoc]
    congr 1
    split <;> simp only [Journal.anyRequest, List.any_append, List.any_cons, List.any_nil, Bool.or_false,
      makeRequest_purpose] <;> ac_rfl

/-- Placing a request loses none (06 R90). -/
theorem place_anyRequest (s : State) (p : Purpose) (live : Bool) (f : Purpose → Bool) :
    (s.place p live).journal.anyRequest f = (s.journal.anyRequest f || f p) := by
  rw [State.place, State.pumpRequests, placeHeld_anyRequest]
  simp only [Journal.anyRequest, List.any_nil, List.any_append, List.any_cons, Bool.or_false, Bool.false_or]
  ac_rfl

/-- Placing a request changes the Journal Store alone (06 R90). -/
theorem place_eq_journal (s : State) (p : Purpose) (live : Bool) :
    s.place p live = { s with journal := (s.place p live).journal } := by
  obtain ⟨queue, held, placed⟩ := place_eq s p live
  rw [placed]
  rfl

/-- The requests placed do not depend on the Reset Controller's own state. -/
theorem placeHeld_withRst (s : State) (r : ResetController) (hs : List HeldRequest) :
    State.placeHeld { s with rst := r } hs = { State.placeHeld s hs with rst := r } := by
  induction hs generalizing s with
  | nil => rfl
  | cons h rest ih =>
    simp only [State.placeHeld]
    split
    · exact ih { s with journal := { s.journal with held := s.journal.held ++ [h] } }
    · exact ih { s with journal := { s.journal with queue := s.journal.queue ++ [s.makeRequest h.purpose h.live] } }

/-- A request placed does not depend on the Reset Controller's own state. -/
theorem place_withRst (s : State) (r : ResetController) (p : Purpose) (live : Bool) :
    State.place { s with rst := r } p live = { s.place p live with rst := r } :=
  placeHeld_withRst { s with journal := { s.journal with held := [] } } r _

/-- Requests that nothing waits for any more are still asked for (03 R48). -/
theorem orphan_anyRequest (j : Journal) (f : Purpose → Bool) : j.orphan.anyRequest f = j.anyRequest f := by
  simp only [Journal.anyRequest, Journal.orphan, List.any_map]
  cases j.job <;> rfl

/-! ### Reset causes -/

/-- A cause recorded: the last cause, and its count one up to 65535 (04 R56). -/
theorem recordCause_eq (r : ResetController) (c : ResetCause) (k : Fin 6) (hk : c.index = k) :
    r.recordCause c = { r with
      lastCause := c, counts := r.counts.set k (if r.counts[k] = 65535 then 65535 else r.counts[k] + 1) } := by
  have count : r.count c = r.counts[k] := by simp [ResetController.count, hk]
  have inBounds (x : Word16) : r.counts.setIfInBounds k x = r.counts.set k x := by
    apply Vector.ext
    intro i hi
    simp [Vector.getElem_setIfInBounds, Vector.getElem_set]
  simp only [ResetController.recordCause, count, hk, inBounds, bump_eq]

/-- REQUEST is entered and recorded (04 R60). -/
theorem enterRequest_eq (s : State) : s.enterRequest = { s with rst := { s.rst with
    state := .request, lastCause := .request, pulse := none, pulseWait := false
    counts := s.rst.counts.set 1 (if s.rst.counts[1] = 65535 then 65535 else s.rst.counts[1] + 1) } } := by
  simp only [State.enterRequest, State.recordCause, recordCause_eq _ .request 1 rfl]
  rfl

/-! ### The abandoned check and the SoC reset -/

/-- The grant of a read chunk that the Measurement Unit withdraws is kept for nobody (01 R17). -/
theorem withdrawn_measure (g : Grant) : g.withdrawn .measure = (match g with
    | .internal .measure (.read a n) => .internalWithdrawn .measure a n
    | g => g) := by
  cases g with
  | internal r op => cases r <;> cases op <;> rfl
  | _ => rfl

/-- An abandoned check: the Measurement Unit withdraws its chunk, and nothing waits for the requests (04 R58, 05 R78). -/
theorem abandonCheck_eq (s : State) : s.abandonCheck = { s with
    rst := { s.rst with check := .idle }
    measure := { s.measure with current := none }
    arbiter := { s.arbiter with measure := none, grant := s.arbiter.grant.withdrawn .measure }
    journal := s.journal.unheeded } := rfl

/-- An abandoned session loses no request. -/
theorem abandonSession_anyRequest (s : State) (f : Purpose → Bool) (h : s.journal.anyRequest f = true) :
    s.abandonSession.journal.anyRequest f = true := by
  simp only [State.abandonSession]
  split
  · rw [place_anyRequest, Bool.or_eq_true]
    exact .inl h
  · exact h

/-- The assertion of SOC_RST loses no request (03 R48). -/
theorem assertReset_anyRequest (s : State) (f : Purpose → Bool) (h : s.journal.anyRequest f = true) :
    s.assertReset.journal.anyRequest f = true :=
  abandonSession_anyRequest _ f ((orphan_anyRequest s.journal f).trans h)

/-- The assertion of SOC_RST leaves the lines and the Reset Controller's own state (04 R55). -/
theorem assertReset_keeps (s : State) : s.assertReset.lines = s.lines ∧ s.assertReset.rst = s.rst := by
  obtain ⟨j, abandoned, _⟩ := abandonSession_eq { s.dropTransaction.withdraw .measure with
    window := s.window.socReset
    checker := s.checker.socReset s.stageRegions (!s.isField)
    measure := { s.measure with mismatches := 0, advance := none, current := none }
    signature := none
    creds := { s.creds with grant := none }
    update := { s.update with running := false, timer := none }
    response := { s.response with fired := 0 }
    journal := s.journal.orphan }
  have reset : s.assertReset = _ := abandoned
  rw [reset]
  exact ⟨rfl, rfl⟩

/-- A SoC reset does not look at the lines, the Reset Controller's own state or the owner grant, and says nothing of the
Reset Controller's state after it. -/
theorem SocResetDone.of_other {s t : State} {lines : Lines} {rst : ResetController} {grant : Option Timer}
    (h : SocResetDone { s with lines := lines, rst := rst, creds := { s.creds with grant := grant } } t)
    (rst' : ResetController) : SocResetDone s { t with rst := rst' } := { h with }

/-- A pulse of 20 ms entered at the moment of the SoC reset (04 R61). -/
theorem assertReset_enterPulse_rst (s : State) (wait : Bool) : (s.assertReset.enterPulse wait).rst =
    { s.rst with state := .pulse, pulse := some { start := s.time.clock, span := 20 }, pulseWait := wait } := by
  have time : s.assertReset.time = s.time := (assertReset_done s).time
  simp only [State.enterPulse_rst, (assertReset_keeps s).2, State.timer, time]
  rfl

/-- A device-driven pulse records its cause and resets the SoC (04 R61). -/
theorem startPulse_done (s : State) (c : ResetCause) (k : Fin 6) (hk : c.index = k) :
    (s.startPulse c).rst = { s.rst with
      state := .pulse, lastCause := c, pulse := some { start := s.time.clock, span := 20 }, pulseWait := false
      counts := s.rst.counts.set k (if s.rst.counts[k] = 65535 then 65535 else s.rst.counts[k] + 1) } ∧
    SocResetDone s (s.startPulse c) := by
  refine ⟨?_, SocResetDone.of_other (assertReset_done (s.recordCause c)) _⟩
  rw [State.startPulse, assertReset_enterPulse_rst, State.recordCause_rst, recordCause_eq _ c k hk]
  rfl

/-! ### The owner reset -/

/-- The owner reset as it is recorded: in FIELD the epoch request made and the grant cleared (04 R62, 08 R139). -/
def State.ownerRecorded (s : State) : State :=
  { s with
    rst := { s.rst with
      lastCause := .ownerReset, hold := none
      counts := s.rst.counts.set 4 (if s.rst.counts[4] = 65535 then 65535 else s.rst.counts[4] + 1) }
    creds := { s.creds with grant := if s.isField then none else s.creds.grant }
    journal := (if s.isField then s.place .ownerEpoch false else s).journal }

/-- What becomes of a recorded owner reset in each state (04 R62). -/
theorem ownerReset_eq (s : State) : s.ownerReset = (match s.rst.state with
    | .run => s.ownerRecorded.assertReset.enterPulse s.isField
    | .check => s.ownerRecorded.abandonCheck.enterPulse s.isField
    | _ => s.ownerRecorded) := by
  have recorded : State.recordCause { s with rst := { s.rst with hold := none } } .ownerReset = { s with rst := { s.rst with
      lastCause := .ownerReset, hold := none
      counts := s.rst.counts.set 4 (if s.rst.counts[4] = 65535 then 65535 else s.rst.counts[4] + 1) } } := by
    simp only [State.recordCause, recordCause_eq _ .ownerReset 4 rfl]
    rfl
  have made : (if s.isField then ((State.recordCause { s with rst := { s.rst with hold := none } } .ownerReset).place
      .ownerEpoch false).clearGrant else State.recordCause { s with rst := { s.rst with hold := none } } .ownerReset) =
      s.ownerRecorded := by
    rw [recorded, place_withRst, place_eq_journal]
    unfold State.ownerRecorded
    cases s.isField <;> rfl
  simp only [State.ownerReset]
  rw [made]
  have state : s.ownerRecorded.rst.state = s.rst.state := rfl
  rw [state]
  cases s.rst.state <;> rfl

end Sys2Proof.Machine

open Sys2Proof Sys2Proof.Machine

/-- Settles O38: by the state of the Reset Controller at each edge. -/
theorem resetRequestLineIsALevel : Obligations.ResetRequestLineIsALevel := by
  intro s hp low high bumped requested
  refine ⟨fun released => ?_, fun asserted => ?_⟩
  · have run : exec .rstReqAsserted s = .next low.requestAsserted := by
      exact congrArg Host.Outcome.next ((if_neg (by rw [released]; decide)).trans (if_pos hp))
    rw [run]
    refine ⟨fun stays => ?_, fun pulse => ?_, fun check => ?_, fun running => ?_⟩
    · rcases stays with state | state | state <;>
        simp only [State.requestAsserted, show low.rst.state = _ from state]
    · simp only [State.requestAsserted, show low.rst.state = _ from pulse, enterRequest_eq]
      rfl
    · simp only [State.requestAsserted, show low.rst.state = _ from check, enterRequest_eq, abandonCheck_eq,
        withdrawn_measure]
      rfl
    · have reset := assertReset_done low
      obtain ⟨lines, rst⟩ := assertReset_keeps low
      refine ⟨low.assertReset.enterRequest, ?_, ?_, lines, SocResetDone.of_other reset _⟩
      · simp only [State.requestAsserted, show low.rst.state = _ from running]
      · rw [enterRequest_eq, rst]
  · have run : exec .rstReqDeasserted s = .next (if s.rst.state = .request then high.enterCheck else high) := by
      exact congrArg Host.Outcome.next ((if_pos asserted).trans (if_pos hp))
    rw [run]
    refine ⟨fun request => ⟨high.enterCheck, by rw [if_pos request], enterCheck_entered high⟩, fun other => ?_⟩
    rw [if_neg other]

/-- Settles O40: the two edges, and the owner reset by the state of the Reset Controller. -/
theorem ownerButtonMakesTheOwnerReset : Obligations.OwnerButtonMakesTheOwnerReset := by
  intro s hp bumped field asked recorded pulsed granted
  refine ⟨fun released other => ?_, fun released start => ?_, fun pressed => ?_, fun tm hold due => ?_⟩
  · simp only [exec, execOwnerClrAsserted, State.whenPowered, released, hp, if_true, Bool.false_eq_true, if_false,
      if_neg other]
    rfl
  · simp only [exec, execOwnerClrAsserted, State.whenPowered, released, hp, if_true, Bool.false_eq_true, if_false,
      if_pos start]
  · simp only [exec, execOwnerClrDeasserted, State.whenPowered, pressed, hp, if_true]
  · have run : exec .ownerReset s = .next s.ownerReset := by
      simp only [exec, execOwnerReset, State.whenPowered, hp, State.expired, hold, Timer.due, decide_eq_true due, if_true]
    have epoch : field = true → s.ownerRecorded.journal.anyRequest (fun p => p == .ownerEpoch) = true := by
      intro inField
      have inField : s.isField = true := inField
      simp only [State.ownerRecorded, inField, if_true]
      exact place_requested s .ownerEpoch false
    have asked_eq : asked = { s with journal := asked.journal } := by
      simp only [asked]
      split
      · exact place_eq_journal s .ownerEpoch false
      · rfl
    refine ⟨s.ownerReset, run, fun inField => ?_, fun running => ?_, fun check => ?_, fun stays => ?_⟩
    · rw [ownerReset_eq]
      cases s.rst.state with
      | run => exact assertReset_anyRequest _ _ (epoch inField)
      | check => exact (orphan_anyRequest _ _).trans (epoch inField)
      | _ => exact epoch inField
    · simp only [ownerReset_eq, running]
      have reset := assertReset_done s.ownerRecorded
      refine ⟨assertReset_enterPulse_rst _ _, congrArg Creds.grant reset.creds, ?_⟩
      rw [asked_eq]
      exact SocResetDone.of_other (lines := s.lines) (rst := recorded) (grant := granted.grant) reset _
    · simp only [ownerReset_eq, check, abandonCheck_eq, withdrawn_measure]
      rfl
    · rcases stays with state | state | state <;> simp only [ownerReset_eq, state] <;> rfl

/-- Settles O41: the two causes of a device-driven pulse. -/
theorem devicePulseResetsTheSoc : Obligations.DevicePulseResetsTheSoc := by
  intro s body hp running pulsed
  refine ⟨fun hands empty => ?_, fun hands other => ?_, fun tm timer due => ?_⟩
  · refine ⟨s.startPulse .command, ?_, startPulse_done s .command 2 rfl⟩
    simp only [exec, execResetSoc, take_of_hands hands, State.resetSoc, empty, running, if_true]
  · simp only [exec, execResetSoc, take_of_hands hands, State.resetSoc, if_neg other, State.refuse]
    rw [finish_eq_posted hands.2 (show Command.resetSoc ≠ .events by decide)]
    rfl
  · refine ⟨s.startPulse .trialExpiry, ?_, startPulse_done s .trialExpiry 3 rfl⟩
    simp only [exec, execTrialTimerExpiry, State.whenPowered, hp, running, timer, State.expired, Timer.due,
      decide_eq_true due, decide_true, Bool.and_true, if_true]

end

section
namespace Sys2Proof.Machine

/-! ### The end of an update session -/

/-- The grant of a read chunk that the Update Controller withdraws is kept for nobody (01 R17). -/
theorem withdrawn_update (g : Grant) : g.withdrawn .update = (match g with
    | .internal .update (.read a n) => .internalWithdrawn .update a n
    | g => g) := by
  cases g with
  | internal r op => cases r <;> cases op <;> rfl
  | _ => rfl

/-- What the end of a session leaves (09 R150, R151). -/
theorem endSession_eq (s : State) : s.endSession = { s with
    update := { s.update with session := .idle, verification := .none }
    checker := { s.checker with freezeSet := s.checker.freezeSet &&& ~~~s.stageRegions }
    arbiter := { s.arbiter with update := none, grant := s.arbiter.grant.withdrawn .update } } := rfl

/-- The end of a session leaves the command with its block (03 R47). -/
theorem endSession_hands {s : State} {c : Command} {body : Bytes} (h : s.hands c body) : s.endSession.hands c body := h

/-- A session is open exactly when it is not IDLE (09 R143). -/
theorem isOpen_iff (x : Session) : x.isOpen = true ↔ x ≠ .idle := by
  cases x <;> simp [Session.isOpen]

/-- A refusal is a completion with no body (03 R49). -/
theorem refuse_of_hands {s : State} {c : Command} {body : Bytes} (h : s.hands c body) (hc : c ≠ .events) (r : Result) :
    s.refuse r = s.posted r.code [] := finish_eq_posted h.2 hc r []

/-! ### The bank record -/

/-- The bank that is set is the one given. -/
theorem bank_setBank_same (r : BankRecord) (which : Bank) (i : BankInfo) : (r.setBank which i).bank which = i := by
  cases which <;> rfl

/-- Setting the other bank leaves a bank. -/
theorem bank_setBank_other (r : BankRecord) (which : Bank) (i : BankInfo) :
    (r.setBank which.other i).bank which = r.bank which := by
  cases which <;> rfl

/-- Setting a bank leaves its other. -/
theorem bank_other_setBank (r : BankRecord) (which : Bank) (i : BankInfo) :
    (r.setBank which i).bank which.other = r.bank which.other := by
  cases which <;> rfl

/-- Setting a bank leaves the recovery image's digest. -/
theorem setBank_recoveryDigest (r : BankRecord) (which : Bank) (i : BankInfo) :
    (r.setBank which i).recoveryDigest = r.recoveryDigest := by
  cases which <;> rfl

/-- A layout has the digest given. -/
def Layout.digestIs (d : Digest) (l : Layout) : Bool := sha256 l.block == d

/-- The current layout is in the LAYOUT-TRIAL object exactly when that object alone has its digest (09 R152). -/
theorem currentInTrialObject_iff (s : State) : s.currentInTrialObject = true ↔
    s.update.layout.any (Layout.digestIs s.update.record.layoutDigest) = false ∧
    s.update.trialLayout.any (Layout.digestIs s.update.record.layoutDigest) = true := by
  cases hl : s.update.layout <;> cases ht : s.update.trialLayout <;>
    simp [State.currentInTrialObject, Layout.digestIs, hl, ht]

/-- With raise-floor the floor of a confirm is the larger of the floor and the trial bank's version (09 R156). -/
theorem confirmedFloor_of_raise {s : State} (raise : s.update.record.raiseFloor = true) :
    let version := (s.update.record.bank s.update.record.active.other).version
    s.confirmedFloor = if version.toNat < s.anchor.floor.toNat then s.anchor.floor else version := by
  simp only [State.confirmedFloor, BankRecord.trialBank, raise, if_true, ← Nat.not_lt, ite_not]

/-- A confirm makes the trial bank GOOD and leaves the rest of it (09 R156 (1)). -/
theorem confirmedRecord_trialBank (s : State) :
    let r := s.update.record
    s.confirmedRecord.bank r.active.other = { r.bank r.active.other with state := .good } := by
  intro r
  exact (bank_other_setBank _ r.active _).trans (bank_setBank_same r r.active.other _)

/-- A confirm retires the bank it leaves where the raised floor is above its version (09 R156 (1)). -/
theorem confirmedRecord_activeBank (s : State) :
    let r := s.update.record
    s.confirmedRecord.bank r.active = { r.bank r.active with
      state := if r.raiseFloor = true ∧ (r.bank r.active).version.toNat < s.confirmedFloor.toNat then .retired
               else (r.bank r.active).state } := by
  intro r
  have left : s.confirmedRecord.bank r.active = { (r.setState r.active.other .good).bank r.active with
      state := if r.raiseFloor && decide ((r.bank r.active).version.toNat < s.confirmedFloor.toNat) then .retired
               else (r.bank r.active).state } := bank_setBank_same _ r.active _
  rw [left, BankRecord.setState, bank_setBank_other]
  simp only [Bool.and_eq_true, decide_eq_true_eq]

/-- A confirm keeps the recovery image's digest (09 R156 (1)). -/
theorem confirmedRecord_recoveryDigest (s : State) : s.confirmedRecord.recoveryDigest = s.update.record.recoveryDigest :=
  (setBank_recoveryDigest _ _ _).trans (setBank_recoveryDigest _ _ _)

end Sys2Proof.Machine

open Sys2Proof Sys2Proof.Machine

/-- Settles O57: each command's tests in order, then the request of its purpose. -/
theorem updateCommitAbortConfirmPlaceTheirRecord : Obligations.UpdateCommitAbortConfirmPlaceTheirRecord := by
  intro s body r inactive ended bank stored request
  have ends : s.endSession = ended := (endSession_eq s).trans
    (congrArg (fun g => { ended with arbiter := { ended.arbiter with grant := g } }) (withdrawn_update s.arbiter.grant))
  refine ⟨fun i c row hands filled => ?_, fun hands other => ?_, fun m hands verified free => ?_,
    fun hands idle => ?_, fun hands opened free => ?_, fun hands idle => ?_,
    fun l hands running layout => ⟨fun low => ?_, fun reached contained => ?_,
      fun reached clear free => ?_⟩⟩
  · simp only [List.mem_cons, Prod.mk.injEq, List.not_mem_nil, or_false] at row
    rcases row with ⟨rfl, rfl⟩ | ⟨rfl, rfl⟩ | ⟨rfl, rfl⟩
    · simp only [exec, execUpdateCommit, take_of_hands hands, State.updateCommit, if_neg filled]
      rw [refuse_of_hands hands (by decide)]
      rfl
    · simp only [exec, execUpdateAbort, take_of_hands hands, State.updateAbort, if_neg filled]
      rw [refuse_of_hands hands (by decide)]
      rfl
    · simp only [exec, execUpdateConfirm, take_of_hands hands, State.updateConfirm, if_neg filled]
      rw [refuse_of_hands hands (by decide)]
      rfl
  · have refused : s.updateCommit [] = s.refuse .session := by
      cases session : s.update.session with
      | verified m => exact absurd session (other m)
      | _ => simp only [State.updateCommit, session, if_true]
    simp only [exec, execUpdateCommit, take_of_hands hands, refused]
    rw [refuse_of_hands hands (by decide)]
    rfl
  · intro staged new hit copied
    have copies : (if s.currentInTrialObject then (s.update.trialLayout.map layoutEntry).toList else []) = copied := by
      have hits (x : Option Layout) : x.any (Layout.digestIs r.layoutDigest) = hit x := by cases x <;> rfl
      refine ite_congr (propext ?_) (fun _ => rfl) (fun _ => rfl)
      rw [currentInTrialObject_iff, hits, hits]
    have record : s.committedRecord m = new := by
      simp only [State.committedRecord, new]
      cases s.checker.layout <;> rfl
    have made : (s.endSession.waiting .updateCommit []).makeRequest (.updateCommit m) true =
        request (.updateCommit m) (copied ++ (m.layout.map (stored .layoutTrial)).toList ++ [bank new]) none new := by
      rw [← copies, ← record]
      exact congrArg (request (.updateCommit m) · none (s.committedRecord m)) (List.append_nil _)
    simp only [exec, execUpdateCommit, take_of_hands hands, State.updateCommit, verified, if_true]
    rw [wait_of_hands (endSession_hands hands), place_free free, made, ends]
  · simp only [exec, execUpdateAbort, take_of_hands hands, State.updateAbort, idle, Session.isOpen, if_true,
      Bool.false_eq_true, if_false]
    rw [refuse_of_hands hands (by decide)]
    rfl
  · obtain ⟨set, state, version, images⟩ := emptied_emptiedRecord s
    refine ⟨s.emptiedRecord, state, version, images, set, ?_⟩
    have made : (s.endSession.waiting .updateAbort []).makeRequest .updateAbort true =
        request .updateAbort [bank s.emptiedRecord] none s.emptiedRecord := rfl
    simp only [exec, execUpdateAbort, take_of_hands hands, State.updateAbort, (isOpen_iff _).2 opened, if_true]
    rw [wait_of_hands (endSession_hands hands), place_free free, made, ends]
  · simp only [exec, execUpdateConfirm, take_of_hands hands, State.updateConfirm, idle, Bool.not_false, if_true]
    rw [refuse_of_hands hands (by decide)]
    rfl
  all_goals
    have run : exec .updateConfirm s = .next (
        if s.measure.stage.toNat < l.confirmStage then s.refuse .stage
        else if s.contained then s.refuse .contained
        else (State.wait { s with update := { s.update with timer := none } }).place .updateConfirm true) := by
      simp only [exec, execUpdateConfirm, take_of_hands hands, State.updateConfirm, running, layout, Bool.not_true,
        Bool.false_eq_true, if_true, if_false, Option.map_some, Option.getD_some]
    rw [run]
  · rw [if_pos low, refuse_of_hands hands (by decide)]
    rfl
  · have latched : s.contained = true := by simpa [State.contained, Response.latch] using contained
    rw [if_neg (Nat.not_lt.2 reached), if_pos latched, refuse_of_hands hands (by decide)]
    rfl
  · intro trial version floor
    have unlatched : ¬s.contained = true := by simpa [State.contained, Response.latch] using clear
    let stopped : State := { s with update := { s.update with timer := none } }
    have waits : stopped.wait = stopped.waiting .updateConfirm [] := wait_of_hands hands
    have made : (stopped.waiting .updateConfirm []).makeRequest .updateConfirm true = request .updateConfirm
        ([bank s.confirmedRecord] ++ (if r.trialLayout then (s.update.trialLayout.map (stored .layout)).toList else []))
        (if r.raiseFloor then some version else none) s.confirmedRecord := rfl
    have raised (raise : r.raiseFloor = true) : s.confirmedFloor = floor := confirmedFloor_of_raise raise
    refine ⟨s.confirmedRecord, rfl, confirmedRecord_trialBank s, ?_, rfl, rfl, rfl, rfl, rfl, ?_,
      confirmedRecord_recoveryDigest s, fun without => ?_, fun x with_ found => ?_, ?_⟩
    · rw [confirmedRecord_activeBank]
      by_cases raise : r.raiseFloor = true
      · rw [raised raise]
      · rw [if_neg (fun both => raise both.1), if_neg (fun both => raise both.1)]
    · exact ite_congr rfl raised (fun _ => rfl)
    · simp only [State.confirmedRecord, show s.update.record.trialLayout = false from without, Bool.false_eq_true, if_false]
      rfl
    · simp only [State.confirmedRecord, show s.update.record.trialLayout = true from with_, found, if_true]
    · rw [if_neg (Nat.not_lt.2 reached), if_neg unlatched]
      rw [show State.wait { s with update := { s.update with timer := none } } = _ from waits, place_free free, made]

end

section
namespace Sys2Proof.Machine

/-! ### The control window as the place of a write -/

/-- An address from FFF000h on lies in the control window (02 R18). -/
theorem lookup_of_window {p : Nat} (h : 0xFFF000 ≤ p) (s : State) : s.lookup p = .window :=
  if_pos (show windowBase ≤ p from h)

/-- A PROGRAM in the control window goes to the Window Controller (02 R28). -/
theorem placeProgram_of_window {p : Nat} (h : 0xFFF000 ≤ p) (s : State) (e : OpcodeEntry)
    (page : List (Option Byte)) : s.placeProgram e p page = s.windowProgram p page := by
  simp only [State.placeProgram, State.judgeProgram, lookup_of_window h]

/-- An erase in the control window is a submission, whatever its unit (02 R29). -/
theorem placeErase_of_window {p : Nat} (h : 0xFFF000 ≤ p) (s : State) (e : OpcodeEntry) (size : Nat) :
    s.placeErase e p size = s.submit := by
  simp only [State.placeErase, State.judgeErase, lookup_of_window h]

/-! ### Programs in the control window -/

/-- A program in the request area while the engine is BUSY is discarded (03 R43). -/
theorem windowProgram_of_busy {s : State} {p : Nat} (low : p < 0xFFF800) (busy : s.window.engine = .busy)
    (page : List (Option Byte)) :
    s.windowProgram p page = { s with window := { s.window with overrun := true } } := by
  simp only [State.windowProgram, if_pos (show p < responseBase from low), if_pos busy]

/-- A program in the request area otherwise changes the request buffer alone (03 R43). -/
theorem windowProgram_of_ready {s : State} {p : Nat} (low : p < 0xFFF800) (ready : s.window.engine ≠ .busy)
    (page : List (Option Byte)) :
    s.windowProgram p page =
      { s with window := { s.window with request := writePage (pageBase p - windowBase) s.window.request page } } := by
  simp only [State.windowProgram, if_pos (show p < responseBase from low), if_neg ready]

/-- A program in the response area is a WINDOW violation (03 R44). -/
theorem windowProgram_of_response {p : Nat} (high : 0xFFF800 ≤ p) (s : State) (page : List (Option Byte)) :
    s.windowProgram p page = s.violate .window .program p none :=
  if_neg (show ¬p < responseBase from Nat.not_lt.2 high)

/-- Placing bytes keeps the number of positions (02 R27). -/
theorem placeBytes_length (page : List (Option Byte)) (pos : Nat) (data : Bytes) :
    (placeBytes page pos data).length = page.length := by
  induction data generalizing page pos with
  | nil => rfl
  | cons v vs ih => simp only [placeBytes, ih, List.length_set]

/-- A page image has a page's positions (02 R27). -/
theorem pageImage_length (p : Nat) (data : Bytes) : (pageImage p data).length = 256 :=
  (placeBytes_length _ _ _).trans List.length_replicate

/-- Written from an offset on, a page image replaces the bytes of its filled positions, and no other (03 R43). -/
theorem read_writePage (offset : Nat) (m : Memory) (page : List (Option Byte)) (wf : m.wf = true) (k : Nat) :
    (writePage offset m page).read k =
      if offset ≤ k then ((page[k - offset]?).join).getD (m.read k) else m.read k := by
  induction page generalizing offset m with
  | nil => simp [writePage]
  | cons x rest ih =>
    have later (m' : Memory) (wf' : m'.wf = true) (kept : k ≠ offset → m'.read k = m.read k) (hk : k ≠ offset) :
        (writePage (offset + 1) m' rest).read k =
          if offset ≤ k then (((x :: rest)[k - offset]?).join).getD (m.read k) else m.read k := by
      rw [ih _ _ wf', kept hk]
      by_cases after : offset + 1 ≤ k
      · have next : k - offset = k - (offset + 1) + 1 := by omega
        rw [if_pos after, if_pos (by omega), next, List.getElem?_cons_succ]
      · rw [if_neg after, if_neg (by omega)]
    by_cases here : k = offset
    · subst here
      have past (m' : Memory) (wf' : m'.wf = true) : (writePage (k + 1) m' rest).read k = m'.read k := by
        rw [ih _ _ wf', if_neg (by omega)]
      cases x with
      | none => simp [writePage, past m wf]
      | some v => simp [writePage, past _ (Memory.write_wf m k v wf), Memory.read_write_same m 0 k v wf]
    · cases x with
      | none => exact later m wf (fun _ => rfl) here
      | some v =>
        exact later _ (Memory.write_wf m offset v wf) (fun h => Memory.read_write_other m _ _ v (Ne.symm h)) here

/-- A page image written to its page of the request buffer (03 R43). -/
theorem read_writePage_request {m : Memory} (wf : m.wf = true) {p : Nat} (h : 0xFFF000 ≤ p) (data : Bytes) (k : Nat) :
    (writePage (pageBase p - windowBase) m (pageImage p data)).read k =
      if k / 256 = (p - 0xFFF000) / 256 then (((pageImage p data)[k % 256]?).join).getD (m.read k) else m.read k := by
  have base : pageBase p - windowBase = (p - 0xFFF000) / 256 * 256 := by
    unfold pageBase windowBase
    omega
  rw [read_writePage _ _ _ wf, base]
  by_cases mine : k / 256 = (p - 0xFFF000) / 256
  · rw [if_pos mine, if_pos (by omega), show k - (p - 0xFFF000) / 256 * 256 = k % 256 by omega]
  · rw [if_neg mine]
    by_cases above : (p - 0xFFF000) / 256 * 256 ≤ k
    · have past : (pageImage p data)[k - (p - 0xFFF000) / 256 * 256]? = none := by
        rw [List.getElem?_eq_none_iff, pageImage_length]
        omega
      rw [if_pos above, past]
      rfl
    · rw [if_neg above]

/-! ### Submissions -/

/-- A command's code is the byte it is found by (03 section 3.9). -/
theorem code_of_ofCode {b : Byte} {c : Command} (h : Command.ofCode b = some c) : c.code.toNat = b.toNat := by
  unfold Command.ofCode at h
  split at h <;> cases h <;> exact Eq.symm ‹_›

/-- The commands FACTORY does not take, by their codes (03 R46 (3)). -/
theorem fieldOnly_iff {c : Command} {k : Nat} (code : c.code.toNat = k) :
    c.fieldOnly = true ↔ k = 0x20 ∨ k = 0x30 ∨ (0x32 ≤ k ∧ k ≤ 0x34) ∨ (0x40 ≤ k ∧ k ≤ 0x55) := by
  subst code
  cases c <;> decide

/-- The PROVISION commands, by their codes (03 R46 (3)). -/
theorem factoryOnly_iff {c : Command} {k : Nat} (code : c.code.toNat = k) : c.factoryOnly = true ↔ 0x70 ≤ k := by
  subst code
  cases c <;> decide

/-- The commands taken after PROVISION FINISH, by their codes (12 R178). -/
theorem takenAfterFinish_iff {c : Command} {k : Nat} (code : c.code.toNat = k) :
    c.takenAfterFinish = true ↔
      k ≤ 0x04 ∨ k = 0x12 ∨ k = 0x13 ∨ k = 0x31 ∨ k = 0x35 ∨ k = 0x60 ∨ k = 0x61 := by
  subst code
  cases c <;> decide

/-- The life cycle takes a command, by its code (03 R46 (3), 12 R178). -/
theorem lifeCycleTakes_iff (s : State) {c : Command} {k : Nat} (code : c.code.toNat = k) :
    s.lifeCycleTakes c = true ↔
      (s.anchor.lifeCycle = .factory → ¬(k = 0x20 ∨ k = 0x30 ∨ (0x32 ≤ k ∧ k ≤ 0x34) ∨ (0x40 ≤ k ∧ k ≤ 0x55))) ∧
      (s.anchor.lifeCycle = .field → k < 0x70 ∧ (s.checker.openMapping = true →
        k ≤ 0x04 ∨ k = 0x12 ∨ k = 0x13 ∨ k = 0x31 ∨ k = 0x35 ∨ k = 0x60 ∨ k = 0x61)) := by
  rw [← fieldOnly_iff code, ← takenAfterFinish_iff code, ← Nat.not_le, ← factoryOnly_iff code]
  cases life : s.anchor.lifeCycle with
  | factory => simp [State.lifeCycleTakes, State.isField, life]
  | field =>
    cases opened : s.checker.openMapping <;> simp [State.lifeCycleTakes, State.isField, life, opened]

/-- A completion with no command in the engine raises DONE, whatever the code of the frame (03 R46, R47). -/
theorem finish_of_no_command {s : State} (h : s.window.command = none) (r : Result) (body : Bytes) :
    s.finish r body = s.posted r.code body := by
  simp only [State.finish, Window.complete, h]
  rfl

/-- A submission has begun: the response is cleared and the engine BUSY, the request stands (03 R45). -/
def State.submitted (s : State) : State :=
  { s with window := { s.window with
      engine := .busy, overrun := false, tag := s.window.request.read 1, result := 0xFF, body := [], command := none } }

/-- A submission while the engine is BUSY is discarded (03 R45). -/
theorem submit_of_busy {s : State} (busy : s.window.engine = .busy) :
    s.submit = { s with window := { s.window with overrun := true } } := if_pos busy

/-- Any other submission clears the response and has the header examined (03 R45, R46). -/
theorem submit_of_ready {s : State} (ready : s.window.engine ≠ .busy) :
    s.submit = s.submitted.examine := if_neg ready

/-- The header's offset and length give a body within the request buffer (03 R46 (1)). -/
abbrev Window.framed (w : Window) : Prop :=
  6 ≤ w.bodyOffset ∧ w.bodyOffset ≤ 2047 ∧ w.bodyOffset + w.bodyLength ≤ 2048

/-- The first test of the examination. -/
theorem framed_test (w : Window) :
    (decide (6 ≤ w.bodyOffset) && decide (w.bodyOffset ≤ 2047) && decide (w.bodyOffset + w.bodyLength ≤ 2048)) =
      decide w.framed := by
  simp only [Bool.decide_and, Bool.and_assoc]

/-- A request whose body is not within the request buffer completes with MALFORMED (03 R46 (1)). -/
theorem examine_of_unframed {s : State} (h : ¬s.window.framed) : s.examine = s.finish .malformed [] := by
  simp only [State.examine, framed_test, decide_eq_false h, Bool.not_false, if_true]

/-- A code that is no command's completes with UNKNOWN (03 R46 (2)). -/
theorem examine_of_unknown {s : State} (h : s.window.framed) (code : Command.ofCode (s.window.request.read 0) = none) :
    s.examine = s.finish .unknown [] := by
  simp only [State.examine, framed_test, decide_eq_true h, Bool.not_true, Bool.false_eq_true, if_false, code]

/-- A command that the life cycle does not take completes with LIFECYCLE (03 R46 (3)). -/
theorem examine_of_untaken {s : State} {c : Command} (h : s.window.framed)
    (code : Command.ofCode (s.window.request.read 0) = some c) (untaken : ¬s.lifeCycleTakes c = true) :
    s.examine = s.finish .lifecycle [] := by
  simp only [State.examine, framed_test, decide_eq_true h, Bool.not_true, Bool.false_eq_true, if_false, code,
    if_neg untaken]

/-- A command that it takes is handed to its owning block with its body (03 R46). -/
theorem examine_of_taken {s : State} {c : Command} (h : s.window.framed)
    (code : Command.ofCode (s.window.request.read 0) = some c) (taken : s.lifeCycleTakes c = true) :
    s.examine = { s with window := { s.window with command := some {
      command := c
      body := s.window.request.readBytes s.window.bodyOffset s.window.bodyLength
      taken := false } } } := by
  simp only [State.examine, framed_test, decide_eq_true h, Bool.not_true, Bool.false_eq_true, if_false, code,
    if_pos taken]

/-! ### STATUS and EVENTS -/

/-- A byte in a 2-byte field (03 section 3.9). -/
theorem bytes16_setWidth (b : Byte) : bytes16 (b.setWidth 16) = [0, b] :=
  bytes16_summary { Window.initial with pendingEvents := b }

/-- The STATUS body in the order of 03 section 3.9 (03 R53). -/
theorem statusBody_eq (s : State) : s.statusBody =
    [s.anchor.lifeCycle.code, BitVec.ofNat 8 s.measure.stage.toNat,
      (if s.response.causes = 0 then 0 else 1), s.response.causes, (if s.claimed then 1 else 0)] ++
    beBytes 2 s.grantSeconds ++
    [s.update.session.code,
      (if s.update.running then 2 else if s.update.record.trialPending then 1 else 0),
      (if s.anchor.lifeCycle = .field then s.update.presented.code else Bank.a.code)] ++
    beBytes 4 s.rst.bootCounter.toNat ++ beBytes 4 s.time.uptime.toNat ++
    [0, s.window.pendingEvents, 0, s.window.mask] := by
  have latch : flagByte s.contained = if s.response.causes = 0 then 0 else 1 := by
    by_cases clear : s.response.causes = 0 <;> simp [State.contained, Response.latch, flagByte, clear]
  have bank : s.reportedBank.code = if s.anchor.lifeCycle = .field then s.update.presented.code else Bank.a.code := by
    cases life : s.anchor.lifeCycle <;> simp [State.reportedBank, State.isField, life]
  simp only [State.statusBody, latch, bank, bytes16_summary, bytes16_setWidth, List.append_assoc]
  rfl

/-- EVENTS takes the pending kinds, with the mask that its body leaves in force (03 R52). -/
theorem events_of_mask {s : State} {body : Bytes} (h : s.hands .events body) {mask : Byte}
    (row : (body = [] ∧ mask = s.window.mask) ∨ ∃ high, body = [high, mask]) :
    s.events body = { s with window := { s.window with
      engine := .done, result := 0, command := none, pendingEvents := 0, mask := mask
      body := [0, s.window.pendingEvents, 0, mask] } } := by
  have done : s.events body =
      State.finish { s with window := { s.window with pendingEvents := 0, mask := mask } } .ok
        [0, s.window.pendingEvents, 0, mask] := by
    rcases row with ⟨rfl, rfl⟩ | ⟨high, rfl⟩
    · simp [State.events, bytes16_setWidth]
    · simp [State.events, bytes16_setWidth, byteAt]
  have standing : State.hands { s with window := { s.window with pendingEvents := 0, mask := mask } } .events body := h
  exact done.trans (finish_of_events standing.2 rfl .ok _)

/-- EVENTS with a body of another length (03 R52). -/
theorem events_of_malformed {s : State} {body : Bytes} (h : s.hands .events body) (h0 : body.length ≠ 0)
    (h2 : body.length ≠ 2) : s.events body = { s with window := { s.window with
      engine := .done, result := 0x10, command := none, body := [] } } := by
  have wrong : ¬(body = [] ∨ body.length = 2) := by simpa [h2] using h0
  rw [State.events, if_neg wrong, State.refuse, finish_of_events h.2 rfl]
  rfl

end Sys2Proof.Machine

open Sys2Proof Sys2Proof.Machine

/-- Settles O29: a write that the Region Checker leaves to the Window Controller, by area and engine. -/
theorem windowProgramWritesTheRequest : Obligations.WindowProgramWritesTheRequest := by
  intro s op received d e p h long latched ready hp window wf image
  subst hp
  obtain ⟨d', ended, run⟩ := programTransaction_of_complete h long
  rw [judgeWrite_of_ready latched ready, placeProgram_of_window window] at run
  refine ⟨d', ended, ?_⟩
  intro past
  have runs {t : State} (h : past.windowProgram _ image = t) : exec (.program op received) s = .next t :=
    congrArg Host.Outcome.next (run.trans h)
  refine ⟨fun low busy => runs (windowProgram_of_busy (s := past) low busy image), fun low free => ?_,
    fun high => runs (windowProgram_of_response high past image)⟩
  exact ⟨_, runs (windowProgram_of_ready (s := past) low free image), rfl, read_writePage_request wf window _⟩

/-- Settles O30: a submission, by the engine and then by the header's tests in their order. -/
theorem windowEraseSubmitsTheRequest : Obligations.WindowEraseSubmitsTheRequest := by
  intro s op received d e i c row h long latched ready window w off len k cleared taken
  obtain ⟨size, sized⟩ : ∃ size, (i, c, size) ∈ [(Instr.erase4k op received, OpClass.erase4k, 4096),
      (Instr.erase64k op received, OpClass.erase64k, 65536)] := by
    simp only [List.mem_cons, Prod.mk.injEq, List.not_mem_nil, or_false] at row ⊢
    rcases row with ⟨rfl, rfl⟩ | ⟨rfl, rfl⟩ <;> simp
  obtain ⟨_, d', ended, run⟩ := erase_rows sized h long
  rw [judgeWrite_of_ready latched ready, placeErase_of_window window] at run
  refine ⟨d', ended, ?_⟩
  intro past answered
  refine ⟨fun busy => run.trans (congrArg Host.Outcome.next (submit_of_busy busy)), fun free => ?_⟩
  have examined {t : State} (h : past.submitted.examine = t) : exec i s = .next t :=
    run.trans (congrArg Host.Outcome.next ((submit_of_ready (s := past) free).trans h))
  have refused (r : Result) : past.submitted.finish r [] = answered r.code := finish_of_no_command rfl r []
  refine ⟨fun unframed => examined ((examine_of_unframed (s := past.submitted) unframed).trans (refused .malformed)),
    fun low high fits => ?_⟩
  have framed : past.submitted.window.framed := ⟨low, high, fits⟩
  refine ⟨fun code => examined ((examine_of_unknown (s := past.submitted) framed code).trans (refused .unknown)),
    fun cmd code => ?_⟩
  have takes : past.submitted.lifeCycleTakes cmd = true ↔ taken :=
    lifeCycleTakes_iff past.submitted (code_of_ofCode code)
  exact ⟨fun yes => examined (examine_of_taken framed code (takes.2 yes)),
    fun no => examined (
      (examine_of_untaken (s := past.submitted) framed code (mt takes.1 no)).trans (refused .lifecycle))⟩

/-- Settles O43: STATUS by its body, EVENTS by the length of its own. -/
theorem statusAndEventsReport : Obligations.StatusAndEventsReport := by
  refine ⟨fun s body hands => ?_, fun s body hands => ⟨fun mask row => ?_, fun h0 h2 => ?_⟩⟩
  · rw [exec, execStatus, take_of_hands hands, statusBody_eq, State.grantSeconds,
      finish_eq_posted hands.2 (show Command.status ≠ .events by decide)]
    cases s.creds.grant <;> rfl
  · rw [exec, execEvents, take_of_hands hands, events_of_mask hands row]
  · rw [exec, execEvents, take_of_hands hands, events_of_malformed hands h0 h2]

end

section
namespace Sys2Proof.Machine

/-! ### The pulse and the cause record -/

/-- A pulse whose time has passed ends, or goes on waiting for its epoch request (04 R61, R62). -/
theorem pulseEnd_of_due {s : State} {tm : Timer} (hp : s.powered = true) (state : s.rst.state = .pulse)
    (timer : s.rst.pulse = some tm) (due : tm.start + tm.span ≤ s.time.clock) :
    exec .pulseEnd s = .next (State.endPulse { s with rst := { s.rst with pulse := none } }) := by
  simp only [exec, execPulseEnd, State.whenPowered, hp, state, timer, State.expired, Timer.due, decide_eq_true due,
    decide_true, Bool.and_true, if_true]

/-- A pulse whose time has not passed goes on (04 R61). -/
theorem pulseEnd_of_early {s : State} {tm : Timer} (hp : s.powered = true) (timer : s.rst.pulse = some tm)
    (early : s.time.clock < tm.start + tm.span) : exec .pulseEnd s = .next s := by
  simp only [exec, execPulseEnd, State.whenPowered, hp, timer, State.expired, Timer.due,
    decide_eq_false (Nat.not_le.2 early), Bool.and_false, Bool.false_eq_true, if_false, if_true]

/-- Where no epoch request keeps it, the end of a pulse enters CHECK (04 R62). -/
theorem endPulse_of_over {s : State} (state : s.rst.state = .pulse) (done : s.rst.pulse = none)
    (alone : ¬(s.rst.pulseWait = true ∧ s.epochOutstanding = true)) : s.endPulse = s.enterCheck :=
  if_pos ⟨state, done, by rwa [← Bool.not_eq_true, Bool.and_eq_true]⟩

/-- An epoch request not yet answered keeps an owner-reset pulse (04 R62). -/
theorem endPulse_of_waiting {s : State} (waits : s.rst.pulseWait = true) (asked : s.epochOutstanding = true) :
    s.endPulse = s :=
  if_neg fun ⟨_, _, alone⟩ => by simp [waits, asked] at alone

/-- The cause record as CAUSE CLEAR reports it (04 R65). -/
theorem record_eq (r : ResetController) : r.record =
    beBytes 4 r.bootCounter.toNat ++ [r.lastCause.code] ++ r.counts.toList.flatMap (fun c => beBytes 2 c.toNat) := rfl

/-- A body of four bytes is one field (03 section 3.9). -/
theorem word32At_of_length {body : Bytes} (four : body.length = 4) : word32At body 0 = BitVec.ofNat 32 (beNat body) := by
  rw [word32At, field, slice, List.drop_zero, List.take_of_length_le (Nat.le_of_eq four)]

/-- The counts are cleared, and the halt count of anchor memory with them (04 R65, 06 R86). -/
def State.causesCleared (s : State) : State :=
  { s with rst := { s.rst with counts := Vector.replicate 6 0 }, anchor := { s.anchor with haltCount := 0 } }

/-- CAUSE CLEAR with the current boot counter clears the counts and reports (04 R65). -/
theorem causeClear_of_current {s : State} {body : Bytes} (four : body.length = 4)
    (current : BitVec.ofNat 32 (beNat body) = s.rst.bootCounter) :
    s.causeClear body = s.causesCleared.finish .ok s.causesCleared.rst.record := by
  have filled : body ≠ [] := fun none => by simp [none] at four
  rw [State.causeClear, if_neg filled, if_pos four, if_pos ((word32At_of_length four).trans current)]
  rfl

/-- CAUSE CLEAR with another boot counter is refused (04 R65). -/
theorem causeClear_of_stale {s : State} {body : Bytes} (four : body.length = 4)
    (stale : BitVec.ofNat 32 (beNat body) ≠ s.rst.bootCounter) : s.causeClear body = s.refuse .staleClear := by
  have filled : body ≠ [] := fun none => by simp [none] at four
  rw [State.causeClear, if_neg filled, if_pos four, if_neg (by rwa [word32At_of_length four])]

end Sys2Proof.Machine

open Sys2Proof Sys2Proof.Machine

/-- Settles O15: a 32-bit counter one up. -/
theorem uptimeTickAddsASecond : Obligations.UptimeTickAddsASecond := by
  intro s hp
  refine ⟨_, congrArg Host.Outcome.next (if_pos hp), rfl, ?_, Nat.mul_comm _ _⟩
  exact BitVec.toNat_add s.time.uptime 1

/-- Settles O39: by the pulse timer and the epoch request. -/
theorem pulseEndEntersCheck : Obligations.PulseEndEntersCheck := by
  intro s tm hp state timer past waits
  refine ⟨fun due alone => ⟨past.enterCheck, ?_, enterCheck_entered past⟩, fun due ⟨waiting, asked⟩ => ?_,
    fun early => pulseEnd_of_early hp timer early⟩
  · exact (pulseEnd_of_due hp state timer due).trans
      (congrArg Host.Outcome.next (endPulse_of_over (s := past) state rfl alone))
  · exact (pulseEnd_of_due hp state timer due).trans
      (congrArg Host.Outcome.next (endPulse_of_waiting (s := past) waiting asked))

/-- Settles O42: by the length of the body and the boot counter in it. -/
theorem causeClearReportsAndClears : Obligations.CauseClearReportsAndClears := by
  intro s body hands report
  have run : exec .causeClear s = .next (s.causeClear body) := congrArg Host.Outcome.next (take_of_hands hands _)
  have other : Command.causeClear ≠ .events := by decide
  rw [run]
  refine ⟨fun empty => ?_, fun four current => ?_, fun four stale => ?_, fun filled wrong => ?_⟩
  · rw [State.causeClear, if_pos empty, finish_eq_posted hands.2 other, record_eq]
    rfl
  · have standing : s.causesCleared.hands .causeClear body := hands
    rw [causeClear_of_current four current, finish_eq_posted standing.2 other, record_eq]
    rfl
  · rw [causeClear_of_stale four stale, refuse_of_hands hands other]
    rfl
  · rw [State.causeClear, if_neg filled, if_neg wrong, refuse_of_hands hands other]
    rfl

end

section
namespace Sys2Proof.Machine

/-! ### Whom a store chunk goes to -/

/-- A read chunk of the Journal Store completes during start-up: the scan takes it (06 section 6.8). -/
theorem storeChunkComplete_of_scan {s : State} {base n : Nat} {scan : Scan} (hp : s.powered = true)
    (hg : s.arbiter.grant = .internal .journal (.read base n)) (hs : s.journal.scan = some scan)
    (misread : FlashCells) :
    exec (.storeReadChunkComplete misread) s =
      .next ((s.chunkDone .journal).scanChunk (s.flash.readBytesThrough misread base n)) := by
  simp [exec, execStoreReadChunkComplete, State.whenPowered, hp, Arbiter.chunk, hg, State.storeChunk,
    State.chunkDone, hs]

/-- A read chunk of the Journal Store completes after start-up: the request in progress takes it (06 R91). -/
theorem storeChunkComplete_of_request {s : State} {base n : Nat} (hp : s.powered = true)
    (hg : s.arbiter.grant = .internal .journal (.read base n)) (hs : s.journal.scan = none) (misread : FlashCells) :
    exec (.storeReadChunkComplete misread) s =
      .next ((s.chunkDone .journal).journalChunk (s.flash.readBytesThrough misread base n)) := by
  simp [exec, execStoreReadChunkComplete, State.whenPowered, hp, Arbiter.chunk, hg, State.storeChunk,
    State.chunkDone, hs]

/-! ### The scan's chunks -/

/-- A chunk before the last of an area is kept, and the next asked for (06 section 6.8). -/
theorem scanChunk_of_more {s : State} {area : Capacity} {h0 h1 : Memory} {k : Nat}
    (hs : s.journal.scan = some (.probing area h0 h1 k)) (more : k + 256 < 262144) (bs : Bytes) :
    s.scanChunk bs = s.probe area (if k < 131072 then h0.writeBytes k bs else h0)
      (if k < 131072 then h1 else h1.writeBytes (k - 131072) bs) (k + 256) := by
  simp only [State.scanChunk, hs]
  exact if_pos more

/-- With the last chunk of an area, which lies in its second half, the area is judged (06 R96 ~ R98). -/
theorem scanChunk_of_last {s : State} {area : Capacity} {h0 h1 : Memory} {k : Nat}
    (hs : s.journal.scan = some (.probing area h0 h1 k)) (last : k + 256 = 262144) (bs : Bytes) :
    s.scanChunk bs = s.areaRead area h0 (h1.writeBytes (k - 131072) bs) := by
  have second : ¬k < halfSize := by
    unfold halfSize
    omega
  simp only [State.scanChunk, hs, if_neg second]
  exact if_neg (by unfold chunkLength halfSize; omega)

/-- A chunk before the last of a live object's entry is kept, and the next asked for (06 R99). -/
theorem scanChunk_of_partial {s : State} {outcome : StoreState} {r : IndexRecord} {rest : List IndexRecord}
    {got bs : Bytes} (hs : s.journal.scan = some (.handing outcome (r :: rest) got))
    (more : got.length + bs.length < r.length) :
    s.scanChunk bs = State.askFlash
      { s with journal := { s.journal with scan := some (.handing outcome (r :: rest) (got ++ bs)) } } .journal
      (nextChunk (s.recordBase r) r.length (got.length + bs.length)) := by
  simp only [State.scanChunk, hs, List.length_append, if_pos more]

/-- With its last chunk the entry is judged (06 R99). -/
theorem scanChunk_of_entry {s : State} {outcome : StoreState} {r : IndexRecord} {rest : List IndexRecord}
    {got bs : Bytes} (hs : s.journal.scan = some (.handing outcome (r :: rest) got))
    (last : r.length ≤ got.length + bs.length) :
    s.scanChunk bs = s.handRead outcome r rest (got ++ bs) := by
  simp only [State.scanChunk, hs, List.length_append, if_neg (Nat.not_lt.2 last)]

/-- The bytes of an entry that a half holds give that entry (06 R88). -/
theorem decodeEntry_of_holds {j : Journal} {half : Memory} {off : Nat} {e : FoundEntry} (h : j.holds half off e) :
    decodeEntry j.tagKey j.storageKey off (half.readBytes off e.length) = some e := by
  have found := (holds_iff j half off e).1 h
  simp only [entryAt] at found
  split at found
  · have length := ((decodeEntry_iff _ _ _ _ _).1 found).2.2.2.2.2.2.2.1
    rw [readBytes_length] at length
    rwa [length]
  · cases found

/-- Bytes with an incorrect tag give no entry (06 R88). -/
theorem decodeEntry_of_wrong_tag {tagKey : Digest} {bs : Bytes} (wrong : tagCorrect tagKey bs = false)
    (storageKey : Digest) (off : Nat) : decodeEntry tagKey storageKey off bs = none := by
  simp [decodeEntry, wrong]

/-- A live object read again is handed over, or with an incorrect tag makes the store STALE; the hand-over goes on
(06 R99). -/
theorem handRead_handed (s : State) (outcome : StoreState) (r : IndexRecord) (rest : List IndexRecord) (got : Bytes) :
    ∃ u,
      (∀ half e, s.journal.holds half r.offset e → half.readBytes r.offset e.length = got →
        Handed s e u ∧ HandsOn u outcome rest (s.handRead outcome r rest got)) ∧
      (tagCorrect s.journal.tagKey got = false →
        u = s.contain .storeStale ∧ HandsOn u .stale rest (s.handRead outcome r rest got)) := by
  cases decoded : decodeEntry s.journal.tagKey s.journal.storageKey r.offset got with
  | some x =>
    refine ⟨s.handOver x, fun half e holds same => ?_, fun wrong => ?_⟩
    · have entry := decodeEntry_of_holds holds
      rw [same, decoded] at entry
      cases entry
      simp only [State.handRead, decoded]
      exact ⟨handOver_handed s x, handNext_handsOn _ _ _⟩
    · rw [decodeEntry_of_wrong_tag wrong] at decoded
      cases decoded
  | none =>
    refine ⟨s.contain .storeStale, fun half e holds same => ?_, fun _ => ?_⟩
    · have entry := decodeEntry_of_holds holds
      rw [same, decoded] at entry
      cases entry
    · refine ⟨rfl, ?_⟩
      simp only [State.handRead, decoded]
      exact handNext_handsOn _ _ _

/-! ### The chunks of a request -/

/-- Bytes written that read back as sent are done with (06 R91). -/
theorem journalChunk_of_equal {s : State} {job : Job} {k : WriteKind} {w : Writing} {got bs : Bytes}
    (hj : s.journal.job = some job) (step : job.step = .readingBack k w got) (same : got ++ bs = w.bytes) :
    s.journalChunk bs = s.writeDone job k w := by
  simp only [State.journalChunk, hj, step, same, Nat.lt_irrefl, if_false, if_true]

/-- Bytes written that do not have failed (06 R92). -/
theorem journalChunk_of_unequal {s : State} {job : Job} {k : WriteKind} {w : Writing} {got bs : Bytes}
    (hj : s.journal.job = some job) (step : job.step = .readingBack k w got)
    (last : w.bytes.length ≤ got.length + bs.length) (other : got ++ bs ≠ w.bytes) :
    s.journalChunk bs = s.writeFailed job k w := by
  simp only [State.journalChunk, hj, step, List.length_append, if_neg (Nat.not_lt.2 last), if_neg other]

/-- A spoiled tag has been read back (06 R92). -/
theorem journalChunk_of_spoiled {s : State} {job : Job} {w : Writing} {final : Bool} (hj : s.journal.job = some job)
    (step : job.step = .spoilReading w final) (bs : Bytes) : s.journalChunk bs = s.spoilRead job w final bs := by
  simp only [State.journalChunk, hj, step]

/-- A tag spoiled reads 00h: the entry is written once more behind it (06 R92). -/
theorem spoilRead_of_spoiled (s : State) (job : Job) (w : Writing) {got : Bytes} (spoiled : got = List.replicate 16 0) :
    s.spoilRead job w false got =
      State.nextEntry { s with journal := { s.journal with appendPoint := w.offset + w.bytes.length } }
        { job with failed := true } := by
  rw [State.spoilRead, if_neg Bool.false_ne_true, if_pos spoiled]

/-- One that does not is spoiled again, as the second failure (06 R92). -/
theorem spoilRead_of_unspoiled (s : State) (job : Job) (w : Writing) {got : Bytes} (other : got ≠ List.replicate 16 0) :
    s.spoilRead job w false got = s.beginSpoil job w true := by
  rw [State.spoilRead, if_neg Bool.false_ne_true, if_neg other]

/-! ### The next entry of a request -/

/-- No number is left for an entry (06 R91, R95). -/
theorem entryExhausted_iff (s : State) (e : StoreEntry) : s.entryExhausted e = true ↔
    s.anchor.generation = 0xFFFFFFFF ∨ (e.kind = .ownerEpoch ∧ s.journal.epoch = 0xFFFFFFFF) := by
  simp only [State.entryExhausted, lastGeneration, Bool.or_eq_true, Bool.and_eq_true, beq_iff_eq]

/-- With no number left for its next entry the request fails (06 R91, R95). -/
theorem nextEntry_failed {s : State} {job : Job} {e : StoreEntry} {rest : List StoreEntry} (todo : job.todo = e :: rest)
    (used : s.anchor.generation = 0xFFFFFFFF ∨ (e.kind = .ownerEpoch ∧ s.journal.epoch = 0xFFFFFFFF)) :
    RequestFailed s job.request (s.nextEntry job) := by
  have failed : s.nextEntry job = s.failRequest job := by
    simp only [State.nextEntry, todo]
    exact if_pos ((entryExhausted_iff s e).2 used)
  rw [failed]
  exact failRequest_failed s job

/-- Else it is begun at the append point where it fits the active half, and compaction where it does not (06 R91,
R93). -/
theorem nextEntry_begun {s : State} {job : Job} {e : StoreEntry} {rest : List StoreEntry} {h : Half}
    (todo : job.todo = e :: rest) (active : s.journal.active = some h) (generations : s.anchor.generation ≠ 0xFFFFFFFF)
    (epochs : e.kind = .ownerEpoch → s.journal.epoch ≠ 0xFFFFFFFF) :
    let g := s.anchor.generation + 1
    let v := s.written h s.journal.appendPoint (s.journal.filled e) g
    let size := entryLength (s.journal.filled e).payload.length
    (s.journal.appendPoint + size ≤ 131072 → ∃ pages, Paged (s.halfBase h + v.offset) v.bytes pages ∧
      s.nextEntry job = s.goTo job (.programming (.entry g) v pages) (s.firstPage v)) ∧
    (131072 < s.journal.appendPoint + size →
      s.nextEntry job = s.goTo job (.erasing false) (.erase64k (s.halfBase h.other))) := by
  intro g v size
  have left : s.entryExhausted e = false := by
    rw [← Bool.not_eq_true, entryExhausted_iff]
    rintro (last | ⟨kind, last⟩)
    · exact generations last
    · exact epochs kind last
  have target : s.journal.targetHalf = h.other := by simp only [Journal.targetHalf, active, Option.map, Option.getD]
  simp only [State.nextEntry, todo]
  refine ⟨fun fits => beginEntry_of_fits s job e h generations epochs active fits, fun full => ?_⟩
  rw [beginEntry_of_full s job e left (fun h' active' => by cases active.symm.trans active'; exact full), target]

/-- Generation, append point, index and flash are as they were. -/
def EntriesStand (s t : State) : Prop :=
  t.anchor.generation = s.anchor.generation ∧ t.journal.appendPoint = s.journal.appendPoint ∧
    t.journal.index = s.journal.index ∧ t.flash = s.flash

/-- A write begun leaves them (06 R91). -/
theorem beginWrite_entriesStand (s : State) (job : Job) (k : WriteKind) (w : Writing) :
    EntriesStand s (s.beginWrite job k w) := by
  rw [State.beginWrite]
  cases splitPages w.bytes.length (s.writingBase w) w.bytes <;> exact ⟨rfl, rfl, rfl, rfl⟩

/-- A request that fails leaves them (06 R92). -/
theorem failRequest_entriesStand (s : State) (job : Job) : EntriesStand s (s.failRequest job) := by
  obtain ⟨-, -, -, -, -, index, -, -, appendPoint, generation, flash, -⟩ := failRequest_failed s job
  exact ⟨generation, appendPoint, index, flash⟩

/-- An entry begun leaves them (06 R91). -/
theorem beginEntry_entriesStand (s : State) (job : Job) (e : StoreEntry) : EntriesStand s (s.beginEntry job e) := by
  simp only [State.beginEntry]
  split
  · exact failRequest_entriesStand s job
  · split
    · exact ⟨rfl, rfl, rfl, rfl⟩
    · split
      · exact beginWrite_entriesStand _ _ _ _
      · exact ⟨rfl, rfl, rfl, rfl⟩

/-- A request answered OK leaves them (06 R91). -/
theorem passRequest_entriesStand (s : State) (job : Job) : EntriesStand s (s.passRequest job) := by
  have stands : StandsBehind { s with journal := { s.journal with job := none } } (s.passRequest job) :=
    answered_stands _ job.request
  exact ⟨stands.gen, (congrArg Journal.appendPoint stands.journal).trans rfl,
    (congrArg Journal.index stands.journal).trans rfl, stands.flash⟩

/-- What comes after an entry leaves them (06 R91). -/
theorem nextEntry_entriesStand (s : State) (job : Job) : EntriesStand s (s.nextEntry job) := by
  rw [State.nextEntry]
  split
  · rw [State.entriesDone]
    split
    · exact ⟨rfl, rfl, rfl, rfl⟩
    · exact passRequest_entriesStand s job
  · exact beginEntry_entriesStand _ _ _

/-- With every entry durable and no write to anchor memory the request is answered OK (06 R91). -/
theorem nextEntry_answered (s : State) {job : Job} (floor : job.request.floorRaise = none)
    (hash : job.request.authorityHash = none) :
    RequestAnswered { s with journal := { s.journal with job := none } } job.request
      (s.nextEntry { job with todo := [] }) := by
  have answer : s.nextEntry { job with todo := [] } = s.passRequest { job with todo := [] } := by
    simp [State.nextEntry, State.entriesDone, floor, hash]
  rw [answer]
  exact answerStore_ok _ job.request

/-- With every entry durable its writes to anchor memory are asked for (06 R91, 12 R176). -/
theorem nextEntry_of_anchor (s : State) {job : Job}
    (asked : job.request.floorRaise ≠ none ∨ job.request.authorityHash ≠ none) :
    s.nextEntry { job with todo := [] } = { s with
      journal := { s.journal with job := some { job with todo := [], step := .anchorWriting } }
      anchor := { s.anchor with
        writes := s.anchor.writes ++ [.request job.request.floorRaise job.request.authorityHash] } } := by
  refine if_pos ?_
  simpa only [Bool.or_eq_true, Option.isSome_iff_ne_none] using asked

/-! ### A durable entry -/

/-- The object of an entry is live (06 R89). -/
theorem entryLive_iff (j : Journal) (e : StoreEntry) : j.entryLive e = true ↔
    e.payload ≠ [] ∧ (e.epoch = 0 ∨ e.epoch = j.epoch) ∧ e.kind ≠ .checkpoint ∧
      (e.kind = .count → ∃ x ∈ j.index, x.kind = .cred ∧ x.id = e.id) := by
  simp only [Journal.entryLive, Bool.and_eq_true, Bool.or_eq_true, bne_iff_ne, beq_iff_eq, and_assoc]
  refine and_congr_right fun _ => and_congr_right fun _ => ?_
  cases e.kind <;> simp [IndexRecord.names]

/-- The index after an entry is durable (06 R89, R91). -/
theorem mem_indexed (j : Journal) (e : StoreEntry) (r x : IndexRecord) : x ∈ j.indexed e r ↔
    (j.entryLive e = true ∧ x = r) ∨
    (x ∈ j.index ∧ ¬(x.kind = e.kind ∧ x.id = e.id) ∧ ¬(e.kind = .cred ∧ x.kind = .count ∧ x.id = e.id)) := by
  have other : x ∈ j.index.filter (fun x => !x.names e.kind e.id && !(e.kind == .cred && x.names .count e.id)) ↔
      x ∈ j.index ∧ ¬(x.kind = e.kind ∧ x.id = e.id) ∧ ¬(e.kind = .cred ∧ x.kind = .count ∧ x.id = e.id) := by
    simp only [List.mem_filter, IndexRecord.names, Bool.and_eq_true, Bool.not_eq_true', ← Bool.not_eq_true, beq_iff_eq]
  rw [← other, Journal.indexed]
  cases j.entryLive e with
  | true => simp only [if_true, List.mem_append, List.mem_singleton, true_and, or_comm]
  | false => simp only [Bool.false_eq_true, if_false, false_and, false_or]

/-- The generation, the index and the append point take an entry that is durable (06 R91). -/
def State.entryIndexed (s : State) (e : StoreEntry) (g : Word32) (w : Writing) : State :=
  { s with
    anchor := { s.anchor with generation := g }
    journal := { s.journal with
      index := s.journal.indexed e {
        kind := e.kind, id := e.id, half := w.half, offset := w.offset, length := w.bytes.length, generation := g
        epoch := e.epoch }
      appendPoint := w.offset + w.bytes.length } }

/-- An entry is durable as it was written, and its owners have taken it (06 R91). -/
def State.durable (s : State) (e : StoreEntry) (g : Word32) (w : Writing) : State :=
  (s.entryIndexed (s.journal.filled e) g w).entryTaken (s.journal.filled e)

/-- An entry that reads back as sent is durable, and the request goes on (06 R91). -/
theorem entryWritten_eq {s : State} {job : Job} {e : StoreEntry} {rest : List StoreEntry} (todo : job.todo = e :: rest)
    (g : Word32) (w : Writing) : s.entryWritten job g w = (s.durable e g w).nextEntry { job with todo := rest } := by
  simp only [State.entryWritten, todo, fillEntry_eq_filled]
  rfl

/-- An entry but an OWNER-EPOCH one is written as it is (06 R95). -/
theorem filled_of_plain {e : StoreEntry} (plain : e.kind ≠ .ownerEpoch) (j : Journal) : j.filled e = e := if_neg plain

/-- A durable entry but an OWNER-EPOCH one is taken by the copies of the stored layouts alone (09 R152, 12 R175). -/
theorem entryTaken_of_plain {e : StoreEntry} (plain : e.kind ≠ .ownerEpoch) (s : State) : s.entryTaken e = { s with
    update := { s.update with
      layout := if e.kind = .layout then Layout.parse e.payload else s.update.layout
      trialLayout := if e.kind = .layoutTrial then Layout.parse e.payload else s.update.trialLayout } } := by
  cases kind : e.kind with
  | ownerEpoch => exact absurd kind plain
  | _ => simp only [State.entryTaken, kind, reduceCtorEq, if_true, if_false]

/-- A durable entry but an OWNER-EPOCH one leaves the other owners as they were (06 R91). -/
def State.plainDurable (s : State) (e : StoreEntry) (g : Word32) (w : Writing) : State :=
  { s.entryIndexed e g w with update := { s.update with
      layout := if e.kind = .layout then Layout.parse e.payload else s.update.layout
      trialLayout := if e.kind = .layoutTrial then Layout.parse e.payload else s.update.trialLayout } }

/-- What such an entry leaves (06 R91). -/
theorem durable_of_plain {e : StoreEntry} (plain : e.kind ≠ .ownerEpoch) (s : State) (g : Word32) (w : Writing) :
    s.durable e g w = s.plainDurable e g w := by
  rw [State.durable, filled_of_plain plain, entryTaken_of_plain plain]
  rfl

/-- The payload of an OWNER-EPOCH entry gives back its epoch (06 R95). -/
theorem word32At_beBytes (x : Word32) : word32At (beBytes 4 x.toNat) 0 = x := by
  rw [word32At_of_length (beBytes_length 4 _)]
  exact (word32_iff_beBytes _ x (beBytes_length 4 _)).2 rfl

/-- The keys that a new owner epoch leaves (07 R115). -/
theorem keyEpoch_held (s : State) (epoch : Word32) (slot : Nat) (k : KeyRecord) :
    (s.keyEpoch epoch).keys.held slot = some k ↔
      s.keys.held slot = some k ∧ (k.cls = .owner → k.epoch = epoch) := by
  simp only [State.keyEpoch, Keys.held, Vector.getElem?_map]
  rcases s.keys.slots[slot]? with _ | _ | x
  · simp
  · simp
  · by_cases lost : x.cls = .owner ∧ x.epoch ≠ epoch
    · simp only [Option.map_some, if_pos lost, Option.join_some, Option.some.injEq, reduceCtorEq, false_iff]
      rintro ⟨rfl, stays⟩
      exact lost.2 (stays lost.1)
    · simp only [Option.map_some, if_neg lost, Option.join_some, Option.some.injEq]
      refine ⟨?_, And.left⟩
      rintro rfl
      exact ⟨rfl, fun owner => Classical.not_not.1 fun old => lost ⟨owner, old⟩⟩

/-- The index records that a new owner epoch leaves (06 R95). -/
theorem epoch_of_kept {r : IndexRecord} {epoch : Word32} (kept : r.oldEpoch epoch = false)
    (kind : r.kind = .cred ∨ r.kind = .count ∨ r.kind = .key) : r.epoch = 0 ∨ r.epoch = epoch := by
  have concerned : ((r.kind == .cred || r.kind == .count) || r.kind == .key) = true := by
    simpa only [Bool.or_eq_true, beq_iff_eq, or_assoc] using kind
  simp only [IndexRecord.oldEpoch, concerned, Bool.true_and, Bool.and_eq_false_iff, bne_eq_false_iff_eq] at kept
  exact kept

/-- A durable OWNER-EPOCH entry makes the new epoch (06 R95, 07 R115, 08 R139). -/
theorem entryTaken_of_ownerEpoch {e : StoreEntry} (kind : e.kind = .ownerEpoch) (s : State) :
    let epoch := word32At e.payload 0
    ∃ records slots, s.entryTaken e = { s with
        journal := { s.journal with epoch := epoch, index := s.journal.index.filter (fun r => !r.oldEpoch epoch) }
        creds := { records := records, grant := none }
        keys := { s.keys with slots := slots }
        window := { s.window with pendingEvents := s.window.pendingEvents ||| 128 } } ∧
      (∀ id x, (records[id]?).join = some x ↔ s.creds.get id = some x ∧ x.epoch = epoch) ∧
      (∀ slot k, (slots[slot]?).join = some k ↔ s.keys.held slot = some k ∧ (k.cls = .owner → k.epoch = epoch)) := by
  intro epoch
  obtain ⟨records, taken, held⟩ := credEpoch_eq { s with journal := { s.journal with
    epoch := epoch, index := s.journal.index.filter (fun r => !r.oldEpoch epoch) } } epoch
  refine ⟨records, (s.keyEpoch epoch).keys.slots, ?_, held, fun slot k => keyEpoch_held s epoch slot k⟩
  simp only [State.entryTaken, kind]
  rw [taken]
  rfl

/-- A durable OWNER-EPOCH entry has been indexed and taken: what is left is of the new epoch or of none (06 R95). -/
theorem durable_of_ownerEpoch {e : StoreEntry} (kind : e.kind = .ownerEpoch) (s : State) (g : Word32) (w : Writing) :
    let epoch := s.journal.epoch + 1
    let t := s.durable e g w
    t = { s with
      anchor := { s.anchor with generation := g }
      journal := { s.journal with epoch := epoch, index := t.journal.index, appendPoint := w.offset + w.bytes.length }
      creds := { records := t.creds.records, grant := none }
      keys := { s.keys with slots := t.keys.slots }
      window := { s.window with pendingEvents := s.window.pendingEvents ||| 128 } } ∧
    (∀ x ∈ t.journal.index, x.kind = .cred ∨ x.kind = .count ∨ x.kind = .key → x.epoch = 0 ∨ x.epoch = epoch) ∧
    (∀ id x, t.creds.get id = some x ↔ s.creds.get id = some x ∧ x.epoch = epoch) ∧
    (∀ slot k, t.keys.held slot = some k ↔ s.keys.held slot = some k ∧ (k.cls = .owner → k.epoch = epoch)) := by
  intro epoch t
  have filled : s.journal.filled e = { e with payload := beBytes 4 epoch.toNat } := if_pos kind
  have payload : word32At (s.journal.filled e).payload 0 = epoch := by
    rw [filled]
    exact word32At_beBytes epoch
  have filled_kind : (s.journal.filled e).kind = .ownerEpoch := by rw [filled]; exact kind
  obtain ⟨records, slots, taken, recordsHeld, slotsHeld⟩ :=
    entryTaken_of_ownerEpoch filled_kind (s.entryIndexed (s.journal.filled e) g w)
  rw [payload] at taken recordsHeld slotsHeld
  simp only [t, State.durable, taken]
  refine ⟨rfl, fun x listed => ?_, recordsHeld, slotsHeld⟩
  exact epoch_of_kept (by simpa using (List.mem_filter.1 listed).2)

/-- Whatever its owners take, a durable entry gives its generation and the append point behind it, and leaves the flash
(06 R91). -/
theorem durable_leaves (s : State) (e : StoreEntry) (g : Word32) (w : Writing) :
    (s.durable e g w).anchor.generation = g ∧
      (s.durable e g w).journal.appendPoint = w.offset + w.bytes.length ∧ (s.durable e g w).flash = s.flash := by
  by_cases kind : e.kind = .ownerEpoch
  · rw [(durable_of_ownerEpoch kind s g w).1]
    exact ⟨rfl, rfl, rfl⟩
  · rw [durable_of_plain kind]
    exact ⟨rfl, rfl, rfl⟩

/-- The chunk that shows an entry to be as it was sent makes it durable (06 R91). -/
theorem storeChunkComplete_of_durable {s : State} {base n : Nat} {misread : FlashCells} {job : Job} {g : Word32}
    {w : Writing} {got : Bytes} {e : StoreEntry} {rest : List StoreEntry} (hp : s.powered = true)
    (hg : s.arbiter.grant = .internal .journal (.read base n)) (hs : s.journal.scan = none)
    (hj : s.journal.job = some job) (step : job.step = .readingBack (.entry g) w got) (todo : job.todo = e :: rest)
    (same : got ++ s.flash.readBytesThrough misread base n = w.bytes) :
    exec (.storeReadChunkComplete misread) s =
      .next (((s.chunkDone .journal).durable e g w).nextEntry { job with todo := rest }) := by
  rw [storeChunkComplete_of_request hp hg hs, journalChunk_of_equal (s := s.chunkDone .journal) hj step same,
    State.writeDone, entryWritten_eq todo]

end Sys2Proof.Machine

open Sys2Proof Sys2Proof.Machine

/-- Settles O35: by the scan, the hand-over and the step of the request in progress. -/
theorem storeChunkJudgesTheReadBack : Obligations.StoreChunkJudgesTheReadBack := by
  intro s misread base n hp hg bytes freed
  have len : bytes.length = n := readBytesThrough_length _ _ _ _
  refine ⟨fun area h0 h1 k hs more => ?scan, ⟨?area,
    fun outcome r rest got hs => ⟨fun more => ?part, fun last => ?handed⟩⟩,
    fun job g w got e rest hs hj step todo same => ?durable, fun job g w got hs hj step last other => ?unequal,
    fun job w final hs hj step => ?spoiled, ?epoch⟩
  case scan =>
    rw [storeChunkComplete_of_scan hp hg hs, scanChunk_of_more (s := s.chunkDone .journal) hs more]
    rfl
  case area =>
    intro area h0 h1 k hs last w0 w1 half1 distinct
    have judged := areaRead_judged freed area h0 half1 w0 (Memory.writeBytes_wf _ _ _ w1) distinct
    refine ⟨freed.areaRead area h0 half1, ?_, judged⟩
    rw [storeChunkComplete_of_scan hp hg hs, scanChunk_of_last (s := s.chunkDone .journal) hs last]
    rfl
  case part =>
    rw [storeChunkComplete_of_scan hp hg hs,
      scanChunk_of_partial (s := s.chunkDone .journal) (bs := bytes) hs (by rw [len]; exact more), len]
    rfl
  case handed =>
    obtain ⟨u, correct, wrong⟩ := handRead_handed freed outcome r rest (got ++ bytes)
    refine ⟨u, _, ?_, correct, wrong⟩
    rw [storeChunkComplete_of_scan hp hg hs,
      scanChunk_of_entry (s := s.chunkDone .journal) (bs := bytes) hs (by rw [len]; exact last)]
    rfl
  case durable =>
    have run := storeChunkComplete_of_durable hp hg hs hj step todo same
    obtain ⟨durableGeneration, durablePoint, durableFlash⟩ := durable_leaves freed e g w
    obtain ⟨generation, appendPoint, index, flash⟩ :=
      nextEntry_entriesStand (freed.durable e g w) { job with todo := rest }
    refine ⟨_, run, generation.trans durableGeneration, appendPoint.trans durablePoint, flash.trans durableFlash, ?_⟩
    intro plain live q
    rw [durable_of_plain plain] at index
    rw [show s.chunkDone .journal = freed from rfl, durable_of_plain plain]
    refine ⟨(freed.plainDurable e g w).journal.index, ?_⟩
    intro past
    refine ⟨fun y => ?member, index, ?more, ?exhausted, ?last⟩
    case member =>
      exact (mem_indexed s.journal e _ y).trans (or_congr_left (and_congr_left' (entryLive_iff s.journal e)))
    case more =>
      rintro more todo' h rfl active generations epochs
      intro next size v
      obtain ⟨fits, full⟩ := nextEntry_begun (s := freed.plainDurable e g w) (job := { job with todo := more :: todo' })
        rfl active generations epochs
      exact ⟨fits, full⟩
    case exhausted =>
      rintro more todo' rfl used
      exact nextEntry_failed (s := freed.plainDurable e g w) (job := { job with todo := more :: todo' }) rfl used
    case last =>
      rintro rfl
      exact ⟨fun ⟨floor, hash⟩ => nextEntry_answered (freed.plainDurable e g w) floor hash,
        fun asked => nextEntry_of_anchor (freed.plainDurable e g w) asked⟩
  case unequal =>
    rw [storeChunkComplete_of_request hp hg hs,
      journalChunk_of_unequal (s := s.chunkDone .journal) (bs := bytes) hj step (by rw [len]; exact last) other]
    rfl
  case spoiled =>
    have run := storeChunkComplete_of_request hp hg hs misread
    rw [journalChunk_of_spoiled (s := s.chunkDone .journal) hj step] at run
    refine ⟨?again, ?respoiled, ?final⟩
    case again =>
      rintro e es h rfl spoiled todo active generations epochs
      intro past size g v again
      rw [run, spoilRead_of_spoiled _ _ _ spoiled]
      obtain ⟨fits, full⟩ := nextEntry_begun (s := { freed with journal := { s.journal with appendPoint := past } })
        (job := { job with failed := true }) todo active generations epochs
      refine ⟨fun room => ?_, fun tight => congrArg Host.Outcome.next (full tight)⟩
      obtain ⟨pages, paged, begun⟩ := fits room
      exact ⟨pages, paged, congrArg Host.Outcome.next begun⟩
    case respoiled =>
      rintro rfl other
      rw [run, spoilRead_of_unspoiled _ _ _ other]
      rfl
    case final =>
      rintro rfl
      exact ⟨_, run, failRequest_failed freed job⟩
  case epoch =>
    intro job g w got e hs hj step todo same kind floor hash epoch
    have run := storeChunkComplete_of_durable hp hg hs hj step todo same
    obtain ⟨taken, index, records, slots⟩ := durable_of_ownerEpoch kind freed g w
    refine ⟨{ freed.durable e g w with journal := { (freed.durable e g w).journal with job := none } }, _, run,
      nextEntry_answered (freed.durable e g w) floor hash, ?_, index, records, slots⟩
    exact congrArg (fun t : State => { t with journal := { t.journal with job := none } }) taken

end

section
namespace Sys2Proof.Machine

/-! ### The regions of a stage advance -/

/-- The indices of a layout's regions come each once and in increasing order (05 R79). -/
theorem indices_pairwise (l : Layout) (p : Region → Bool) : (l.indices p).Pairwise (· < ·) :=
  List.pairwise_lt_range.filter _

/-- What the indices of a layout's regions with a property are (05 R79). -/
theorem mem_indices_iff (l : Layout) (p : Region → Bool) (i : Nat) :
    i ∈ l.indices p ↔ i < 16 ∧ ∃ r, l.region? i = some r ∧ p r = true := by
  rw [Layout.indices, List.mem_filter, List.mem_range]
  cases l.region? i <;> simp

/-- A region is measured by an advance from `c` to `t` (05 R79). -/
def Region.measuredIn (c t : Nat) (r : Region) : Bool :=
  match r.measureAt with
  | .stage n => decide (c < n) && decide (n ≤ t)
  | _ => false

theorem measuredIn_iff (c t : Nat) (r : Region) :
    r.measuredIn c t = true ↔ ∃ n, r.measureAt = .stage n ∧ c < n ∧ n ≤ t := by
  cases h : r.measureAt <;> simp [Region.measuredIn, h]

/-- In FACTORY an advance measures nothing (05 R79). -/
theorem advanceList_of_factory {s : State} (life : s.anchor.lifeCycle = .factory) (c t : Nat) :
    s.advanceList c t = [] := by
  simp [State.advanceList, State.isField, life]

/-- In FIELD an advance measures regions of the layout in force (05 R79). -/
theorem advanceList_of_field {s : State} {l : Layout} (life : s.anchor.lifeCycle = .field)
    (layout : s.checker.layout = some l) (c t : Nat) : s.advanceList c t = l.indices (Region.measuredIn c t) := by
  simp only [State.advanceList, State.isField, life, layout, beq_self_eq_true, if_true]
  rfl

/-- Which indices a set has once a list of them is added. -/
theorem foldl_addTo_getLsbD {w i : Nat} (low : i < w) (indices : List Nat) (x : BitVec w) :
    (indices.foldl addTo x).getLsbD i = true ↔ x.getLsbD i = true ∨ i ∈ indices := by
  induction indices generalizing x with
  | nil => simp
  | cons j rest ih =>
    have added : (addTo x j).getLsbD i = true ↔ x.getLsbD i = true ∨ i = j := by
      simp [addTo, low, @eq_comm _ i]
    rw [List.foldl_cons, ih, added, List.mem_cons, or_assoc]

/-- Regions that join the freeze set change nothing else (02 R31). -/
theorem foldl_freeze_eq (indices : List Nat) (s : State) : indices.foldl State.freeze s =
    { s with checker := { s.checker with freezeSet := indices.foldl addTo s.checker.freezeSet } } := by
  induction indices generalizing s with
  | nil => rfl
  | cons j rest ih => exact ih (s.freeze j)

/-! ### STAGE ADVANCE -/

/-- A byte in a 1-byte field (03 section 3.9). -/
theorem bytes1_toNat (b : Byte) : bytes1 b.toNat = [b] := by simp [bytes1]

/-- The state in which STAGE ADVANCE has been taken and its regions have joined the freeze set (05 R79). -/
def State.advanceFrozen (s : State) (regions : List Nat) (target : Byte) : State :=
  { s.waiting .stageAdvance [target] with
    checker := { s.checker with freezeSet := regions.foldl addTo s.checker.freezeSet } }

/-- A target that is no later stage is refused (05 R79). -/
theorem stageAdvance_of_order {s : State} {target : Byte}
    (order : target.toNat ≤ s.measure.stage.toNat ∨ 7 < target.toNat) :
    s.stageAdvance [target] = s.refuse .stageOrder := if_pos order

/-- A body that is not one byte is refused (05 R79). -/
theorem stageAdvance_of_malformed {s : State} {body : Bytes} (wrong : body.length ≠ 1) :
    s.stageAdvance body = s.refuse .malformed := if_neg wrong

/-- An advance to a later stage freezes its regions and then goes on with them (05 R79). -/
theorem stageAdvance_of_later {s : State} {target : Byte} (hands : s.hands .stageAdvance [target])
    (above : s.measure.stage.toNat < target.toNat) (top : target.toNat ≤ 7) {todo : List Nat}
    (regions : s.advanceList s.measure.stage.toNat target.toNat = todo) :
    s.stageAdvance [target] = (s.advanceFrozen todo target).advanceRun
      { target := target.toNat, todo := [], done := [], mismatched := 0 } todo := by
  have later : ¬(target.toNat ≤ s.measure.stage.toNat ∨ 7 < target.toNat) := by omega
  subst regions
  refine (if_neg later).trans ?_
  rw [foldl_freeze_eq, wait_of_hands hands]
  rfl

/-- An advance whose next region has bytes to measure begins it (05 R70, R79). -/
theorem advanceRun_of_region {s : State} {l : Layout} {r : Region} {i : Nat} (layout : s.checker.layout = some l)
    (region : l.region? i = some r) (filled : (s.measuredRange r).2 ≠ 0) (a : Advance) (rest : List Nat) :
    s.advanceRun a (i :: rest) =
      State.beginRegion { s with measure := { s.measure with advance := some { a with todo := rest } } } r := by
  simp only [State.advanceRun, layout, Option.bind_some, region, if_neg filled]

/-- An advance with no region left completes in its target stage (05 R80). -/
theorem advanceRun_nil {s : State} {body : Bytes}
    (running : s.window.command = some { command := .stageAdvance, body := body, taken := true }) (a : Advance) :
    s.advanceRun a [] = (State.enterStage { s with measure := { s.measure with advance := none } } a.target).posted 0
      (bytes1 a.target ++ bytes1 a.done.length ++ a.done.map (BitVec.ofNat 8) ++ bytes16 a.mismatched) := by
  have other : Command.stageAdvance ≠ .events := by decide
  refine finish_eq_posted (x := { command := .stageAdvance, body := body, taken := true }) ?_ other .ok _
  exact running

/-! ### MEASURE EXTEND -/

/-- The extend mask of a slot, with and without a layout in force (05 R82). -/
theorem extendMask_eq (s : State) (n : Nat) : s.extendMask n = if s.anchor.lifeCycle = .field then
    s.checker.layout.elim 0 (fun l => l.extendMasks.getD n 0) else 0xFF := by
  simp only [State.extendMask, State.isField, beq_iff_eq]
  cases s.checker.layout <;> rfl

/-- An extend with room in the log appends its entry (05 R67, R68). -/
theorem extend_of_room {m : Measure} (room : m.log.length < logCapacity) (n : Nat) (kind : ExtendKind)
    (index stage : Nat) (d : Digest) : m.extend n kind index stage d = { m with
      slots := m.slots.setIfInBounds n (extendValue (m.slot n) kind index stage d)
      log := m.log ++ [{ slot := n, kind := kind, index := index, stage := stage, digest := d }] } := by
  simp only [Measure.extend, if_pos room, decide_eq_false (Nat.not_le.2 room), Bool.or_false]

/-- An extend with the log full sets the truncated flag (05 R68). -/
theorem extend_of_full {m : Measure} (full : logCapacity ≤ m.log.length) (n : Nat) (kind : ExtendKind)
    (index stage : Nat) (d : Digest) : m.extend n kind index stage d = { m with
      slots := m.slots.setIfInBounds n (extendValue (m.slot n) kind index stage d)
      truncated := true } := by
  simp only [Measure.extend, if_neg (Nat.not_lt.2 full), decide_eq_true full, Bool.or_true]

/-- The extended slot holds the value of the extend (05 R67). -/
theorem slot_extend_same (m : Measure) {n : Nat} (low : n ≤ 7) (kind : ExtendKind) (index stage : Nat) (d : Digest) :
    (m.extend n kind index stage d).slot n = extendValue (m.slot n) kind index stage d := by
  have inside : n < 8 := by omega
  simp [Measure.slot, Measure.extend, inside]

/-- A digest after one byte of a body (05 R82). -/
theorem digestAt_cons {bytes : Bytes} (long : bytes.length = 32) (b : Byte) :
    digestAt (b :: bytes) 1 = BitVec.ofNat 256 (beNat bytes) := by
  rw [digestAt, field, slice, List.drop_succ_cons, List.drop_zero, List.take_of_length_le (Nat.le_of_eq long)]

/-- MEASURE EXTEND with another form is refused (05 R82). -/
theorem measureExtend_of_malformed {s : State} {body : Bytes}
    (wrong : ¬(body.length = 33 ∧ (byteAt body 0).toNat ≤ 7)) :
    s.measureExtend body = s.refuse .malformed := if_neg wrong

/-- MEASURE EXTEND outside the slot's extend mask is refused (05 R82). -/
theorem measureExtend_of_stage {s : State} {slot : Byte} {bytes : Bytes} (long : bytes.length = 32)
    (low : slot.toNat ≤ 7) (outside : (s.extendMask slot.toNat).getLsbD s.measure.stage.toNat = false) :
    s.measureExtend (slot :: bytes) = s.refuse .stage := by
  have formed : (slot :: bytes).length = 33 ∧ slot.toNat ≤ 7 := ⟨congrArg Nat.succ long, low⟩
  exact (if_pos formed).trans (if_neg (ne_true_of_eq_false outside))

/-- MEASURE EXTEND within the slot's extend mask extends and answers (05 R82). -/
theorem measureExtend_of_extends {s : State} {slot : Byte} {bytes : Bytes} (long : bytes.length = 32)
    (low : slot.toNat ≤ 7) (within : (s.extendMask slot.toNat).getLsbD s.measure.stage.toNat = true) {d new : Digest}
    (digest : BitVec.ofNat 256 (beNat bytes) = d)
    (folded : extendValue (s.measure.slot slot.toNat) .soc 0 s.measure.stage.toNat d = new) :
    s.measureExtend (slot :: bytes) = (s.extend slot.toNat .soc 0 s.measure.stage.toNat d).finish .ok
      ([slot] ++ digestBytes new ++
        bytes1 (if s.measure.log.length < logCapacity then s.measure.log.length else 255)) := by
  have formed : (slot :: bytes).length = 33 ∧ slot.toNat ≤ 7 := ⟨congrArg Nat.succ long, low⟩
  subst digest folded
  refine (if_pos formed).trans ((if_pos within).trans ?_)
  change State.finish (s.extend slot.toNat _ _ _ _) _ (bytes1 slot.toNat ++
    digestBytes ((s.measure.extend slot.toNat _ _ _ _).slot slot.toNat) ++ _) = _
  rw [digestAt_cons long, bytes1_toNat, slot_extend_same _ low]

/-! ### LOG READ -/

/-- A stretch of a list taken entry by entry with its positions. -/
theorem flatMap_zipIdx_stretch {α β : Type} (xs : List α) (i n : Nat) (f : α → Nat → List β) :
    (((xs.drop i).take n).zipIdx i).flatMap (fun e => f e.1 e.2) =
      (List.range (min n (xs.length - i))).flatMap (fun j => (xs[i + j]?).elim [] (fun x => f x (i + j))) := by
  refine congrArg List.flatten (List.ext_getElem (by simp) fun j inside _ => ?_)
  have low : i + j < xs.length := by
    simp only [List.length_map, List.length_zipIdx, List.length_take, List.length_drop] at inside
    omega
  simp [low]

/-- LOG READ from an index on (05 R84). -/
theorem logRead_of_index {s : State} {i : Byte} (low : i.toNat ≤ 63) {k : Nat}
    (count : k = min 55 (s.measure.log.length - i.toNat)) : s.logRead [i] = s.finish .ok
      ([BitVec.ofNat 8 s.measure.log.length, flagByte s.measure.truncated, i, BitVec.ofNat 8 k] ++
        (List.range k).flatMap (fun j => (s.measure.log[i.toNat + j]?).elim [] (fun x => x.bytes (i.toNat + j)))) := by
  have formed : [i].length = 1 ∧ i.toNat ≤ 63 := ⟨rfl, low⟩
  refine (if_pos formed).trans ?_
  change State.finish _ _ (bytes1 _ ++ _ ++ bytes1 i.toNat ++ bytes1 _ ++
    (((s.measure.log.drop i.toNat).take 55).zipIdx i.toNat).flatMap _) = _
  rw [bytes1_toNat, flatMap_zipIdx_stretch, List.length_take, List.length_drop, count]
  rfl

/-- LOG READ with another form is refused (05 R84). -/
theorem logRead_of_malformed {s : State} {body : Bytes} (wrong : ∀ i : Byte, body = [i] → 63 < i.toNat) :
    s.logRead body = s.refuse .malformed := by
  refine if_neg fun ⟨one, low⟩ => ?_
  obtain ⟨i, rfl⟩ := List.length_eq_one_iff.1 one
  exact Nat.not_le.2 (wrong i rfl) low

end Sys2Proof.Machine

open Sys2Proof Sys2Proof.Machine

/-- Settles O44: by the form, the order of the stages and the regions between them. -/
theorem stageAdvanceFreezesThenMeasures : Obligations.StageAdvanceFreezesThenMeasures := by
  have other : Command.stageAdvance ≠ .events := by decide
  have run {s : State} {body : Bytes} (hands : s.hands .stageAdvance body) :
      exec .stageAdvance s = .next (s.stageAdvance body) := congrArg Host.Outcome.next (take_of_hands hands _)
  refine ⟨fun s target => ⟨fun body wrong hands => ?_, fun hands => ?_⟩, fun s c k =>
    ⟨fun life => advanceList_of_factory life c k, fun l life layout => ?_⟩⟩
  · rw [run hands, stageAdvance_of_malformed wrong, refuse_of_hands hands other]
    rfl
  · intro c k todo
    rw [run hands]
    refine ⟨fun order => ?_, fun above top nothing => ?_,
      fun i rest r l above top first layout region index filled => ?_⟩
    · rw [stageAdvance_of_order order, refuse_of_hands hands other]
      rfl
    · rw [stageAdvance_of_later hands above top nothing]
      have answer : bytes1 target.toNat ++ bytes1 0 ++ [] ++ bytes16 0 = [target, 0, 0, 0] := by
        rw [bytes1_toNat]
        rfl
      rw [advanceRun_nil (s := s.advanceFrozen [] target) rfl, ← answer]
      rfl
    · rw [stageAdvance_of_later hands above top first,
        advanceRun_of_region (s := s.advanceFrozen (i :: rest) target) layout region filled]
      have keeps {j : Nat} (low : j < 16) (frozen : s.checker.freezeSet.getLsbD j = true ∨ j ∈ i :: rest) :
          (addTo ((i :: rest).foldl addTo s.checker.freezeSet) r.index).getLsbD j = true :=
        addTo_keeps _ _ _ ((foldl_addTo_getLsbD low _ _).2 frozen)
      refine ⟨_, rfl, rfl, rfl, rfl, rfl, rfl, rfl, ⟨_, rfl, index, rfl, rfl, rfl⟩, fun j mem low => ?_,
        fun j frozen => ?_, rfl, rfl⟩
      · exact keeps low (.inr (first ▸ mem))
      · exact keeps (BitVec.lt_of_getLsbD frozen) (.inl frozen)
  · rw [advanceList_of_field life layout]
    refine ⟨indices_pairwise l _, fun i => ?_⟩
    rw [mem_indices_iff]
    simp only [measuredIn_iff, exists_and_left]

/-- Settles O45: by the form, the extend mask and the room in the log. -/
theorem measureExtendFoldsTheDigest : Obligations.MeasureExtendFoldsTheDigest := by
  have other : Command.measureExtend ≠ .events := by decide
  have run {s : State} {body : Bytes} (hands : s.hands .measureExtend body) :
      exec .measureExtend s = .next (s.measureExtend body) := congrArg Host.Outcome.next (take_of_hands hands _)
  refine ⟨fun s hands => ?_, fun s slot bytes hands => ?_⟩
  · rw [run hands, measureExtend_of_malformed (by simp), refuse_of_hands hands other]
    rfl
  intro n stage d mask new full
  have masked : s.extendMask n = mask := by
    rw [extendMask_eq]
    unfold mask
    cases s.checker.layout <;> rfl
  rw [run hands]
  refine ⟨fun wrong => ?_, fun long low outside => ?_, fun long low within => ?_⟩
  · have unformed : ¬((slot :: bytes).length = 33 ∧ slot.toNat ≤ 7) := by
      rw [List.length_cons]
      omega
    rw [measureExtend_of_malformed unformed, refuse_of_hands hands other]
    rfl
  · rw [measureExtend_of_stage long low (masked ▸ outside), refuse_of_hands hands other]
    rfl
  · rw [measureExtend_of_extends long low (masked ▸ within) (d := d) (new := new) rfl rfl,
      finish_eq_posted (s := s.extend ..) hands.2 other, State.extend]
    rcases Nat.lt_or_ge s.measure.log.length logCapacity with room | filled
    · have clear : full = false := decide_eq_false (Nat.not_le.2 room)
      rw [extend_of_room room, if_pos room, clear, Bool.or_false]
      rfl
    · have truncates : full = true := decide_eq_true filled
      rw [extend_of_full filled, if_neg (Nat.not_lt.2 filled), truncates, Bool.or_true]
      rfl

/-- Settles O46: both reports by the form of the body. -/
theorem measureAndLogReadsReport : Obligations.MeasureAndLogReadsReport := by
  refine ⟨fun s body hands => ?_, fun s body hands => ?_⟩
  · have other : Command.measureRead ≠ .events := by decide
    have run : exec .measureRead s = .next (s.measureRead body) := congrArg Host.Outcome.next (take_of_hands hands _)
    rw [run]
    refine ⟨fun filled => ?_, fun empty => ?_⟩
    · rw [State.measureRead, if_neg filled, refuse_of_hands hands other]
      rfl
    · rw [State.measureRead, if_pos empty, finish_eq_posted hands.2 other]
      rfl
  · have other : Command.logRead ≠ .events := by decide
    have run : exec .logRead s = .next (s.logRead body) := congrArg Host.Outcome.next (take_of_hands hands _)
    rw [run]
    refine ⟨fun i one low => ?_, fun wrong => ?_⟩
    · subst one
      intro k
      rw [logRead_of_index low (k := k) rfl, finish_eq_posted hands.2 other]
      refine congrArg (fun entries => Host.Outcome.next (s.posted 0 (_ ++ entries))) (congrArg (List.flatMap · _) ?_)
      funext j
      cases s.measure.log[i.toNat + j]? <;> rfl
    · rw [logRead_of_malformed wrong, refuse_of_hands hands other]
      rfl

end

section
namespace Sys2Proof.Machine

/-! ### One request per source -/

/-- The sources of the requests in the queue and of the one in progress. -/
def Journal.sources (j : Journal) : List StoreSource := j.placed.map (fun q => q.purpose.source)

/-- Each source has at most one request in the queue or in progress, and holds another only while one is (06 R90). -/
def Journal.requestsSafe (j : Journal) : Prop :=
  j.sources.Nodup ∧ ∀ h ∈ j.held, j.outstanding h.purpose.source = true

/-- A source has a request outstanding exactly while it is among those sources (06 R90). -/
theorem outstanding_iff_source (j : Journal) (src : StoreSource) : j.outstanding src = true ↔ src ∈ j.sources := by
  simp only [Journal.outstanding, Journal.sources, Journal.placed, Bool.or_eq_true, List.any_eq_true, beq_iff_eq,
    List.map_append, List.mem_append, List.mem_map]
  cases j.job <;> simp [or_comm]

/-- There are four sources (06 R90). -/
theorem length_eq_counts (l : List StoreSource) : l.length =
    l.count .engine + l.count .resetController + l.count .updateController + l.count .responseUnit := by
  induction l with
  | nil => rfl
  | cons x rest ih =>
    have one : ([x].count .engine + [x].count .resetController + [x].count .updateController +
        [x].count .responseUnit) = 1 := by cases x <;> rfl
    have joined (src : StoreSource) : (x :: rest).count src = [x].count src + rest.count src :=
      List.count_append (l₁ := [x])
    rw [joined, joined, joined, joined, List.length_cons]
    omega

/-- With one request for each source the queue stays within its four places (06 R90). -/
theorem queue_length_le {j : Journal} (once : j.sources.Nodup) : j.queue.length ≤ 4 := by
  have each := List.nodup_iff_count.1 once
  have total := length_eq_counts j.sources
  have part : j.queue.length ≤ j.sources.length := by
    rw [Journal.sources, Journal.placed, List.length_map, List.length_append]
    exact Nat.le_add_left _ _
  have engine := each .engine
  have reset := each .resetController
  have update := each .updateController
  have response := each .responseUnit
  omega

/-- What a change of the Journal Store's state keeps of its requests: one for each source, and, where they all did, the
held ones still wait. -/
structure RequestsKept (j k : Journal) : Prop where
  once : j.sources.Nodup → k.sources.Nodup
  safe : j.requestsSafe → k.requestsSafe

/-- Requests untouched are kept. -/
theorem RequestsKept.refl (j : Journal) : RequestsKept j j := ⟨id, id⟩

theorem RequestsKept.trans {i j k : Journal} (first : RequestsKept i j) (second : RequestsKept j k) :
    RequestsKept i k :=
  ⟨second.once ∘ first.once, second.safe ∘ first.safe⟩

/-- A change before another. -/
theorem RequestsKept.after {i j k : Journal} (second : RequestsKept j k) (first : RequestsKept i j) :
    RequestsKept i k :=
  first.trans second

/-- A change of other blocks before another. -/
theorem RequestsKept.beside {i j k : Journal} (change : RequestsKept j k) (same : j = i) : RequestsKept i k :=
  same ▸ change

theorem RequestsKept.of_eq {j k : Journal} (same : k = j) : RequestsKept j k := same ▸ .refl j

/-- What each of several changes keeps they all keep. -/
theorem foldl_kept {α : Type} {change : State → α → State}
    (each : ∀ u x, RequestsKept u.journal (change u x).journal) (xs : List α) (s : State) :
    RequestsKept s.journal (xs.foldl change s).journal := by
  induction xs generalizing s with
  | nil => exact .refl _
  | cons x rest ih => exact (each s x).trans (ih _)

/-- Requests of the same sources are kept. -/
theorem RequestsKept.of_sources {j k : Journal} (sources : k.sources = j.sources)
    (held : k.held.map (fun h => h.purpose.source) = j.held.map (fun h => h.purpose.source)) : RequestsKept j k := by
  refine ⟨fun once => sources ▸ once, fun ⟨once, waits⟩ => ⟨sources ▸ once, fun h hk => ?_⟩⟩
  have mine : h.purpose.source ∈ j.held.map (fun h => h.purpose.source) := held ▸ List.mem_map_of_mem hk
  obtain ⟨x, hx, same⟩ := List.mem_map.1 mine
  have listed := (outstanding_iff_source j _).1 (waits x hx)
  rwa [outstanding_iff_source, sources, ← same]

/-- A change after which each held request waits, whatever it was before. -/
theorem RequestsKept.of_settled {j k : Journal} (settled : j.sources.Nodup → k.requestsSafe) : RequestsKept j k :=
  ⟨fun once => (settled once).1, fun safe => settled safe.1⟩

/-! ### Placing -/

/-- One step of the placing of held requests gives no source a second one (06 R90). -/
theorem placeOne_once {u : State} (once : u.journal.sources.Nodup) (h : HeldRequest) :
    (u.placeOne h).journal.sources.Nodup := by
  simp only [State.placeOne]
  split
  · exact once
  · rename_i free
    have other : h.purpose.source ∉ u.journal.sources := fun mine => free ((outstanding_iff_source _ _).2 mine)
    have joined : (u.queued (u.makeRequest h.purpose h.live)).journal.sources =
        u.journal.sources ++ [h.purpose.source] := by
      simp [Journal.sources, Journal.placed, State.queued, makeRequest_purpose]
    rw [joined]
    exact List.nodup_append.2 ⟨once, List.nodup_cons.2 ⟨List.not_mem_nil, List.nodup_nil⟩, fun x hx y hy same =>
      other (List.mem_singleton.1 hy ▸ same ▸ hx)⟩

/-- With the held requests placed each source has one request, and what is held still waits (06 R90). -/
theorem pumpRequests_settled (s : State) (once : s.journal.sources.Nodup) : s.pumpRequests.journal.requestsSafe := by
  obtain ⟨placed, waits⟩ := pumpRequests_heldPlaced s
  refine placed ▸ ⟨?_, waits⟩
  have run : ∀ (hs : List HeldRequest) (u : State), u.journal.sources.Nodup →
      (hs.foldl State.placeOne u).journal.sources.Nodup := by
    intro hs
    induction hs with
    | nil => exact fun _ h => h
    | cons h rest ih => exact fun u hu => ih _ (placeOne_once hu h)
  exact run s.journal.held { s with journal := { s.journal with held := [] } } once

theorem pumpRequests_kept (s : State) : RequestsKept s.journal s.pumpRequests.journal :=
  .of_settled (pumpRequests_settled s)

/-- A request placed (06 R90). -/
theorem place_kept (s : State) (p : Purpose) (live : Bool) : RequestsKept s.journal (s.place p live).journal :=
  .of_settled (pumpRequests_settled { s with journal := { s.journal with held := s.journal.held ++ [⟨p, live⟩] } })

/-- The Response Unit goes on with its erase list (11 R171). -/
theorem pumpErase_kept (s : State) : RequestsKept s.journal s.pumpErase.journal := by
  rw [State.pumpErase]
  split
  · exact .refl _
  · split
    · exact (place_kept _ _ _).beside rfl
    · exact .refl _

/-! ### Offers -/

theorem act_kept (s : State) (a : Action) : RequestsKept s.journal (s.act a).journal := by
  cases a with
  | eraseCredential id => exact (pumpErase_kept _).beside rfl
  | _ => exact .refl _

theorem judge_kept (src : Source) (before after : Nat) (s : State) (e : ResponseEntry × Nat) :
    RequestsKept s.journal (State.judge src before after s e).journal := by
  rw [State.judge]
  split
  · exact (act_kept _ _).beside rfl
  · exact .refl _

/-- An offer places at most removals (11 R169, R171). -/
theorem offer_kept (s : State) (src : Source) (before after : Nat) :
    RequestsKept s.journal (s.offer src before after).journal := by
  rw [State.offer]
  split
  · exact foldl_kept (judge_kept src before after) _ _
  · exact .refl _

theorem offerChange_kept (s : State) (src : Source) (before after : Word16) :
    RequestsKept s.journal (s.offerChange src before after).journal := by
  rw [State.offerChange]
  split
  · exact .refl _
  · exact offer_kept _ _ _ _

/-- A violation recorded (02 R36, R38). -/
theorem violate_kept (s : State) (kind : ViolationKind) (cls : OpClass) (p : Nat) (region : Option Nat) :
    RequestsKept s.journal (s.violate kind cls p region).journal := by
  simp only [State.violate]
  refine RequestsKept.trans ?_ (offerChange_kept _ _ _ _)
  cases region <;> exact (offerChange_kept _ _ _ _).beside rfl

/-! ### The boot check -/

theorem mismatch_kept (s : State) : RequestsKept s.journal s.mismatch.journal :=
  offerChange_kept { s with measure := { s.measure with mismatches := bump s.measure.mismatches } } _ _ _

theorem takeDigest_kept (s : State) (r : Region) (n : Nat) (kind : ExtendKind) (stage : Nat) (d : Digest) :
    RequestsKept s.journal (s.takeDigest r n kind stage d).journal := by
  simp only [State.takeDigest]
  split
  · exact (mismatch_kept _).beside rfl
  · exact .refl _

theorem recoveryDone_kept (s : State) (r : Region) (d : Digest) :
    RequestsKept s.journal (s.recoveryDone r d).journal := by
  simp only [State.recoveryDone]
  split <;> exact takeDigest_kept _ _ _ _ _ _

theorem checkOutcome_kept (s : State) : RequestsKept s.journal s.checkOutcome.journal := by
  rw [State.checkOutcome]
  split
  · rw [State.measureRecovery]
    split
    · exact mismatch_kept s
    · split
      · exact (recoveryDone_kept _ _ _).beside rfl
      · exact .refl _
  · exact .refl _

theorem passEnd_kept (s : State) (p : Pass) : RequestsKept s.journal (s.passEnd p).journal := by
  rw [State.passEnd]
  split
  · exact (checkOutcome_kept _).beside rfl
  · split
    · exact (place_kept _ _ _).beside rfl
    · exact (checkOutcome_kept _).beside rfl

theorem passRun_kept (todo : List Nat) (s : State) (p : Pass) : RequestsKept s.journal (s.passRun p todo).journal := by
  induction todo generalizing s p with
  | nil => exact passEnd_kept _ _
  | cons i rest ih =>
    rw [State.passRun]
    split
    · exact ih _ _
    · split
      · exact (ih _ _).after ((takeDigest_kept _ _ _ _ _ _).beside rfl)
      · exact .refl _

theorem offerRestored_kept (s : State) : RequestsKept s.journal s.offerRestored.journal := by
  refine foldl_kept (fun u id => ?_) _ _
  split
  · exact offer_kept _ _ _ _
  · exact .refl _

/-- A bank presented and a layout in force (09 R152, 11 R169). -/
theorem present_kept (s : State) (bank : Bank) (trial : Bool) (l : Option Layout) (source : LayoutSource) :
    RequestsKept s.journal (s.present bank trial l source).journal := by
  simp only [State.present, State.installLayout]
  split
  · exact (offerRestored_kept _).beside rfl
  · exact .refl _

theorem presentTrial_kept (s : State) : RequestsKept s.journal s.presentTrial.journal := by
  rw [State.presentTrial]
  split <;> exact present_kept _ _ _ _ _

theorem decideBoot_kept (s : State) : RequestsKept s.journal s.decideBoot.journal := by
  simp only [State.decideBoot]
  split
  · split
    · exact (place_kept _ _ _).beside rfl
    · exact RequestsKept.after (passRun_kept _ _ _) ((present_kept _ _ _ _ _).beside rfl)
  · exact RequestsKept.after (.refl _) ((present_kept _ _ _ _ _).beside rfl)

theorem proceedCheck_kept (s : State) : RequestsKept s.journal s.proceedCheck.journal := by
  rw [State.proceedCheck]
  split
  · exact decideBoot_kept s
  · exact .refl _

/-- An entry into CHECK (04 R58). -/
theorem enterCheck_kept (s : State) : RequestsKept s.journal s.enterCheck.journal := (proceedCheck_kept _).beside rfl

theorem endPulse_kept (s : State) : RequestsKept s.journal s.endPulse.journal := by
  rw [State.endPulse]
  split
  · exact enterCheck_kept s
  · exact .refl _

/-! ### The SoC reset -/

/-- Requests that nothing waits for any more are of the same sources (03 R48). -/
theorem orphan_kept (j : Journal) : RequestsKept j j.orphan := by
  refine .of_sources ?_ ?_
  · simp only [Journal.sources, Journal.placed, Journal.orphan]
    cases j.job <;> simp [Function.comp_def]
  · simp [Journal.orphan, Function.comp_def]

/-- The assertion of SOC_RST (04 R55). -/
theorem assertReset_kept (s : State) : RequestsKept s.journal s.assertReset.journal := by
  simp only [State.assertReset, State.abandonSession]
  split
  · exact RequestsKept.after (place_kept _ _ _) (orphan_kept _)
  · exact orphan_kept _

/-- An owner reset (04 R62). -/
theorem ownerReset_kept (s : State) : RequestsKept s.journal s.ownerReset.journal := by
  let recorded := State.recordCause { s with rst := { s.rst with hold := none } } .ownerReset
  have asked : RequestsKept s.journal
      (if s.isField then (recorded.place .ownerEpoch false).clearGrant else recorded).journal := by
    split
    · exact place_kept recorded _ _
    · exact .refl _
  simp only [State.ownerReset]
  split
  · exact asked.trans (assertReset_kept _)
  · exact asked.trans (orphan_kept _)
  all_goals exact asked

/-! ### Answers -/

theorem offerCount_kept (s : State) (id : Nat) (before after : Byte) :
    RequestsKept s.journal (s.offerCount id before after).journal := by
  rw [State.offerCount]
  split
  · exact .refl _
  · exact offer_kept _ _ _ _

theorem recordSet_journal (s : State) (id : Nat) (r : Option CredRecord) : (s.recordSet id r).journal = s.journal := by
  simp only [State.recordSet]
  split <;> rfl

theorem removeCred_journal (s : State) (id : Nat) : (s.removeCred id).journal = s.journal := by
  rw [removeCred_eq, recordSet_journal]

theorem startDecay_journal (s : State) (id : Nat) : (s.startDecay id).journal = s.journal := by
  simp only [State.startDecay]
  repeat' split
  all_goals rfl

theorem startDelay_journal (s : State) (id : Nat) : (s.startDelay id).journal = s.journal := by
  simp only [State.startDelay]
  repeat' split
  all_goals first | exact startDecay_journal s id | rfl

theorem finishIf_journal (s : State) (live : Bool) (r : Result) (body : Bytes) :
    (s.finishIf live r body).journal = s.journal := by
  rw [State.finishIf]
  split <;> rfl

theorem finishIf_kept (s : State) (live : Bool) (r : Result) (body : Bytes) :
    RequestsKept s.journal (s.finishIf live r body).journal := .of_eq (finishIf_journal s live r body)

theorem credStored_journal (s : State) (live : Bool) (id : Nat) (c : Credential) (epoch : Word32) :
    (s.credStored live id c epoch).journal = s.journal := by
  simp only [credStored_eq, State.answered]
  split <;> split <;> simp only [recordSet_journal]

theorem countWritten_kept (s : State) (live : Bool) (id : Nat) (count : Byte) (epoch : Word32) (candidate : Bytes) :
    RequestsKept s.journal (s.countWritten live id count epoch candidate).journal := by
  simp only [State.countWritten]
  split
  · exact finishIf_kept _ _ _ _
  · split
    · exact RequestsKept.after (place_kept _ _ _) ((offerCount_kept _ _ _ _).beside rfl)
    · refine RequestsKept.after (finishIf_kept _ _ _ _) ?_
      rw [startDelay_journal]
      exact (offerCount_kept _ _ _ _).beside rfl

theorem matchWritten_kept (s : State) (live : Bool) (id : Nat) (epoch : Word32) :
    RequestsKept s.journal (s.matchWritten live id epoch).journal := by
  simp only [State.matchWritten]
  split
  · exact finishIf_kept _ _ _ _
  · refine RequestsKept.after (finishIf_kept _ _ _ _) ?_
    rw [State.matchGrant]
    split <;> exact (offerCount_kept _ _ _ _).beside rfl

theorem countFallback_kept (s : State) : RequestsKept s.journal s.countFallback.journal := by
  simp only [State.countFallback]
  exact (offerChange_kept _ _ _ _).beside rfl

theorem trialDecided_kept (s : State) (live ok attempt : Bool) :
    RequestsKept s.journal (s.trialDecided live ok attempt).journal := by
  simp only [State.trialDecided]
  have presented : RequestsKept s.journal (if (live && s.rst.check == .waitEntry) = true then
      (if (ok && attempt) = true then s.presentTrial else s.presentActive) else s).journal := by
    split
    · split
      · exact presentTrial_kept s
      · exact present_kept _ _ _ _ _
    · exact .refl _
  revert presented
  generalize (if (live && s.rst.check == .waitEntry) = true then
      (if (ok && attempt) = true then s.presentTrial else s.presentActive) else s) = u
  intro presented
  have counted : RequestsKept s.journal (if (ok && !attempt) = true then u.countFallback else u).journal := by
    split
    · exact presented.trans (countFallback_kept u)
    · exact presented
  split
  · exact counted.trans (passRun_kept _ _ _)
  · exact counted

theorem fellBack_kept (s : State) (live ok trial : Bool) (bank : Bank) :
    RequestsKept s.journal (s.fellBack live ok trial bank).journal := by
  simp only [State.fellBack]
  cases ok with
  | false =>
    simp only [Bool.false_eq_true, if_false]
    split
    · exact (checkOutcome_kept _).beside rfl
    · exact .refl _
  | true =>
    simp only [if_true]
    cases live && s.rst.check == .waitFallback <;> cases trial <;> simp only [Bool.false_eq_true, if_true, if_false]
    · exact .refl _
    · exact countFallback_kept s
    · exact (passRun_kept _ _ _).beside rfl
    · exact (present_kept _ _ _ _ _).trans ((countFallback_kept _).trans (passRun_kept _ _ _))

/-- What the answer OK does gives no source a second request (06 R90). -/
theorem answeredOk_kept (s before : State) (q : StoreRequest) :
    RequestsKept s.journal (s.answeredOk before q).journal := by
  simp only [State.answeredOk]
  cases q.purpose with
  | keyCreate n k =>
    simp only [State.keyCreated]
    refine RequestsKept.trans ?_ (finishIf_kept _ _ _ _)
    split <;> exact .refl _
  | credStore id c epoch => exact .of_eq (credStored_journal _ _ _ _ _)
  | credCount id count epoch candidate => exact countWritten_kept _ _ _ _ _ _
  | credMatch id epoch => exact matchWritten_kept _ _ _ _
  | credErase id epoch => exact (finishIf_kept _ _ _ _).beside (removeCred_journal s id)
  | updateOpen m =>
    simp only [State.opened]
    split <;> exact .refl _
  | sessionAbandon => exact .refl _
  | ownerEpoch => exact .refl _
  | trialAttempt => exact trialDecided_kept _ _ _ _
  | trialTimeout => exact trialDecided_kept _ _ _ _
  | bootFallback => exact fellBack_kept _ _ _ _ _
  | responseErase id epoch => exact .of_eq (removeCred_journal s id)
  | _ => exact (finishIf_kept _ _ _ _).beside rfl

/-- Nor does what the answer STORE_FAULT does (06 R92, R100). -/
theorem answeredFault_kept (s : State) (q : StoreRequest) : RequestsKept s.journal (s.answeredFault q).journal := by
  have decayed (id : Nat) : RequestsKept s.journal (s.startDecay id).journal := .of_eq (startDecay_journal s id)
  simp only [State.answeredFault]
  cases q.purpose with
  | credCount id count epoch candidate => exact (decayed id).trans (finishIf_kept _ _ _ _)
  | credMatch id epoch => exact (decayed id).trans (finishIf_kept _ _ _ _)
  | trialAttempt => exact trialDecided_kept _ _ _ _
  | trialTimeout => exact trialDecided_kept _ _ _ _
  | bootFallback => exact fellBack_kept _ _ _ _ _
  | sessionAbandon => exact .refl _
  | ownerEpoch => exact .refl _
  | responseErase id epoch => exact .refl _
  | _ => exact finishIf_kept _ _ _ _

theorem takeRecord_journal (s : State) (q : StoreRequest) : (s.takeRecord q).journal = s.journal := by
  rw [State.takeRecord]
  split <;> rfl

/-- After an answer, the requests held meanwhile are placed or wait again (06 R90). -/
theorem answerStore_settled (s : State) (q : StoreRequest) (ok : Bool) (once : s.journal.sources.Nodup) :
    (s.answerStore q ok).journal.requestsSafe := by
  have answered : (if ok then (s.takeRecord q).answeredOk s q else s.answeredFault q).journal.sources.Nodup := by
    split
    · exact (answeredOk_kept _ s q).once (takeRecord_journal s q ▸ once)
    · exact (answeredFault_kept s q).once once
  rw [State.answerStore, State.afterAnswer]
  exact ((pumpErase_kept _).trans ((proceedCheck_kept _).trans (endPulse_kept _))).safe
    (pumpRequests_settled _ answered)

/-! ### The request in progress -/

/-- The journal with a request in progress. -/
def Journal.working (j : Journal) (job : Job) : Journal := { j with job := some job }

/-- Without its request in progress a journal has one request for each source still. -/
theorem once_of_working {j k : Journal} {job : Job} (once : (j.working job).sources.Nodup) (free : k.job = none)
    (queue : k.queue = j.queue) : k.sources.Nodup := by
  simp only [Journal.sources, Journal.placed, Journal.working, free, queue, Option.map_some, Option.map_none,
    Option.toList_some, Option.toList_none, List.singleton_append, List.nil_append, List.map_cons] at once ⊢
  exact (List.nodup_cons.1 once).2

/-- The same request goes to another step. -/
theorem working_kept (j : Journal) {job job' : Job} (same : job'.request = job.request) :
    RequestsKept (j.working job) (j.working job') := by
  refine .of_sources ?_ rfl
  simp [Journal.sources, Journal.placed, Journal.working, same]

/-- A request that fails (06 R92). -/
theorem failRequest_kept (s : State) (job : Job) :
    RequestsKept (s.journal.working job) (s.failRequest job).journal :=
  .of_settled fun once => answerStore_settled _ _ _ (once_of_working once rfl rfl)

/-- A request with every entry durable (06 R91). -/
theorem entriesDone_kept (s : State) (job : Job) :
    RequestsKept (s.journal.working job) (s.entriesDone job).journal := by
  simp only [State.entriesDone]
  split
  · exact working_kept _ rfl
  · exact .of_settled fun once => answerStore_settled _ _ _ (once_of_working once rfl rfl)

theorem programNext_kept (s : State) (job : Job) (k : WriteKind) (w : Writing) (pages : List (Nat × Bytes)) :
    RequestsKept (s.journal.working job) (s.programNext job k w pages).journal := by
  cases pages <;> exact working_kept _ rfl

theorem beginWrite_kept (s : State) (job : Job) (k : WriteKind) (w : Writing) :
    RequestsKept (s.journal.working job) (s.beginWrite job k w).journal := programNext_kept _ _ _ _ _

/-- The next entry of a request (06 R91). -/
theorem nextEntry_kept (s : State) (job : Job) : RequestsKept (s.journal.working job) (s.nextEntry job).journal := by
  rw [State.nextEntry]
  split
  · exact entriesDone_kept s job
  · simp only [State.beginEntry]
    split
    · exact failRequest_kept s job
    · split
      · exact working_kept _ rfl
      · split
        · exact beginWrite_kept _ _ _ _
        · exact working_kept _ rfl

/-- A durable entry leaves the requests as they are (06 R91, R95). -/
theorem durable_kept (s : State) (e : StoreEntry) (g : Word32) (w : Writing) {job job' : Job}
    (same : job'.request = job.request) :
    RequestsKept (s.journal.working job) ((s.durable e g w).journal.working job') := by
  refine RequestsKept.trans ?_ (working_kept _ same)
  by_cases kind : e.kind = .ownerEpoch
  · rw [(durable_of_ownerEpoch kind s g w).1]
    exact .of_sources rfl rfl
  · rw [durable_of_plain kind]
    exact .of_sources rfl rfl

theorem copyNext_kept (s : State) (job : Job) (todo copied : List IndexRecord) :
    RequestsKept (s.journal.working job) (s.copyNext job todo copied).journal := by
  cases todo with
  | nil => exact beginWrite_kept _ _ _ _
  | cons r rest => exact working_kept _ rfl

theorem writeDone_kept (s : State) (job : Job) (k : WriteKind) (w : Writing) :
    RequestsKept (s.journal.working job) (s.writeDone job k w).journal := by
  cases k with
  | entry g =>
    cases todo : job.todo with
    | nil =>
      simp only [State.writeDone, State.entryWritten, todo]
      exact entriesDone_kept s job
    | cons e rest =>
      rw [State.writeDone, entryWritten_eq todo]
      exact (nextEntry_kept _ _).after (durable_kept s e g w rfl)
  | copy r rest copied => exact copyNext_kept s job _ _
  | checkpoint copied => exact (nextEntry_kept _ job).after (.of_sources rfl rfl)

theorem compactionFailed_kept (s : State) (job : Job) (w : Option Writing) :
    RequestsKept (s.journal.working job) (s.compactionFailed job w).journal := by
  simp only [State.compactionFailed]
  split
  · cases w with
    | some w => exact working_kept _ rfl
    | none => exact failRequest_kept s job
  · exact working_kept _ rfl

theorem writeFailed_kept (s : State) (job : Job) (k : WriteKind) (w : Writing) :
    RequestsKept (s.journal.working job) (s.writeFailed job k w).journal := by
  cases k with
  | entry g => exact working_kept _ rfl
  | copy r rest copied => exact compactionFailed_kept s job (some w)
  | checkpoint copied => exact compactionFailed_kept s job (some w)

theorem spoilRead_kept (s : State) (job : Job) (w : Writing) (final : Bool) (got : Bytes) :
    RequestsKept (s.journal.working job) (s.spoilRead job w final got).journal := by
  rw [State.spoilRead]
  split
  · exact failRequest_kept s job
  · split
    · exact (nextEntry_kept _ _).after (.of_sources rfl rfl)
    · exact working_kept _ rfl

theorem copyRead_kept (s : State) (job : Job) (r : IndexRecord) (rest copied : List IndexRecord) (got : Bytes) :
    RequestsKept (s.journal.working job) (s.copyRead job r rest copied got).journal := by
  rw [State.copyRead]
  split
  · exact beginWrite_kept _ _ _ _
  · exact compactionFailed_kept s job none

/-- The journal is the one with its request in progress. -/
theorem working_of_job {j : Journal} {job : Job} (inProgress : j.job = some job) : j.working job = j := by
  rw [Journal.working, ← inProgress]

/-- A program or erase of the Journal Store completes (06 R91, R93). -/
theorem journalOpDone_kept (s : State) : RequestsKept s.journal s.journalOpDone.journal := by
  rw [State.journalOpDone]
  cases inProgress : s.journal.job with
  | none => exact .refl _
  | some job =>
    refine RequestsKept.beside ?_ (working_of_job inProgress)
    simp only
    split
    · exact programNext_kept s job _ _ _
    · exact working_kept _ rfl
    · exact working_kept _ rfl
    · exact copyNext_kept s job _ _
    all_goals exact .of_eq (working_of_job inProgress).symm

/-- A read chunk of the request in progress completes (06 R91 ~ R94). -/
theorem journalChunk_kept (s : State) (bs : Bytes) : RequestsKept s.journal (s.journalChunk bs).journal := by
  rw [State.journalChunk]
  cases inProgress : s.journal.job with
  | none => exact .refl _
  | some job =>
    refine RequestsKept.beside ?_ (working_of_job inProgress)
    simp only
    split
    · split
      · exact working_kept _ rfl
      · split
        · exact writeDone_kept s job _ _
        · exact writeFailed_kept s job _ _
    · exact spoilRead_kept s job _ _ bs
    · split
      · exact working_kept _ rfl
      · exact copyRead_kept s job _ _ _ _
    all_goals exact .of_eq (working_of_job inProgress).symm

/-- The oldest request is taken, or refused (06 R90, R100). -/
theorem takeRequest_kept (s : State) : RequestsKept s.journal s.takeRequest.journal := by
  rw [State.takeRequest]
  cases inProgress : s.journal.job with
  | some job => exact .refl _
  | none =>
    cases queue : s.journal.queue with
    | nil => exact .refl _
    | cons q rest =>
      have sources : s.journal.sources = q.purpose.source :: rest.map (fun q => q.purpose.source) := by
        simp [Journal.sources, Journal.placed, inProgress, queue]
      have refused : RequestsKept s.journal (State.answerStore
          (State.contain { s with journal := { s.journal with queue := rest } } .storeFault) q false).journal := by
        refine .of_settled fun once => answerStore_settled _ _ _ ?_
        rw [sources] at once
        simpa [Journal.sources, Journal.placed, inProgress] using (List.nodup_cons.1 once).2
      cases state : s.journal.state with
      | scanning => exact .refl _
      | ready => exact (nextEntry_kept _ _).after (.of_sources sources.symm rfl)
      | stale => exact refused
      | fault => exact refused

/-- A write to anchor memory completes (06 R86, R91, 12 R178). -/
theorem anchorWritten_kept (s : State) : RequestsKept s.journal s.anchorWritten.journal := by
  rw [State.anchorWritten]
  cases s.anchor.writes with
  | nil => exact .refl _
  | cons write rest =>
    cases write with
    | field =>
      simp only [State.finishProvisioning]
      split
      · split <;> exact .refl _
      · exact .refl _
    | request floor hash =>
      cases inProgress : s.journal.job with
      | none => exact .refl _
      | some job =>
        simp only
        split
        · refine RequestsKept.beside ?_ (working_of_job inProgress)
          exact .of_settled fun once => answerStore_settled _ _ _ (once_of_working once rfl rfl)
        · exact .refl _

/-! ### Start-up -/

theorem startRestored_kept (s : State) : RequestsKept s.journal s.startRestored.journal := by
  refine foldl_kept (fun u id => ?_) _ _
  split
  · split
    · exact .refl _
    · exact .of_eq (startDelay_journal _ _)
  · exact .refl _

theorem startupComplete_kept (s : State) (outcome : StoreState) :
    RequestsKept s.journal (s.startupComplete outcome).journal := by
  simp only [State.startupComplete]
  have restored := (startRestored_kept { s with journal := { s.journal with state := outcome, scan := none } }).after
    (i := s.journal) (.of_sources rfl rfl)
  revert restored
  generalize State.startRestored { s with journal := { s.journal with state := outcome, scan := none } } = u
  intro restored
  split
  · exact restored
  · exact (enterCheck_kept _).after restored

theorem handNext_kept (s : State) (outcome : StoreState) (todo : List IndexRecord) :
    RequestsKept s.journal (s.handNext outcome todo).journal := by
  cases todo with
  | nil => exact startupComplete_kept s outcome
  | cons r rest => exact .of_sources rfl rfl

theorem handOver_journal (s : State) (e : FoundEntry) : (s.handOver e).journal = s.journal := by
  simp only [State.handOver, State.takeBank, State.takeAuthority, State.takeCred, State.takeCount]
  cases e.kind <;> simp only
  case bank => split <;> rfl
  case key => repeat' split
              all_goals rfl
  case cred => split <;> rfl
  case count => repeat' split
                all_goals rfl

theorem scanned_kept (s : State) (outcome : StoreState) (index : List IndexRecord) :
    RequestsKept s.journal (s.scanned outcome index).journal := by
  simp only [State.scanned]
  refine (handNext_kept _ _ _).beside ?_
  split <;> rfl

theorem probesFailed_kept (s : State) (f : Option Found) (neither : Bool) :
    RequestsKept s.journal (s.probesFailed f neither).journal := by
  cases f with
  | some f => exact (scanned_kept _ _ _).after (.of_sources rfl rfl)
  | none =>
    simp only [State.probesFailed]
    split <;> exact scanned_kept _ _ _

theorem areaRead_kept (s : State) (area : Capacity) (half0 half1 : Memory) :
    RequestsKept s.journal (s.areaRead area half0 half1).journal := by
  simp only [State.areaRead]
  have next : RequestsKept s.journal (s.probe .mib32 [] [] 0).journal := .of_sources rfl rfl
  split
  · split
    · simp only [State.probeSucceeded]
      split
      · exact (scanned_kept _ _ _).after (.of_sources rfl rfl)
      · split <;> exact (scanned_kept _ _ _).after (.of_sources rfl rfl)
    · split
      · exact next
      · exact probesFailed_kept _ _ _
  · split
    · exact next
    · exact probesFailed_kept _ _ _

/-- A chunk of the scan completes (06 R96 ~ R99). -/
theorem scanChunk_kept (s : State) (bs : Bytes) : RequestsKept s.journal (s.scanChunk bs).journal := by
  simp only [State.scanChunk]
  split
  · exact .refl _
  · split
    · exact .of_sources rfl rfl
    · exact areaRead_kept _ _ _ _
  · exact .refl _
  · split
    · exact .of_sources rfl rfl
    · rw [State.handRead]
      split
      · exact (handNext_kept _ _ _).beside (handOver_journal _ _)
      · exact (handNext_kept _ _ _).beside rfl

/-! ### Stage advance and verification -/

theorem advanceTake_kept (s : State) (r : Region) (d : Digest) :
    RequestsKept s.journal (s.advanceTake r d).journal := by
  simp only [State.advanceTake]
  split <;> exact takeDigest_kept _ _ _ _ _ _

theorem advanceRun_kept (todo : List Nat) (s : State) (a : Advance) :
    RequestsKept s.journal (s.advanceRun a todo).journal := by
  induction todo generalizing s a with
  | nil => exact .refl _
  | cons i rest ih =>
    rw [State.advanceRun]
    split
    · exact ih _ _
    · split
      · exact (ih _ _).after (advanceTake_kept _ _ _)
      · exact .refl _

theorem regionDone_kept (s : State) (m : Measuring) : RequestsKept s.journal (s.regionDone m).journal := by
  simp only [State.regionDone]
  split
  · exact .refl _
  · split
    · exact (advanceRun_kept _ _ _).after (advanceTake_kept _ _ _)
    · split
      · exact (passRun_kept _ _ _).after (takeDigest_kept _ _ _ _ _ _)
      · exact recoveryDone_kept _ _ _
      · exact .refl _

theorem measureChunk_kept (s : State) (bs : Bytes) : RequestsKept s.journal (s.measureChunk bs).journal := by
  simp only [State.measureChunk]
  split
  · exact .refl _
  · split
    · exact .refl _
    · exact (regionDone_kept _ _).beside rfl

theorem verifyRun_journal (targets : List Target) (s : State) (m : Manifest) (hashed : Nat) :
    (s.verifyRun m hashed targets).journal = s.journal := by
  induction targets with
  | nil => rfl
  | cons t rest ih =>
    rw [State.verifyRun]
    split
    · split
      · exact ih
      · rfl
    · rfl

theorem verifyChunk_journal (s : State) (bs : Bytes) : (s.verifyChunk bs).journal = s.journal := by
  simp only [State.verifyChunk]
  split
  · split
    · rfl
    · split
      · rfl
      · split
        · exact verifyRun_journal _ _ _ _
        · rfl
  · rfl

/-! ### The SoC Port -/

theorem readDataByte_kept (s : State) (misread : FlashCells) :
    RequestsKept s.journal (s.readDataByte misread).journal := by
  rw [State.readDataByte]
  split
  · split
    · split
      · split
        · exact .refl _
        · simp only [State.serveFlash]
          repeat' split
          all_goals exact .refl _
        · simp only [State.serveFill]
          split
          · split
            · exact .refl _
            · exact (violate_kept _ _ _ _ _).beside rfl
          · exact .refl _
      · exact .refl _
    · exact .refl _
  · exact .refl _

theorem submit_journal (s : State) : s.submit.journal = s.journal := by
  simp only [State.submit, State.examine]
  repeat' split
  all_goals rfl

theorem windowProgram_kept (s : State) (p : Nat) (page : List (Option Byte)) :
    RequestsKept s.journal (s.windowProgram p page).journal := by
  rw [State.windowProgram]
  split
  · exact .refl _
  · exact violate_kept _ _ _ _ _

theorem handWrite_journal (s : State) (w : SocWrite) : (s.handWrite w).journal = s.journal := by
  rw [State.handWrite]
  split <;> rfl

theorem placeProgram_kept (s : State) (e : OpcodeEntry) (p : Nat) (page : List (Option Byte)) :
    RequestsKept s.journal (s.placeProgram e p page).journal := by
  rw [State.placeProgram]
  split
  · exact windowProgram_kept _ _ _
  · exact violate_kept _ _ _ _ _
  · exact .of_eq (handWrite_journal _ _)

theorem placeErase_kept (s : State) (e : OpcodeEntry) (p size : Nat) :
    RequestsKept s.journal (s.placeErase e p size).journal := by
  rw [State.placeErase]
  split
  · exact .of_eq (submit_journal s)
  · exact violate_kept _ _ _ _ _
  · exact .of_eq (handWrite_journal _ _)

theorem judgeWrite_kept (s : State) (cls : OpClass) (p : Nat) {act : State → State}
    (kept : ∀ u, RequestsKept u.journal (act u).journal) : RequestsKept s.journal (s.judgeWrite cls p act).journal := by
  simp only [State.judgeWrite]
  split
  · split
    · exact (violate_kept _ _ _ _ _).beside rfl
    · exact (kept _).beside rfl
  · exact .refl _

theorem programTransaction_kept (s : State) (opcode : Byte) (received : Bytes) :
    RequestsKept s.journal (s.programTransaction opcode received).journal := by
  simp only [State.programTransaction]
  split
  · split
    · exact .refl _
    · exact (judgeWrite_kept _ _ _ fun u => placeProgram_kept u _ _ _).beside rfl
  · exact .refl _

theorem eraseTransaction_kept (s : State) (cls : OpClass) (size : Nat) (opcode : Byte) (received : Bytes) :
    RequestsKept s.journal (s.eraseTransaction cls size opcode received).journal := by
  simp only [State.eraseTransaction]
  split
  · split
    · exact .refl _
    · exact (judgeWrite_kept _ _ _ fun u => placeErase_kept u _ _ _).beside rfl
  · exact .refl _

theorem plainTransaction_kept (s : State) (cls : OpClass) (opcode : Byte) (n : Nat) {f : State → State}
    (kept : ∀ u, RequestsKept u.journal (f u).journal) :
    RequestsKept s.journal (s.plainTransaction cls opcode n f).journal := by
  simp only [State.plainTransaction]
  split
  · exact (kept _).beside rfl
  · exact .refl _

theorem openRead_journal (s : State) (cls : OpClass) (opcode : Byte) (received : Bytes) :
    (s.openRead cls opcode received).journal = s.journal := by
  simp only [State.openRead]
  split <;> rfl

theorem answer_journal (s : State) (opcode : Byte) (cls : OpClass) (n : Nat) (byte : Nat → Byte) :
    (s.answer opcode cls n byte).journal = s.journal := by
  simp only [State.answer]
  split <;> rfl

theorem refuseOpcode_kept (s : State) (opcode : Byte) (n : Nat) :
    RequestsKept s.journal (s.refuseOpcode opcode n).journal := by
  simp only [State.refuseOpcode]
  split
  · split
    · split
      · exact (violate_kept _ _ _ _ _).beside rfl
      · split <;> exact .refl _
    · exact .refl _
  · exact .refl _

theorem startTransaction_journal (s : State) : s.startTransaction.journal = s.journal := by
  simp only [State.startTransaction]
  split <;> rfl

theorem endTransaction_journal (s : State) : s.endTransaction.journal = s.journal := by
  simp only [State.endTransaction]
  split
  · rfl
  · split <;> rfl

/-! ### Commands of the control window

Each branch refuses, answers, waits or places one request. -/

theorem credStore_kept (s : State) (body : Bytes) : RequestsKept s.journal (s.credStore body).journal := by
  simp only [State.credStore]
  repeat' split
  all_goals first | exact .refl _ | exact (place_kept _ _ _).beside rfl

theorem credRelease_journal (s : State) (body : Bytes) : (s.credRelease body).journal = s.journal := by
  simp only [State.credRelease]
  repeat' split
  all_goals rfl

theorem credVerify_kept (s : State) (body : Bytes) : RequestsKept s.journal (s.credVerify body).journal := by
  simp only [State.credVerify]
  repeat' split
  all_goals first | exact .refl _ | exact (place_kept _ _ _).beside rfl

theorem credErase_kept (s : State) (body : Bytes) : RequestsKept s.journal (s.credErase body).journal := by
  simp only [State.credErase]
  repeat' split
  all_goals first | exact .refl _ | exact (place_kept _ _ _).beside rfl

theorem stageAdvance_kept (s : State) (body : Bytes) : RequestsKept s.journal (s.stageAdvance body).journal := by
  simp only [State.stageAdvance]
  split
  · split
    · exact .refl _
    · have frozen := foldl_kept (change := State.freeze) (fun u _ => .refl u.journal)
      exact (advanceRun_kept _ _ _).after ((frozen _ s.wait).beside rfl)
  · exact .refl _

theorem measureExtend_journal (s : State) (body : Bytes) : (s.measureExtend body).journal = s.journal := by
  simp only [State.measureExtend]
  repeat' split
  all_goals rfl

theorem measureRead_journal (s : State) (body : Bytes) : (s.measureRead body).journal = s.journal := by
  simp only [State.measureRead]
  split <;> rfl

theorem logRead_journal (s : State) (body : Bytes) : (s.logRead body).journal = s.journal := by
  simp only [State.logRead]
  split <;> rfl

theorem keyCreate_journal (s : State) (body : Bytes) : (s.keyCreate body).journal = s.journal := by
  simp only [State.keyCreate]
  repeat' split
  all_goals rfl

theorem keyPublic_journal (s : State) (body : Bytes) : (s.keyPublic body).journal = s.journal := by
  simp only [State.keyPublic]
  split
  · rfl
  · split <;> rfl

theorem keySign_journal (s : State) (body : Bytes) : (s.keySign body).journal = s.journal := by
  simp only [State.keySign]
  split
  · split <;> rfl
  · rfl

theorem keyDerive_journal (s : State) (body : Bytes) : (s.keyDerive body).journal = s.journal := by
  simp only [State.keyDerive]
  split
  · split <;> rfl
  · rfl

theorem keyDestroy_kept (s : State) (body : Bytes) : RequestsKept s.journal (s.keyDestroy body).journal := by
  simp only [State.keyDestroy]
  repeat' split
  all_goals first | exact .refl _ | exact (place_kept _ _ _).beside rfl

theorem startPulse_kept (s : State) (c : ResetCause) : RequestsKept s.journal (s.startPulse c).journal :=
  (assertReset_kept (s.recordCause c)).beside rfl

theorem resetSoc_kept (s : State) (body : Bytes) : RequestsKept s.journal (s.resetSoc body).journal := by
  rw [State.resetSoc]
  split
  · split
    · exact startPulse_kept s .command
    · exact .refl _
  · exact .refl _

theorem causeClear_journal (s : State) (body : Bytes) : (s.causeClear body).journal = s.journal := by
  simp only [State.causeClear]
  repeat' split
  all_goals rfl

theorem updateOpen_journal (s : State) (body : Bytes) : (s.updateOpen body).journal = s.journal := by
  rw [State.updateOpen]
  repeat' split
  all_goals rfl

theorem updateVerify_journal (s : State) (body : Bytes) : (s.updateVerify body).journal = s.journal := by
  simp only [State.updateVerify]
  split
  · split
    · exact verifyRun_journal _ _ _ _
    · rfl
  · rfl

theorem updateCommit_kept (s : State) (body : Bytes) : RequestsKept s.journal (s.updateCommit body).journal := by
  rw [State.updateCommit]
  split
  · split
    · exact (place_kept _ _ _).beside rfl
    · exact .refl _
  · exact .refl _

theorem updateAbort_kept (s : State) (body : Bytes) : RequestsKept s.journal (s.updateAbort body).journal := by
  rw [State.updateAbort]
  split
  · split
    · exact (place_kept _ _ _).beside rfl
    · exact .refl _
  · exact .refl _

theorem updateConfirm_kept (s : State) (body : Bytes) : RequestsKept s.journal (s.updateConfirm body).journal := by
  rw [State.updateConfirm]
  repeat' split
  all_goals first | exact .refl _ | exact (place_kept _ _ _).beside rfl

theorem events_journal (s : State) (body : Bytes) : (s.events body).journal = s.journal := by
  simp only [State.events]
  split <;> rfl

theorem layoutRead_journal (s : State) (body : Bytes) : (s.layoutRead body).journal = s.journal := by
  simp only [State.layoutRead]
  split <;> rfl

theorem attest_journal (s : State) (body : Bytes) : (s.attest body).journal = s.journal := by
  simp only [State.attest]
  split <;> rfl

theorem provisionLayout_kept (s : State) (body : Bytes) : RequestsKept s.journal (s.provisionLayout body).journal := by
  rw [State.provisionLayout]
  split
  · exact .refl _
  · split
    · exact .refl _
    · split
      · exact (place_kept _ _ _).after (.of_sources rfl rfl)
      · exact .refl _

theorem provisionAuthority_kept (s : State) (body : Bytes) :
    RequestsKept s.journal (s.provisionAuthority body).journal := by
  rw [State.provisionAuthority]
  repeat' split
  all_goals first | exact .refl _ | exact (place_kept _ _ _).beside rfl

theorem provisionBank_kept (s : State) (body : Bytes) : RequestsKept s.journal (s.provisionBank body).journal := by
  rw [State.provisionBank]
  repeat' split
  all_goals first | exact .refl _ | exact (place_kept _ _ _).beside rfl

theorem provisionFinish_journal (s : State) (body : Bytes) : (s.provisionFinish body).journal = s.journal := by
  rw [State.provisionFinish]
  repeat' split
  all_goals rfl

/-- The Signature Unit completes its operation (07 R106, 08 R123, 09 R144). -/
theorem signatureDone_kept (s : State) (job : SignatureJob) : RequestsKept s.journal (s.signatureDone job).journal := by
  have used (u : State) (n : Nat) (k : KeyRecord) (result : Bytes) :
      (u.completeUse n k result).journal = u.journal := by
    rw [State.completeUse]
    split <;> rfl
  cases job with
  | createKey slot cls sign mask needsGrant containedOk bind => exact (place_kept _ _ _).beside rfl
  | sign slot key digest => exact .of_eq (used (s.draw signDraws) _ _ _)
  | derive slot key message => exact .of_eq (used s _ _ _)
  | salt id content value => exact (place_kept _ _ _).beside rfl
  | attest report => exact .refl _
  | manifest body =>
    simp only [State.signatureDone, State.manifestDone]
    split
    · exact .refl _
    · exact place_kept _ _ _

/-! ### Every command -/

theorem take_kept (s : State) (c : Command) {f : Bytes → State}
    (kept : ∀ body, RequestsKept s.journal (f body).journal) : RequestsKept s.journal (s.take c f).journal := by
  rw [State.take]
  split
  · split
    · exact kept _
    · exact .refl _
  · exact .refl _

theorem whenPowered_kept (s : State) {u : State} (kept : RequestsKept s.journal u.journal) :
    RequestsKept s.journal (s.whenPowered u).journal := by
  rw [State.whenPowered]
  split
  · exact kept
  · exact .refl _

/-- At power-on there is no request (06 R86, R90). -/
theorem initial_requestsSafe (secret : Digest) : (Journal.initial secret).requestsSafe :=
  ⟨List.nodup_nil, fun _ held => nomatch held⟩

theorem requestAsserted_kept (s : State) : RequestsKept s.journal s.requestAsserted.journal := by
  rw [State.requestAsserted]
  split
  · exact orphan_kept _
  · exact assertReset_kept s
  all_goals exact .refl _

theorem internalDone_kept (s : State) (r : Requester) (op : FlashOp) (failed : FlashCells) :
    RequestsKept s.journal (s.internalDone r op failed).journal := by
  rw [internalDone_eq]
  split
  · exact (journalOpDone_kept _).beside rfl
  · exact .refl _

theorem storeChunk_kept (s : State) (bs : Bytes) : RequestsKept s.journal (s.storeChunk bs).journal := by
  rw [State.storeChunk]
  split
  · exact scanChunk_kept s bs
  · exact journalChunk_kept s bs

/-- Whatever a command leads to keeps one request for each source (06 R90). -/
theorem exec_requestsKept (i : Instr) (s t : State) (run : exec i s = .next t) : RequestsKept s.journal t.journal := by
  have next {u : State} (kept : RequestsKept s.journal u.journal) :
      ∀ t, Host.Outcome.next (φ := Fault) (ρ := Refusal) u = .next t → RequestsKept s.journal t.journal :=
    fun t same => Host.Outcome.next.inj same ▸ kept
  have powered {u : State} (kept : RequestsKept s.journal u.journal) := next (whenPowered_kept s kept)
  have taken {c : Command} {f : Bytes → State} (kept : ∀ body, RequestsKept s.journal (f body).journal) :=
    next (take_kept s c kept)
  have reports {c : Command} {f : Bytes → State} (same : ∀ body, (f body).journal = s.journal) :=
    next (take_kept s c fun body => .of_eq (same body))
  revert t run
  cases i with
  | powerOn => exact next (.of_settled fun _ => initial_requestsSafe _)
  | lossOfSupply torn => exact powered (.of_settled fun _ => initial_requestsSafe _)
  | uptimeTick => exact powered (.refl _)
  | transactionStart => exact next (.of_eq (startTransaction_journal s))
  | transactionEnd => exact next (.of_eq (endTransaction_journal s))
  | suspendComplete =>
    refine powered ?_
    split <;> exact .refl _
  | read opcode received => exact next (.of_eq (openRead_journal s _ _ _))
  | fastRead opcode received => exact next (.of_eq (openRead_journal s _ _ _))
  | readDataByte misread => exact powered (readDataByte_kept s misread)
  | program opcode received => exact next (programTransaction_kept s _ _)
  | erase4k opcode received => exact next (eraseTransaction_kept s _ _ _ _)
  | erase64k opcode received => exact next (eraseTransaction_kept s _ _ _ _)
  | eraseChip bare =>
    refine next (plainTransaction_kept s _ _ _ fun u => ?_)
    split
    · exact (violate_kept _ _ _ _ _).beside rfl
    · exact .refl _
  | writeEnable bare => exact next (plainTransaction_kept s _ _ _ fun u => .refl _)
  | writeDisable bare => exact next (plainTransaction_kept s _ _ _ fun u => .refl _)
  | statusRead opcode n => exact next (.of_eq (answer_journal s _ _ _ _))
  | idRead opcode n => exact next (.of_eq (answer_journal s _ _ _ _))
  | refusedOpcode opcode n => exact next (refuseOpcode_kept s _ _)
  | internalGrant =>
    refine powered ?_
    split
    · split <;> exact .refl _
    · exact .refl _
  | readChunkComplete misread =>
    refine powered ?_
    split
    · exact (measureChunk_kept _ _).beside rfl
    · split
      · exact .of_eq (verifyChunk_journal _ _)
      · rw [State.withdrawnDone]
        split <;> exact .refl _
  | storeReadChunkComplete misread =>
    refine powered ?_
    split
    · exact (storeChunk_kept _ _).beside rfl
    · exact .refl _
  | flashOperationComplete failed =>
    refine powered ?_
    split
    · exact .refl _
    · exact .refl _
    · exact internalDone_kept _ _ _ _
    all_goals exact .refl _
  | storeRequestTaken => exact powered (takeRequest_kept s)
  | signatureUnitComplete =>
    refine powered ?_
    split
    · exact (signatureDone_kept _ _).beside rfl
    · exact .refl _
  | rstReqAsserted =>
    refine next ?_
    split
    · exact .refl _
    · exact (whenPowered_kept _ (requestAsserted_kept _)).beside rfl
  | rstReqDeasserted =>
    refine next ?_
    split
    · refine RequestsKept.beside (whenPowered_kept { s with lines := { s.lines with rstReq := false } } ?_) rfl
      split
      · exact enterCheck_kept _
      · exact .refl _
    · exact .refl _
  | pulseEnd =>
    refine powered ?_
    split
    · exact (endPulse_kept _).beside rfl
    · exact .refl _
  | ownerClrAsserted =>
    refine next ?_
    split
    · exact .refl _
    · refine RequestsKept.beside (whenPowered_kept { s with lines := { s.lines with ownerClr := true } } ?_) rfl
      split <;> exact .refl _
  | ownerClrDeasserted =>
    refine next ?_
    split
    · refine RequestsKept.beside (whenPowered_kept { s with lines := { s.lines with ownerClr := false } } ?_) rfl
      exact .refl _
    · exact .refl _
  | ownerReset =>
    refine powered ?_
    split
    · exact ownerReset_kept s
    · exact .refl _
  | trialTimerExpiry =>
    refine powered ?_
    split
    · exact startPulse_kept s _
    · exact .refl _
  | grantExpiry =>
    refine powered ?_
    split <;> exact .refl _
  | delayExpiry id =>
    refine powered ?_
    split
    · split
      · split
        · exact .of_eq (startDecay_journal _ _)
        · exact .refl _
      · exact .refl _
    · exact .refl _
  | decayExpiry id =>
    refine powered ?_
    split
    · split
      · simp only
        split
        · rw [startDecay_journal]
          exact (offerCount_kept _ _ _ _).beside rfl
        · exact .refl _
      · exact .refl _
    · exact .refl _
  | status => exact reports fun _ => rfl
  | events => exact reports (events_journal s)
  | resetSoc => exact taken (resetSoc_kept s)
  | causeClear => exact reports (causeClear_journal s)
  | stageAdvance => exact taken (stageAdvance_kept s)
  | measureExtend => exact reports (measureExtend_journal s)
  | measureRead => exact reports (measureRead_journal s)
  | logRead => exact reports (logRead_journal s)
  | attest => exact reports (attest_journal s)
  | keyCreate => exact reports (keyCreate_journal s)
  | keyPublic => exact reports (keyPublic_journal s)
  | keySign => exact reports (keySign_journal s)
  | keyDerive => exact reports (keyDerive_journal s)
  | keyDestroy => exact taken (keyDestroy_kept s)
  | keyList => exact reports fun _ => rfl
  | credStore => exact taken (credStore_kept s)
  | credRelease => exact reports (credRelease_journal s)
  | credVerify => exact taken (credVerify_kept s)
  | credErase => exact taken (credErase_kept s)
  | credList => exact reports fun _ => rfl
  | grantDrop => exact reports fun _ => rfl
  | updateOpen => exact reports (updateOpen_journal s)
  | updateVerify => exact reports (updateVerify_journal s)
  | updateStatus => exact reports fun _ => rfl
  | updateCommit => exact taken (updateCommit_kept s)
  | updateAbort => exact taken (updateAbort_kept s)
  | updateConfirm => exact taken (updateConfirm_kept s)
  | violationRead => exact reports fun _ => rfl
  | layoutRead => exact reports (layoutRead_journal s)
  | provisionLayout => exact taken (provisionLayout_kept s)
  | provisionAuthority => exact taken (provisionAuthority_kept s)
  | provisionBank => exact taken (provisionBank_kept s)
  | provisionFinish => exact reports (provisionFinish_journal s)
  | anchorMemoryWriteComplete => exact powered (anchorWritten_kept s)

/-- Every step keeps one request for each source, and the held ones waiting (06 R90). -/
theorem step_requestsKept (s t : State) (run : step s = .next t) : RequestsKept s.journal t.journal := by
  rw [step] at run
  split at run
  · cases run
    rw [State.idle]
    split <;> exact .refl _
  · exact (exec_requestsKept _ _ t run).beside rfl

end Sys2Proof.Machine

open Sys2Proof Sys2Proof.Machine

/-- Settles O4: requests join the queue only where their source has none, and what is left over waits. -/
theorem stepKeepsStoreQueueSafe : Obligations.StepKeepsStoreQueueSafe := by
  intro s t safe run
  have kept : t.journal.requestsSafe := (step_requestsKept s t run).safe safe
  exact ⟨kept, queue_length_le kept.1⟩

/-- Settles O6: at power-on no grant is held, no request placed, no command in progress, nothing recorded. -/
theorem resetIsSafe : Obligations.ResetIsSafe := by
  refine ⟨⟨rfl, rfl, rfl, rfl⟩, ⟨(fun held => nomatch held), fun _ => ⟨rfl, rfl, rfl⟩⟩, initial_requestsSafe _,
    ⟨(fun started => nomatch started), (fun busy => nomatch busy)⟩, Nat.zero_le _, Nat.zero_le _⟩

end

section
namespace Sys2Proof.Machine

/-! ### What a store request is made of -/

/-- An entry that changes the banks: BANK, LAYOUT or LAYOUT-TRIAL (09 R142). -/
def StoreEntry.ofBanks (e : StoreEntry) : Prop := e.kind = .bank ∨ e.kind = .layout ∨ e.kind = .layoutTrial

/-- A request with a BANK entry has one that changes the banks (09 R142). -/
theorem bankRequest_ofBanks (p : Purpose) (live : Bool) (before : List StoreEntry) (r : BankRecord)
    (after : List StoreEntry) (floor : Option Word32) :
    ∃ e ∈ (bankRequest p live before r after floor).entries, e.ofBanks :=
  ⟨bankEntry r, by simp [bankRequest], .inl rfl⟩

/-- A request of one entry has the one it is made with (09 R142). -/
theorem plainRequest_ofBanks (p : Purpose) (live : Bool) (e : StoreEntry) :
    (∃ x ∈ (plainRequest p live e).entries, x.ofBanks) ↔ e.ofBanks := by
  simp only [plainRequest, List.mem_singleton, exists_eq_left]

theorem makeRequest_live (s : State) (p : Purpose) (live : Bool) : (s.makeRequest p live).live = live := by
  cases p with
  | provisionLayout l =>
    simp only [State.makeRequest]
    split <;> rfl
  | _ => rfl

/-- A purpose changes the banks exactly where an entry of its request does (09 R142). -/
theorem changesBanks_iff (s : State) (p : Purpose) (live : Bool) :
    p.changesBanks = true ↔ ∃ e ∈ (s.makeRequest p live).entries, e.ofBanks := by
  have none (e : StoreEntry) (other : ¬e.ofBanks) :
      false = true ↔ ∃ x ∈ (plainRequest p live e).entries, x.ofBanks :=
    iff_of_false Bool.false_ne_true (mt (plainRequest_ofBanks p live e).1 other)
  cases p with
  | keyCreate | keyDestroy | credStore | credCount | credMatch | credErase | responseErase | ownerEpoch =>
    exact none _ (by simp [StoreEntry.ofBanks])
  | provisionAuthority key => exact none ⟨.key, 1, 0, false, pairBytes key⟩ (by simp [StoreEntry.ofBanks])
  | provisionLayout l =>
    refine iff_of_true rfl ?_
    simp only [State.makeRequest]
    split
    · exact bankRequest_ofBanks _ _ _ _ _ _
    · exact (plainRequest_ofBanks _ _ _).2 (.inr (.inl rfl))
  | _ => exact iff_of_true rfl (bankRequest_ofBanks _ _ _ _ _ _)

/-- A source has one outstanding while one of its is in the queue or in progress (06 R90). -/
theorem outstanding_iff (j : Journal) (src : StoreSource) : j.outstanding src = true ↔
    (∃ q ∈ j.queue, q.purpose.source = src) ∨ ∃ job, j.job = some job ∧ job.request.purpose.source = src := by
  simp only [Journal.outstanding, Bool.or_eq_true, List.any_eq_true, beq_iff_eq]
  cases j.job <;> simp

/-- A request asked for is held, queued or in progress (06 R90). -/
theorem anyRequest_iff (j : Journal) (f : Purpose → Bool) : j.anyRequest f = true ↔
    (∃ h ∈ j.held, f h.purpose = true) ∨ (∃ q ∈ j.queue, f q.purpose = true) ∨
      ∃ job, j.job = some job ∧ f job.request.purpose = true := by
  simp only [Journal.anyRequest, Bool.or_eq_true, List.any_eq_true, or_assoc]
  cases j.job <;> simp

/-! ### The loss of supply -/

/-- A byte that no operation in progress or suspended works on is not being changed (06 R100). -/
theorem changing_of_untouched {a : Arbiter} {addr : Nat}
    (soc : ∀ w, a.grant = .socWrite w → w.op.touches addr = false)
    (own : ∀ r op, a.grant = .internal r op ∨ a.suspended = some (r, op) → op.touches addr = false) :
    a.changing addr = false := by
  rw [Arbiter.changing, Bool.or_eq_false_iff]
  constructor
  · cases grant : a.grant with
    | socWrite w => exact soc w grant
    | internal r op => exact own r op (.inl grant)
    | _ => rfl
  · cases suspended : a.suspended with
    | none => rfl
    | some x => exact own x.1 x.2 (.inr suspended)

end Sys2Proof.Machine

open Sys2Proof Sys2Proof.Machine

/-- Settles O12: by what the source has outstanding, and by the purposes. -/
theorem storeRequestIsPlacedOrHeld : Obligations.StoreRequestIsPlacedOrHeld := by
  refine ⟨fun s p live waits => ⟨place_queued waits, place_held waits⟩, fun s p live => ?_, outstanding_iff,
    anyRequest_iff⟩
  refine ⟨makeRequest_purpose s p live, makeRequest_live s p live, changesBanks_iff s p live, ?_⟩
  cases p <;> rfl

/-- Settles O14: the volatile items are at their first values, and a torn byte is one that was being changed. -/
theorem lossOfSupplyKeepsAnchorAndFlash : Obligations.LossOfSupplyKeepsAnchorAndFlash := by
  intro s torn hp
  refine ⟨s.loseSupply torn, ?_, rfl, rfl, fun a soc own => ?_, rfl, rfl, rfl, rfl⟩
  · simp only [exec, execLossOfSupply, State.whenPowered, hp, if_true]
  · exact Memory.read_patch_outside _ _ torn a (changing_of_untouched soc own)

end

section
namespace Sys2Proof.Machine

/-! ### The oldest request -/

/-- The state in which a request has left the queue. -/
def State.dequeued (s : State) (rest : List StoreRequest) : State :=
  { s with journal := { s.journal with queue := rest } }

/-- A request as it is taken: with every entry still to write, and no failure met. -/
def StoreRequest.begun (q : StoreRequest) : Job :=
  { request := q, todo := q.entries, failed := false, step := .anchorWriting }

theorem storeRequestTaken_eq {s : State} (hp : s.powered = true) : exec .storeRequestTaken s = .next s.takeRequest := by
  simp only [exec, execStoreRequestTaken, State.whenPowered, hp, if_true]

/-- In READY the oldest request begins with its first entry (06 R90, R91). -/
theorem takeRequest_of_ready {s : State} {q : StoreRequest} {rest : List StoreRequest}
    (queue : s.journal.queue = q :: rest) (idle : s.journal.job = none) (ready : s.journal.state = .ready) :
    s.takeRequest = (s.dequeued rest).nextEntry q.begun := by
  rw [State.takeRequest, idle, queue, ready]
  rfl

/-- In STALE and FAULT it is answered STORE_FAULT (06 R92, R100). -/
theorem takeRequest_of_refusing {s : State} {q : StoreRequest} {rest : List StoreRequest}
    (queue : s.journal.queue = q :: rest) (idle : s.journal.job = none)
    (refusing : s.journal.state = .stale ∨ s.journal.state = .fault) :
    s.takeRequest = ((s.dequeued rest).contain .storeFault).answerStore q false := by
  rcases refusing with state | state <;> rw [State.takeRequest, idle, queue, state] <;> rfl

/-- In SCANNING and while a request is in progress it waits (06 R90, R100). -/
theorem takeRequest_of_waiting {s : State} (waits : s.journal.state = .scanning ∨ s.journal.job ≠ none) :
    s.takeRequest = s := by
  rw [State.takeRequest]
  split
  · rename_i idle _
    simp only [waits.resolve_right fun busy => busy idle]
  · rfl

/-- The half that a compaction writes: the one not active, half 0 of a blank store (06 R93, R98). -/
theorem targetHalf_eq (j : Journal) : j.targetHalf = (match j.active with
    | some h => h.other
    | none => .zero) := by
  rw [Journal.targetHalf]
  cases j.active <;> rfl

/-- In a blank store an entry begins with the erasing of half 0 (06 R98). -/
theorem nextEntry_of_blank {s : State} {job : Job} {e : StoreEntry} {rest : List StoreEntry}
    (todo : job.todo = e :: rest) (blank : s.journal.active = none) (generations : s.anchor.generation ≠ 0xFFFFFFFF)
    (epochs : e.kind = .ownerEpoch → s.journal.epoch ≠ 0xFFFFFFFF) :
    s.nextEntry job = s.goTo job (.erasing false) (.erase64k (s.halfBase .zero)) := by
  have left : s.entryExhausted e = false := by
    rw [← Bool.not_eq_true, entryExhausted_iff]
    rintro (last | ⟨kind, last⟩)
    · exact generations last
    · exact epochs kind last
  simp only [State.nextEntry, todo]
  rw [beginEntry_of_full s job e left (fun h active => nomatch blank.symm.trans active), targetHalf_eq, blank]

/-! ### The operations of a compaction -/

/-- A program or erase of the Journal Store completes: with the flash changed the request in progress goes on
(01 R13, 06 R91, R93). -/
theorem flashOperationComplete_of_store {s : State} {op : FlashOp} (hp : s.powered = true)
    (hg : s.arbiter.grant = .internal .journal op) (writes : op.writes) (failed : FlashCells) :
    exec (.flashOperationComplete failed) s = .next (s.handedOn .journal op failed).journalOpDone := by
  rw [flashOperationComplete_of_internal hp hg writes, internalDone_eq, if_pos rfl]

/-- The first chunk of a run of bytes. -/
theorem nextChunk_zero (base length : Nat) : nextChunk base length 0 = .read base (min 256 length) := by
  rw [nextChunk, Nat.add_zero, Nat.sub_zero, chunkLength]

/-- The pages of a program one after the other (06 R87). -/
theorem journalOpDone_of_page {s : State} {job : Job} {k : WriteKind} {w : Writing} {p page : Nat × Bytes}
    {rest : List (Nat × Bytes)} (hj : s.journal.job = some job)
    (step : job.step = .programming k w (p :: page :: rest)) :
    s.journalOpDone = s.goTo job (.programming k w (page :: rest)) (.program page.1 page.2) := by
  simp only [State.journalOpDone, hj, step]
  rfl

/-- After the last of them the bytes are read back (06 R91). -/
theorem journalOpDone_of_last_page {s : State} {job : Job} {k : WriteKind} {w : Writing} {p : Nat × Bytes}
    (hj : s.journal.job = some job) (step : job.step = .programming k w [p]) :
    s.journalOpDone = s.goTo job (.readingBack k w [])
      (.read (s.halfBase w.half + w.offset) (min 256 w.bytes.length)) := by
  rw [← nextChunk_zero]
  simp only [State.journalOpDone, hj, step]
  rfl

/-- A tag spoiled is read back (06 R92). -/
theorem journalOpDone_of_spoiling {s : State} {job : Job} {w : Writing} {final : Bool}
    (hj : s.journal.job = some job) (step : job.step = .spoiling w final) :
    s.journalOpDone = s.goTo job (.spoilReading w final) (.read (s.tagAddress w) 16) := by
  simp only [State.journalOpDone, hj, step]

/-- The upper block of a half is erased after the lower (06 R93). -/
theorem journalOpDone_of_lower {s : State} {job : Job} (hj : s.journal.job = some job)
    (step : job.step = .erasing false) :
    s.journalOpDone = s.goTo job (.erasing true) (.erase64k (s.halfBase s.journal.targetHalf + 65536)) := by
  simp only [State.journalOpDone, hj, step]

/-- With the half erased the copying begins (06 R93). -/
theorem journalOpDone_of_upper {s : State} {job : Job} (hj : s.journal.job = some job)
    (step : job.step = .erasing true) :
    s.journalOpDone = s.copyNext job (sortByGeneration s.journal.index) [] := by
  simp only [State.journalOpDone, hj, step]

/-- The next entry to copy is read (06 R93). -/
theorem copyNext_reads (s : State) (job : Job) (x : IndexRecord) (more copied : List IndexRecord) :
    s.copyNext job (x :: more) copied =
      s.goTo job (.copyReading x more copied []) (.read (s.recordBase x) (min 256 x.length)) := by
  rw [← nextChunk_zero]
  rfl

/-- After the last copy the CHECKPOINT with their count is programmed behind them, with the next generation (06 R93). -/
theorem copyNext_checkpoint (s : State) (job : Job) (copied : List IndexRecord) :
    let w := s.written s.journal.targetHalf (copied.map IndexRecord.length).sum (checkpointEntry copied.length)
      (s.anchor.generation + 1)
    ∃ pages, Paged (s.halfBase w.half + w.offset) w.bytes pages ∧
      s.copyNext job [] copied = s.goTo job (.programming (.checkpoint copied) w pages) (s.firstPage w) :=
  beginWrite_goTo s job (.checkpoint copied) _ (encodeEntry_ne_nil _ _ _ _)

/-! ### The chunks of a compaction -/

/-- Before its last byte an entry to copy is read on (06 R93). -/
theorem journalChunk_of_copying {s : State} {job : Job} {x : IndexRecord} {more copied : List IndexRecord}
    {got bs : Bytes} (hj : s.journal.job = some job) (step : job.step = .copyReading x more copied got)
    (short : got.length + bs.length < x.length) :
    s.journalChunk bs = s.goTo job (.copyReading x more copied (got ++ bs))
      (nextChunk (s.recordBase x) x.length (got.length + bs.length)) := by
  simp only [State.journalChunk, hj, step, List.length_append, if_pos short]

/-- With its last byte it is judged (06 R93). -/
theorem journalChunk_of_copied {s : State} {job : Job} {x : IndexRecord} {more copied : List IndexRecord}
    {got bs : Bytes} (hj : s.journal.job = some job) (step : job.step = .copyReading x more copied got)
    (last : x.length ≤ got.length + bs.length) :
    s.journalChunk bs = s.copyRead job x more copied (got ++ bs) := by
  simp only [State.journalChunk, hj, step, List.length_append, if_neg (Nat.not_lt.2 last)]

/-- Before their last byte bytes written are read back further (06 R91). -/
theorem journalChunk_of_partial {s : State} {job : Job} {k : WriteKind} {w : Writing} {got bs : Bytes}
    (hj : s.journal.job = some job) (step : job.step = .readingBack k w got)
    (short : got.length + bs.length < w.bytes.length) :
    s.journalChunk bs = s.goTo job (.readingBack k w (got ++ bs))
      (nextChunk (s.writingBase w) w.bytes.length (got.length + bs.length)) := by
  simp only [State.journalChunk, hj, step, List.length_append, if_pos short]

/-- An entry with a correct tag is programmed behind the copies made (06 R93). -/
theorem copyRead_of_correct {s : State} {job : Job} {got : Bytes} (correct : tagCorrect s.journal.tagKey got = true)
    (filled : got ≠ []) (x : IndexRecord) (more copied : List IndexRecord) :
    let w : Writing := { half := s.journal.targetHalf, offset := (copied.map IndexRecord.length).sum, bytes := got }
    ∃ pages, Paged (s.halfBase w.half + w.offset) w.bytes pages ∧
      s.copyRead job x more copied got = s.goTo job (.programming (.copy x more copied) w pages) (s.firstPage w) := by
  intro w
  rw [State.copyRead, if_pos correct]
  exact beginWrite_goTo s job (.copy x more copied) w filled

/-- One with an incorrect tag fails the compaction, nothing programmed (06 R94). -/
theorem copyRead_of_incorrect {s : State} {got : Bytes} (wrong : tagCorrect s.journal.tagKey got = false) (job : Job)
    (x : IndexRecord) (more copied : List IndexRecord) :
    s.copyRead job x more copied got = s.compactionFailed job none := by
  rw [State.copyRead, if_neg (wrong ▸ Bool.false_ne_true)]

/-- A copy or CHECKPOINT that reads back otherwise fails it with what was programmed (06 R94). -/
theorem writeFailed_of_compaction {k : WriteKind} (other : ∀ g, k ≠ .entry g) (s : State) (job : Job) (w : Writing) :
    s.writeFailed job k w = s.compactionFailed job (some w) := by
  cases k with
  | entry g => exact (other g rfl).elim
  | _ => rfl

/-- A CHECKPOINT that reads back makes its half the active one, with the copies as the index (06 R93). -/
def State.checkpointed (s : State) (w : Writing) (copied : List IndexRecord) : State :=
  { s with
    anchor := { s.anchor with generation := s.anchor.generation + 1 }
    journal := { s.journal with active := some w.half, appendPoint := w.offset + w.bytes.length, index := copied } }

/-- The request then goes on behind it (06 R93). -/
theorem writeDone_of_checkpoint (s : State) (job : Job) (copied : List IndexRecord) (w : Writing) :
    s.writeDone job (.checkpoint copied) w = (s.checkpointed w copied).nextEntry job := rfl

/-- The first failure begins the compaction again (06 R94). -/
theorem compactionFailed_of_first {job : Job} (first : job.failed = false) (s : State) (w : Option Writing) :
    s.compactionFailed job w = s.beginCompaction { job with failed := true } :=
  if_neg (first ▸ Bool.false_ne_true)

/-- The second ends the request where nothing was programmed (06 R94). -/
theorem compactionFailed_of_second {job : Job} (second : job.failed = true) (s : State) :
    s.compactionFailed job none = s.failRequest job := if_pos second

/-- Else what was programmed is spoiled first (06 R92, R94). -/
theorem compactionFailed_of_programmed {job : Job} (second : job.failed = true) (s : State) (w : Writing) :
    s.compactionFailed job (some w) = s.beginSpoil job w true := if_pos second

end Sys2Proof.Machine

open Sys2Proof Sys2Proof.Machine

/-- Settles O36: by the taking of a request, the steps of a program or erase, and the chunks of a compaction. -/
theorem oldestRequestIsTakenOrRefused : Obligations.OldestRequestIsTakenOrRefused := by
  refine ⟨fun s => ?places, fun s q rest hp queue => ?requests, fun s job op failed hp hj hg writes => ?operations,
    fun s misread base n job hp hg hs hj => ?chunks⟩
  case places =>
    refine ⟨fun area => ?_, fun area => ?_⟩ <;> rw [State.halfBase, State.halfBase, area] <;> exact ⟨rfl, rfl⟩
  case requests =>
    have run := storeRequestTaken_eq hp
    refine ⟨fun e es idle ready entries generations epochs => ?taken, fun e es idle ready entries used => ?exhausted,
      fun idle refusing => ?refused, fun waits => by rw [run, takeRequest_of_waiting waits]⟩
    case taken =>
      intro e' size taken
      rw [takeRequest_of_ready queue idle ready] at run
      refine ⟨fun h active fits => ?_, fun h active full => ?_, fun blank => ?_⟩
      · obtain ⟨pages, paged, begun⟩ :=
          (nextEntry_begun (s := s.dequeued rest) (job := q.begun) entries active generations epochs).1 fits
        exact ⟨pages, paged, run.trans (congrArg Host.Outcome.next begun)⟩
      · have begun := (nextEntry_begun (s := s.dequeued rest) (job := q.begun) entries active generations epochs).2 full
        exact run.trans (congrArg Host.Outcome.next begun)
      · have begun := nextEntry_of_blank (s := s.dequeued rest) (job := q.begun) entries blank generations epochs
        exact run.trans (congrArg Host.Outcome.next begun)
    case exhausted =>
      rw [takeRequest_of_ready queue idle ready] at run
      exact ⟨_, run, nextEntry_failed (s := s.dequeued rest) (job := q.begun) entries used⟩
    case refused =>
      rw [takeRequest_of_refusing queue idle refusing] at run
      obtain ⟨stands, contained, cause, answered⟩ := refused_stands (s.dequeued rest) q
      have journal := stands.journal
      exact ⟨_, run, answerStore_refused (s.dequeued rest) q, contained, cause,
        (congrArg Journal.state journal).trans rfl, (congrArg Journal.index journal).trans rfl, stands.flash,
        stands.asked, stands.gen, answered⟩
  case operations =>
    intro half
    have target : s.journal.targetHalf = half := targetHalf_eq s.journal
    have run := flashOperationComplete_of_store hp hg writes failed
    have hj' : (s.handedOn .journal op failed).journal.job = some job := hj
    refine ⟨fun k w p page rest step => ?page, fun k w p step => ?lastPage, fun w final step => ?spoiled,
      fun step => ?lower, fun step empty => ?emptyIndex, fun step filled => ?firstCopy⟩
    case page =>
      rw [journalOpDone_of_page hj' step] at run
      exact ⟨_, run, rfl, rfl⟩
    case lastPage =>
      rw [journalOpDone_of_last_page hj' step] at run
      exact ⟨_, run, rfl, rfl⟩
    case spoiled =>
      rw [journalOpDone_of_spoiling hj' step] at run
      exact ⟨_, run, rfl, rfl⟩
    case lower =>
      rw [journalOpDone_of_lower hj' step] at run
      exact ⟨_, run, by rw [← target]; rfl, rfl⟩
    case emptyIndex =>
      obtain ⟨pages, paged, begun⟩ := copyNext_checkpoint (s.handedOn .journal op failed) job []
      have sorted : sortByGeneration (s.handedOn .journal op failed).journal.index = [] := by
        rw [show (s.handedOn .journal op failed).journal.index = [] from empty]
        rfl
      rw [journalOpDone_of_upper hj' step, sorted, begun] at run
      have base : s.halfBase s.journal.targetHalf + 0 = s.halfBase half := by rw [Nat.add_zero, target]
      refine ⟨_, pages, run, ?_⟩
      rw [← base, ← target]
      exact ⟨paged, rfl, rfl⟩
    case firstCopy =>
      have perm := sortByGeneration_perm s.journal.index
      have order := sortByGeneration_sorted s.journal.index
      rw [journalOpDone_of_upper hj' step] at run
      cases sorted : sortByGeneration s.journal.index with
      | nil => exact absurd (sorted ▸ perm).nil_eq.symm filled
      | cons x more =>
        rw [show sortByGeneration (s.handedOn .journal op failed).journal.index = x :: more from sorted,
          copyNext_reads] at run
        rw [sorted] at perm order
        exact ⟨_, x, more, run, perm, order, rfl, rfl⟩
  case chunks =>
    intro bytes half programming reading anew
    have len : bytes.length = n := readBytesThrough_length _ _ _ _
    have target : s.journal.targetHalf = half := targetHalf_eq s.journal
    have run := storeChunkComplete_of_request hp hg hs misread
    have hj' : (s.chunkDone .journal).journal.job = some job := hj
    have again : (s.chunkDone .journal).beginCompaction { job with failed := true } = anew := by
      simp only [anew, ← target]
      rfl
    refine ⟨fun x more copied got step last correct filled => ?read, fun x more copied got step short => ?reading,
      fun k w got step short => ?readingBack, fun x copied w got step same => ?lastCopy,
      fun x y rest copied w got step same => ?nextCopy, fun x more copied got step last wrong => ?incorrect,
      fun k w got step other last differs => ?unequal,
      fun copied w got e es step same todo generations epochs fits => ?checkpoint⟩
    case read =>
      obtain ⟨pages, paged, begun⟩ :=
        copyRead_of_correct (s := s.chunkDone .journal) (job := job) correct filled x more copied
      rw [journalChunk_of_copied hj' step (by rw [len]; exact last), begun] at run
      exact ⟨pages, target ▸ paged, target ▸ run⟩
    case reading =>
      rw [journalChunk_of_copying hj' step (by rw [len]; exact short), len] at run
      exact run
    case readingBack =>
      rw [journalChunk_of_partial hj' step (by rw [len]; exact short), len] at run
      exact run
    case lastCopy =>
      obtain ⟨pages, paged, begun⟩ := copyNext_checkpoint (s.chunkDone .journal) job
        (copied ++ [{ x with half := w.half, offset := w.offset }])
      rw [journalChunk_of_equal hj' step same, State.writeDone, begun] at run
      exact ⟨pages, target ▸ paged, target ▸ run⟩
    case nextCopy =>
      rw [journalChunk_of_equal hj' step same, State.writeDone] at run
      exact run
    case incorrect =>
      rw [journalChunk_of_copied hj' step (by rw [len]; exact last),
        copyRead_of_incorrect (s := s.chunkDone .journal) wrong] at run
      refine ⟨fun first => ?_, fun second => ?_⟩
      · rw [compactionFailed_of_first first, again] at run
        exact run
      · rw [compactionFailed_of_second second] at run
        exact ⟨_, run, failRequest_failed _ job⟩
    case unequal =>
      rw [journalChunk_of_unequal hj' step (by rw [len]; exact last) differs, writeFailed_of_compaction other] at run
      refine ⟨fun first => ?_, fun second => ?_⟩
      · rw [compactionFailed_of_first first, again] at run
        exact run
      · rw [compactionFailed_of_programmed second] at run
        exact run
    case checkpoint =>
      intro g v
      rw [journalChunk_of_equal hj' step same, writeDone_of_checkpoint] at run
      obtain ⟨pages, paged, begun⟩ := (nextEntry_begun (s := (s.chunkDone .journal).checkpointed w copied) (job := job)
        todo rfl generations epochs).1 fits
      exact ⟨pages, paged, run.trans (congrArg Host.Outcome.next begun)⟩

end

section
namespace Sys2Proof.Machine

/-! ### The tests of a key's use -/

/-- The latch is set exactly when there is a cause (11 R165). -/
theorem contained_iff (s : State) : s.contained = true ↔ s.response.causes ≠ 0 := by
  simp [State.contained, Response.latch]

/-- Containment stops OWNER keys and those not marked contained-ok (07 R105 (7)). -/
theorem stoppedByContainment_iff (k : KeyRecord) :
    k.stoppedByContainment = true ↔ k.cls = .owner ∨ k.containedOk = false := by
  simp [KeyRecord.stoppedByContainment]

/-- Without the owner grant (08 R119). -/
theorem not_granted_iff (s : State) : (!s.granted) = true ↔ s.creds.grant = none := by
  simp [State.granted]

/-- A use whose operation completes is tested again in the order DISABLED, containment, grant (07 R106). -/
theorem completeUse_eq {s : State} {x : Running} (h : s.window.command = some x) (hx : x.command ≠ .events)
    (n : Nat) (k : KeyRecord) (result : Bytes) :
    s.completeUse n k result =
      if s.keys.disabled.getLsbD n then s.posted 0x22 []
      else if s.response.causes ≠ 0 ∧ (k.cls = .owner ∨ k.containedOk = false) then s.posted 0x15 []
      else if k.needsGrant = true ∧ s.creds.grant = none then s.posted 0x18 []
      else s.posted 0 (BitVec.ofNat 8 n :: result) := by
  have finished := finish_eq_posted h hx
  simp only [State.completeUse, State.keyRecheck, Keys.isDisabled, inSet, Bool.and_eq_true, contained_iff,
    stoppedByContainment_iff, not_granted_iff]
  by_cases disabled : s.keys.disabled.getLsbD n = true
  · simp only [if_pos disabled]
    exact finished .slotState []
  simp only [if_neg disabled]
  by_cases stopped : s.response.causes ≠ 0 ∧ (k.cls = .owner ∨ k.containedOk = false)
  · simp only [if_pos stopped]
    exact finished .contained []
  simp only [if_neg stopped]
  by_cases ungranted : k.needsGrant = true ∧ s.creds.grant = none
  · simp only [if_pos ungranted]
    exact finished .grant []
  simp only [if_neg ungranted]
  exact finished .ok (bytes1 n ++ result)

/-! ### A key created -/

/-- Only OWNER keys carry the owner epoch (07 R107). -/
theorem generatedKey_epoch (s : State) (cls : KeyClass) (sign : Bool) (mask : Byte) (needsGrant containedOk : Bool)
    (bind : Option Nat) :
    (s.generatedKey cls sign mask needsGrant containedOk bind).epoch = if cls = .owner then s.journal.epoch else 0 := by
  cases cls <;> rfl

/-- A SIGN key keeps the public key of its secret scalar (07 R107). -/
theorem generatedKey_sign (s : State) (cls : KeyClass) (mask : Byte) (needsGrant containedOk : Bool)
    (bind : Option Nat) :
    let k := s.generatedKey cls true mask needsGrant containedOk bind
    k.usage = .sign (publicKey k.secret) := rfl

/-- A DERIVE key keeps its bind slot (07 R107). -/
theorem generatedKey_derive (s : State) (cls : KeyClass) (mask : Byte) (needsGrant containedOk : Bool)
    (bind : Option Nat) : (s.generatedKey cls false mask needsGrant containedOk bind).usage = .derive bind := rfl

/-! ### The completion of the Signature Unit -/

/-- The operation in progress ends (07 R106). -/
theorem signatureUnitComplete_of_job {s : State} {job : SignatureJob} (hp : s.powered = true)
    (hj : s.signature = some job) :
    exec .signatureUnitComplete s = .next (State.signatureDone { s with signature := none } job) := by
  simp only [exec, execSignatureUnitComplete, State.whenPowered, hp, hj, if_true]

end Sys2Proof.Machine

open Sys2Proof Sys2Proof.Machine

/-- Settles O37: each operation by its own completion; a use is answered with the key its operation holds. -/
theorem signatureUnitAnswersItsCommand : Obligations.SignatureUnitAnswersItsCommand := by
  intro s c body hp engaged other idle drawn used
  have run {job : SignatureJob} (hj : s.signature = some job) :
      exec .signatureUnitComplete s = .next (idle.signatureDone job) := signatureUnitComplete_of_job hp hj
  refine ⟨fun n k d hj => ?sign, fun n k message hj => ?derive, fun report hj => ?attest,
    fun n cls sign mask needsGrant containedOk bind hj free => ?createKey, fun n v value hj free => ?salt⟩
  case sign =>
    have answered := completeUse_eq (s := drawn signDraws) engaged other n k (pairBytes (ecdsaSign k.secret d s.fresh))
    exact (run hj).trans (congrArg Host.Outcome.next answered)
  case derive =>
    have answered := completeUse_eq (s := idle) engaged other n k (digestBytes (hmacKey k.secret message))
    exact (run hj).trans (congrArg Host.Outcome.next answered)
  case attest =>
    have answered := finish_eq_posted (s := drawn signDraws) engaged other .ok
      (report ++ pairBytes (ecdsaSign s.keys.identity.scalar (sha256 report) s.fresh))
    exact (run hj).trans (congrArg Host.Outcome.next answered)
  case createKey =>
    let k := idle.generatedKey cls sign mask needsGrant containedOk bind
    have placed : (drawn 1).place (.keyCreate n k) true = (drawn 1).queued _ := place_free free
    refine ⟨k, rfl, rfl, rfl, rfl, generatedKey_epoch idle cls sign mask needsGrant containedOk bind, ?_, ?_,
      (run hj).trans (congrArg Host.Outcome.next placed)⟩
    · rintro rfl
      exact generatedKey_sign idle cls mask needsGrant containedOk bind
    · rintro rfl
      exact generatedKey_derive idle cls mask needsGrant containedOk bind
  case salt =>
    let salt : BitVec 128 := (Config.random s.fresh).setWidth 128
    let made : Credential := .verifier { v with salt := salt, verifier := saltedDigest salt value }
    have placed : (drawn 1).place (.credStore n made s.journal.epoch) true = (drawn 1).queued _ := place_free free
    exact ⟨salt, (run hj).trans (congrArg Host.Outcome.next placed)⟩

end

section
namespace Sys2Proof.Machine

/-! ### KEY PUBLIC -/

/-- A one-byte body up to 15 names its slot (07 R109). -/
theorem keySlot_of_slot {slot : Byte} (low : slot.toNat ≤ 15) : keySlot [slot] = some slot.toNat :=
  if_pos ⟨rfl, low⟩

/-- No other body names one (07 R109). -/
theorem keySlot_of_malformed {body : Bytes} (wrong : ∀ slot : Byte, body = [slot] → 15 < slot.toNat) :
    keySlot body = none := by
  refine if_neg fun ⟨single, low⟩ => ?_
  obtain ⟨slot, rfl⟩ := List.length_eq_one_iff.1 single
  exact Nat.not_lt.2 low (wrong slot rfl)

/-- A malformed body is refused (07 R109). -/
theorem keyPublic_of_malformed {s : State} {body : Bytes} (h : s.hands .keyPublic body) (wrong : keySlot body = none) :
    s.keyPublic body = s.posted 0x10 [] := by
  simp only [State.keyPublic, wrong]
  exact refuse_of_hands h (by decide) .malformed

/-- A slot's public key is returned behind the slot byte (07 R109). -/
theorem keyPublic_of_ok {s : State} {slot : Byte} (h : s.hands .keyPublic [slot]) (low : slot.toNat ≤ 15) {key : Pair}
    (found : s.slotPublic slot.toNat = .ok key) : s.keyPublic [slot] = s.posted 0 (slot :: pairBytes key) := by
  have named : bytes1 slot.toNat = [slot] := by simp [bytes1]
  simp only [State.keyPublic, keySlot_of_slot low, found, named]
  exact finish_eq_posted h.2 (show Command.keyPublic ≠ .events by decide) .ok _

/-- A slot without one is refused (07 R109). -/
theorem keyPublic_of_error {s : State} {slot : Byte} (h : s.hands .keyPublic [slot]) (low : slot.toNat ≤ 15)
    {r : Result} (refused : s.slotPublic slot.toNat = .error r) : s.keyPublic [slot] = s.posted r.code [] := by
  simp only [State.keyPublic, keySlot_of_slot low, refused]
  exact refuse_of_hands h (by decide) r

/-- Slot 1 has none before the authority's key is stored (07 R109). -/
theorem slotPublic_of_no_authority {s : State} (unset : s.keys.authority = none) :
    s.slotPublic 1 = .error .notFound := by
  simp [State.slotPublic, unset]

/-- After that it is the authority's (07 R109). -/
theorem slotPublic_of_authority {s : State} {key : Pair} (set : s.keys.authority = some key) :
    s.slotPublic 1 = .ok key := by
  simp [State.slotPublic, set]

/-- An empty general slot has no public key (07 R109). -/
theorem slotPublic_of_empty {s : State} {n : Nat} (general : 2 ≤ n) (empty : s.keys.held n = none) :
    s.slotPublic n = .error .notFound := by
  simp only [State.slotPublic, if_neg (show n ≠ 0 by omega), if_neg (show n ≠ 1 by omega), empty]

/-- A SIGN key's public key is the one its slot keeps (07 R109). -/
theorem slotPublic_of_sign {s : State} {n : Nat} {k : KeyRecord} {key : Pair} (general : 2 ≤ n)
    (held : s.keys.held n = some k) (usage : k.usage = .sign key) : s.slotPublic n = .ok key := by
  simp only [State.slotPublic, if_neg (show n ≠ 0 by omega), if_neg (show n ≠ 1 by omega), held, usage]

/-- A DERIVE key has none (07 R109). -/
theorem slotPublic_of_derive {s : State} {n : Nat} {k : KeyRecord} {bind : Option Nat} (general : 2 ≤ n)
    (held : s.keys.held n = some k) (usage : k.usage = .derive bind) : s.slotPublic n = .error .wrongKind := by
  simp only [State.slotPublic, if_neg (show n ≠ 0 by omega), if_neg (show n ≠ 1 by omega), held, usage]

/-! ### KEY LIST -/

/-- The flags byte of a key in the list: needs-grant, contained-ok and the bit of a filled slot (07 R113). -/
theorem listedFlags_eq (k : KeyRecord) :
    k.flags ||| 4 = (if k.needsGrant then 1 else 0) + (if k.containedOk then 2 else 0) + 4 := by
  unfold KeyRecord.flags
  cases k.needsGrant <;> cases k.containedOk <;> decide

/-- The class byte of a key (07 R113). -/
theorem KeyClass.code_eq (c : KeyClass) : c.code = if c = .platform then 0 else 1 := by
  cases c <;> rfl

/-- A general slot without a key in the list (07 R113). -/
theorem keyListRecord_of_empty {s : State} {n : Nat} (general : 2 ≤ n) (empty : s.keys.held n = none) :
    s.keyListRecord n = [BitVec.ofNat 8 n, if s.keys.disabled.getLsbD n then 2 else 0, 0xFF, 0xFF, 0, 0, 0xFF] := by
  simp only [State.keyListRecord, if_neg (show n ≠ 0 by omega), if_neg (show n ≠ 1 by omega), empty]
  rfl

/-- A general slot with a key in the list (07 R113). -/
theorem keyListRecord_of_held {s : State} {n : Nat} {k : KeyRecord} (general : 2 ≤ n) (held : s.keys.held n = some k) :
    s.keyListRecord n = [BitVec.ofNat 8 n, if s.keys.disabled.getLsbD n then 2 else 1,
      if k.cls = .platform then 0 else 1, k.usage.code, k.stageMask,
      (if k.needsGrant then 1 else 0) + (if k.containedOk then 2 else 0) + 4, k.usage.bindByte] := by
  simp only [State.keyListRecord, if_neg (show n ≠ 0 by omega), if_neg (show n ≠ 1 by omega), held, listedFlags_eq,
    KeyClass.code_eq]
  rfl

/-- The slots in the list: 0, 1 and the fourteen general ones (07 R113). -/
theorem range_slots : List.range 16 = 0 :: 1 :: (List.range 14).map (· + 2) := rfl

/-- KEY LIST reports the slots in order and the owner epoch (07 R113). -/
theorem keyList_of_hands {s : State} {body : Bytes} (h : s.hands .keyList body) :
    exec .keyList s = .next (s.posted 0 (s.keyListRecord 0 ++ s.keyListRecord 1 ++
      (List.range 14).flatMap (fun j => s.keyListRecord (j + 2)) ++ beBytes 4 s.journal.epoch.toNat)) := by
  have slots : (List.range 16).flatMap s.keyListRecord = s.keyListRecord 0 ++ s.keyListRecord 1 ++
      (List.range 14).flatMap (fun j => s.keyListRecord (j + 2)) := by
    rw [range_slots, List.flatMap_cons, List.flatMap_cons, List.flatMap_map, List.append_assoc]
  simp only [exec, execKeyList, take_of_hands h, slots]
  exact congrArg Host.Outcome.next (finish_eq_posted h.2 (show Command.keyList ≠ .events by decide) .ok _)

end Sys2Proof.Machine

open Sys2Proof Sys2Proof.Machine

/-- Settles O50: KEY PUBLIC by the kind of slot named, KEY LIST record by record. -/
theorem keyPublicAndListReportTheSlots : Obligations.KeyPublicAndListReportTheSlots := by
  intro s body
  refine ⟨fun h wrong => ?malformed, fun slot h low => ?slot, fun h => ?list⟩
  case malformed =>
    simp only [exec, execKeyPublic, take_of_hands h, keyPublic_of_malformed h (keySlot_of_malformed wrong)]
  case slot =>
    simp only [exec, execKeyPublic, take_of_hands h]
    refine congrArg Host.Outcome.next ?_
    by_cases identity : slot = 0
    · subst identity
      exact keyPublic_of_ok h low rfl
    rw [if_neg identity]
    by_cases authority : slot = 1
    · subst authority
      rw [if_pos rfl]
      cases key : s.keys.authority with
      | none => exact keyPublic_of_error h low (slotPublic_of_no_authority key)
      | some pub => exact keyPublic_of_ok h low (slotPublic_of_authority key)
    rw [if_neg authority]
    have general : 2 ≤ slot.toNat := by
      have not0 : slot.toNat ≠ 0 := fun e => identity (BitVec.eq_of_toNat_eq e)
      have not1 : slot.toNat ≠ 1 := fun e => authority (BitVec.eq_of_toNat_eq e)
      omega
    cases held : s.keys.held slot.toNat with
    | none => exact keyPublic_of_error h low (slotPublic_of_empty general held)
    | some k =>
      cases usage : k.usage with
      | sign key =>
        simp only [usage]
        exact keyPublic_of_ok h low (slotPublic_of_sign general held usage)
      | derive bind =>
        simp only [usage]
        exact keyPublic_of_error h low (slotPublic_of_derive general held usage)
  case list =>
    intro general
    have reported : (fun j => s.keyListRecord (j + 2)) = fun j => general (j + 2) := by
      funext j
      simp only [general]
      cases held : s.keys.held (j + 2) with
      | none => exact keyListRecord_of_empty (by omega) held
      | some k =>
        rw [keyListRecord_of_held (by omega) held]
        cases usage : k.usage with
        | sign key =>
          simp only [usage]
          rfl
        | derive bind =>
          simp only [usage]
          cases bind <;> rfl
    rw [keyList_of_hands h, reported]
    rfl

end

section
namespace Sys2Proof.Machine

/-! ### Credential records -/

/-- A record that is there has an id of the store (08 R117). -/
theorem id_lt_of_get {c : Creds} {id : Nat} {r : CredRecord} (held : c.get id = some r) : id < 32 :=
  Nat.lt_of_not_le fun beyond => by simp [Creds.get, Vector.getElem?_eq_none beyond] at held

/-- The records after one that was there has been set or removed. -/
theorem get_put_held {c : Creds} {id : Nat} {r : CredRecord} (held : c.get id = some r) (x : Option CredRecord)
    (i : Nat) : (c.put id x).get i = if i = id then x else c.get i := by
  have low := id_lt_of_get held
  simp only [Creds.get, Creds.put, Vector.getElem?_setIfInBounds]
  by_cases same : i = id
  · simp [same, low]
  · simp [same, Ne.symm same]

/-- A record whose content and epoch stay keeps the ownership state as it is (08 R118). -/
theorem claimed_putCred {s : State} {id : Nat} {r r' : CredRecord} (held : s.creds.get id = some r)
    (content : r'.content = r.content) (epoch : r'.epoch = r.epoch) :
    (s.putCred id (some r')).claimed = s.claimed := by
  rw [Bool.eq_iff_iff, claimed_iff, claimed_iff]
  have records (i : Nat) : (s.putCred id (some r')).creds.get i = if i = id then some r' else s.creds.get i :=
    get_put_held held _ i
  simp only [records]
  constructor
  · rintro ⟨i, x, v, found, verifier, gate, current⟩
    split at found
    · cases found
      exact ⟨id, r, v, held, content ▸ verifier, gate, epoch ▸ current⟩
    · exact ⟨i, x, v, found, verifier, gate, current⟩
  · rintro ⟨i, x, v, found, verifier, gate, current⟩
    by_cases same : i = id
    · subst same
      cases held.symm.trans found
      exact ⟨i, r', v, if_pos rfl, content.trans verifier, gate, epoch.trans current⟩
    · exact ⟨i, x, v, (if_neg same).trans found, verifier, gate, current⟩

/-- An offer of a lowering crosses no threshold (11 R169). -/
theorem offer_of_lowering (s : State) (src : Source) {before after : Nat} (lowering : after ≤ before) :
    s.offer src before after = s := by
  have each (es : List (ResponseEntry × Nat)) : es.foldl (State.judge src before after) s = s := by
    induction es with
    | nil => rfl
    | cons e rest ih =>
      have quiet : State.judge src before after s e = s := if_neg fun crossed => by omega
      rw [List.foldl_cons, quiet, ih]
  rw [State.offer]
  split
  · exact each _
  · rfl

/-- A count that is lowered is an offer that fires nothing (08 R136). -/
theorem offerCount_of_lowering (s : State) (id : Nat) {before after : Byte} (lowering : after.toNat ≤ before.toNat) :
    s.offerCount id before after = s := by
  rw [State.offerCount]
  split
  · rfl
  · exact offer_of_lowering s _ lowering

/-- So is one that is set to 0 (08 R127). -/
theorem offerCount_to_zero (s : State) (id : Nat) (before : Byte) : s.offerCount id before 0 = s :=
  offerCount_of_lowering s id (Nat.zero_le _)

end Sys2Proof.Machine
end

section
namespace Sys2Proof.Machine

/-! ### The owner grant -/

/-- While the scan runs no grant is held and no request is in progress (06 R100, 08 R137). -/
def State.scanSafe (s : State) : Prop :=
  s.creds.grant = none ∧ s.journal.job = none ∧ s.journal.state = .scanning

/-- With no grant held nothing is asked of the ownership state and the latch (08 R120). -/
theorem grantSafe_of_none {s : State} (clear : s.creds.grant = none)
    (scanning : s.journal.scan.isSome = true → s.journal.job = none ∧ s.journal.state = .scanning) : s.grantSafe :=
  ⟨fun held => by simp [clear] at held, fun scan => ⟨clear, scanning scan⟩⟩

/-- Within the scan the state is safe (06 R100, 08 R137). -/
theorem grantSafe_of_scanSafe {s : State} (scan : s.scanSafe) : s.grantSafe := grantSafe_of_none scan.1 fun _ => scan.2

/-- With the scan over, the ownership state and the latch alone decide (08 R120). -/
theorem grantSafe_of_started {s : State} (started : s.journal.scan = none)
    (owned : s.creds.grant.isSome = true → s.claimed = true ∧ s.contained = false) : s.grantSafe :=
  ⟨owned, fun scan => by simp [started] at scan⟩

/-- A request in progress shows that the scan is over (06 R100). -/
theorem started_of_job {s : State} (safe : s.grantSafe) {job : Job} (inProgress : s.journal.job = some job) :
    s.journal.scan = none := by
  rw [← Option.not_isSome_iff_eq_none]
  intro scan
  simp [(safe.2 scan).2.1] at inProgress

/-- The grant cleared (08 R120). -/
theorem clearGrant_grantSafe {s : State} (safe : s.grantSafe) : s.clearGrant.grantSafe :=
  grantSafe_of_none rfl fun scan => (safe.2 scan).2

/-- Containment leaves no grant: where the latch was set there was none (08 R120, 11 R165). -/
theorem contain_grant {s : State} (safe : s.grantSafe) (c : ContainCause) : (s.contain c).creds.grant = none := by
  rw [State.contain_creds]
  split
  · rename_i latched
    rw [← Option.not_isSome_iff_eq_none]
    intro held
    exact Bool.false_ne_true ((safe.1 held).2.symm.trans latched)
  · rfl

theorem contain_grantSafe {s : State} (safe : s.grantSafe) (c : ContainCause) : (s.contain c).grantSafe :=
  grantSafe_of_none (contain_grant safe c) fun scan => (safe.2 scan).2

/-- What each of several changes keeps they all keep. -/
theorem foldl_grantSafe {α : Type} {change : State → α → State} (each : ∀ u x, u.grantSafe → (change u x).grantSafe)
    (xs : List α) {s : State} (safe : s.grantSafe) : (xs.foldl change s).grantSafe := by
  induction xs generalizing s with
  | nil => exact safe
  | cons x rest ih => exact ih (each s x safe)

/-! ### Requests and offers -/

theorem place_grantSafe {s : State} (safe : s.grantSafe) (p : Purpose) (live : Bool) : (s.place p live).grantSafe := by
  obtain ⟨queue, held, placed⟩ := place_eq s p live
  exact placed ▸ safe

theorem pumpRequests_grantSafe {s : State} (safe : s.grantSafe) : s.pumpRequests.grantSafe := by
  obtain ⟨queue, held, placed⟩ := pumpRequests_eq s
  exact placed ▸ safe

theorem pumpErase_grantSafe {s : State} (safe : s.grantSafe) : s.pumpErase.grantSafe := by
  rw [State.pumpErase]
  split
  · exact safe
  · split
    · rename_i id r rest _
      exact place_grantSafe (s := { s with response := { s.response with eraseList := rest } }) safe _ _
    · exact safe

/-- An action of the Response Unit contains or revokes the grant at most (11 R170). -/
theorem act_grantSafe {s : State} (safe : s.grantSafe) (a : Action) : (s.act a).grantSafe := by
  cases a with
  | contain => exact contain_grantSafe safe _
  | revokeGrant => exact clearGrant_grantSafe safe
  | eraseCredential id => exact pumpErase_grantSafe safe
  | alert => exact safe
  | hideRegion r => exact safe
  | disableSlot n => exact safe

theorem judge_grantSafe {s : State} (safe : s.grantSafe) (src : Source) (before after : Nat) (e : ResponseEntry × Nat) :
    (State.judge src before after s e).grantSafe := by
  rw [State.judge]
  split
  · exact act_grantSafe (s := { s with response := { s.response with fired := addTo s.response.fired e.2 } }) safe _
  · exact safe

/-- An offer sets no grant, and one that contains clears it (11 R165, R169). -/
theorem offer_grantSafe {s : State} (safe : s.grantSafe) (src : Source) (before after : Nat) :
    (s.offer src before after).grantSafe := by
  rw [State.offer]
  split
  · exact foldl_grantSafe (fun u e held => judge_grantSafe held src before after e) _ safe
  · exact safe

theorem offerChange_grantSafe {s : State} (safe : s.grantSafe) (src : Source) (before after : Word16) :
    (s.offerChange src before after).grantSafe := by
  rw [State.offerChange]
  split
  · exact safe
  · exact offer_grantSafe safe _ _ _

/-- A violation recorded (02 R36, R38). -/
theorem violate_grantSafe {s : State} (safe : s.grantSafe) (kind : ViolationKind) (cls : OpClass) (p : Nat)
    (region : Option Nat) : (s.violate kind cls p region).grantSafe := by
  simp only [State.violate]
  refine offerChange_grantSafe ?_ _ _ _
  cases region <;> exact offerChange_grantSafe (s := State.raise { s with checker := _ } .violation) safe _ _ _

/-! ### The boot check -/

theorem mismatch_grantSafe {s : State} (safe : s.grantSafe) : s.mismatch.grantSafe :=
  offerChange_grantSafe (s := { s with measure := { s.measure with mismatches := bump s.measure.mismatches } }) safe _ _ _

theorem takeDigest_grantSafe {s : State} (safe : s.grantSafe) (r : Region) (n : Nat) (kind : ExtendKind) (stage : Nat)
    (d : Digest) : (s.takeDigest r n kind stage d).grantSafe := by
  simp only [State.takeDigest]
  split
  · exact mismatch_grantSafe
      (s := State.extend { s with measure := { s.measure with current := none } } n kind r.index stage d) safe
  · exact safe

theorem recoveryDone_grantSafe {s : State} (safe : s.grantSafe) (r : Region) (d : Digest) :
    (s.recoveryDone r d).grantSafe := by
  simp only [State.recoveryDone]
  split <;> exact takeDigest_grantSafe safe _ _ _ _ _

theorem checkOutcome_grantSafe {s : State} (safe : s.grantSafe) : s.checkOutcome.grantSafe := by
  rw [State.checkOutcome]
  split
  · rw [State.measureRecovery]
    split
    · exact mismatch_grantSafe safe
    · split
      · exact recoveryDone_grantSafe (s := s.freeze _) safe _ _
      · exact safe
  · exact safe

theorem containBoot_grantSafe {s : State} (safe : s.grantSafe) : s.containBoot.grantSafe :=
  checkOutcome_grantSafe (contain_grantSafe safe _)

/-- A cause that leaves the cause set keeps the latch clear where it was (11 R166). -/
theorem passPassed_grantSafe {s : State} (safe : s.grantSafe) : s.passPassed.grantSafe := by
  refine ⟨fun held => ⟨(safe.1 held).1, ?_⟩, safe.2⟩
  have clear : s.response.causes = 0 := by simpa [contained_iff] using mt (contained_iff s).2 (by simp [(safe.1 held).2])
  simp [State.contained, Response.latch, State.passPassed, clear]

theorem passEnd_grantSafe {s : State} (safe : s.grantSafe) (p : Pass) : (s.passEnd p).grantSafe := by
  rw [State.passEnd]
  split
  · exact checkOutcome_grantSafe (passPassed_grantSafe safe)
  · split
    · exact place_grantSafe (s := { s with rst := { s.rst with check := .waitFallback } }) safe _ _
    · exact containBoot_grantSafe safe

theorem passRun_grantSafe (todo : List Nat) {s : State} (safe : s.grantSafe) (p : Pass) :
    (s.passRun p todo).grantSafe := by
  induction todo generalizing s p with
  | nil => exact passEnd_grantSafe safe _
  | cons i rest ih =>
    rw [State.passRun]
    split
    · exact ih safe _
    · split
      · exact ih (takeDigest_grantSafe (s := s.freeze i) safe _ _ _ _ _) _
      · exact safe

theorem startPass_grantSafe {s : State} (safe : s.grantSafe) (second : Bool) : (s.startPass second).grantSafe :=
  passRun_grantSafe _ safe _

theorem offerRestored_grantSafe {s : State} (safe : s.grantSafe) : s.offerRestored.grantSafe := by
  refine foldl_grantSafe (fun u id held => ?_) _ safe
  split
  · exact offer_grantSafe held _ _ _
  · exact held

/-- A bank presented and a layout in force (09 R152, 11 R169). -/
theorem present_grantSafe {s : State} (safe : s.grantSafe) (bank : Bank) (trial : Bool) (l : Option Layout)
    (source : LayoutSource) : (s.present bank trial l source).grantSafe := by
  simp only [State.present, State.installLayout]
  split
  · exact offerRestored_grantSafe safe
  · exact safe

theorem presentTrial_grantSafe {s : State} (safe : s.grantSafe) : s.presentTrial.grantSafe := by
  rw [State.presentTrial]
  split <;> exact present_grantSafe safe _ _ _ _

theorem decideBoot_grantSafe {s : State} (safe : s.grantSafe) : s.decideBoot.grantSafe := by
  have opened : State.grantSafe { s with checker := { s.checker with openMapping := !s.isField } } := safe
  simp only [State.decideBoot]
  split
  · split
    · exact place_grantSafe (s := { s with
        checker := { s.checker with openMapping := !s.isField }
        rst := { s.rst with check := .waitEntry } }) safe _ _
    · exact startPass_grantSafe (present_grantSafe opened _ _ _ _) _
  · exact present_grantSafe opened _ _ _ _

theorem proceedCheck_grantSafe {s : State} (safe : s.grantSafe) : s.proceedCheck.grantSafe := by
  rw [State.proceedCheck]
  split
  · exact decideBoot_grantSafe safe
  · exact safe

/-- An entry into CHECK (04 R58). -/
theorem enterCheck_grantSafe {s : State} (safe : s.grantSafe) : s.enterCheck.grantSafe :=
  proceedCheck_grantSafe (s := { s.thawOthers with
    rst := { s.rst with state := .check, pulse := none, pulseWait := false, check := .waitStore }
    measure := { s.measure with slots := Vector.replicate 8 0, log := [], truncated := false, history := [] }
    response := { s.response with fired := 0 } }) safe

theorem endPulse_grantSafe {s : State} (safe : s.grantSafe) : s.endPulse.grantSafe := by
  rw [State.endPulse]
  split
  · exact enterCheck_grantSafe safe
  · exact safe

/-! ### The SoC reset -/

/-- Requests that nothing waits for any more are in progress still (03 R48). -/
theorem orphan_grantSafe {s t : State} (safe : s.grantSafe) (journal : t.journal = s.journal.orphan)
    (owned : t.creds.grant.isSome = true → t.claimed = true ∧ t.contained = false)
    (clear : s.creds.grant = none → t.creds.grant = none) : t.grantSafe := by
  refine ⟨owned, fun scan => ?_⟩
  rw [journal] at scan ⊢
  obtain ⟨none, job, state⟩ := safe.2 scan
  exact ⟨clear none, by simp [Journal.orphan, job], state⟩

theorem abandonSession_grantSafe {s : State} (safe : s.grantSafe) : s.abandonSession.grantSafe := by
  simp only [State.abandonSession]
  split
  · exact place_grantSafe (s := (State.withdraw { s with update := { s.update with
      session := .idle, verification := .none } } .update).thawStages) safe _ _
  · exact safe

/-- The assertion of SOC_RST clears the grant (04 R55, 08 R120). -/
theorem assertReset_grantSafe {s : State} (safe : s.grantSafe) : s.assertReset.grantSafe := by
  simp only [State.assertReset]
  refine abandonSession_grantSafe (orphan_grantSafe safe rfl (fun held => ?_) fun _ => rfl)
  cases held

theorem abandonCheck_grantSafe {s : State} (safe : s.grantSafe) : s.abandonCheck.grantSafe :=
  orphan_grantSafe safe rfl safe.1 id

/-- An owner reset (04 R62). -/
theorem ownerReset_grantSafe {s : State} (safe : s.grantSafe) : s.ownerReset.grantSafe := by
  let recorded := State.recordCause { s with rst := { s.rst with hold := none } } .ownerReset
  have asked : (if s.isField then (recorded.place .ownerEpoch false).clearGrant else recorded).grantSafe := by
    split
    · exact clearGrant_grantSafe (place_grantSafe (s := recorded) safe _ _)
    · exact safe
  simp only [State.ownerReset]
  split
  · exact assertReset_grantSafe asked
  · exact abandonCheck_grantSafe asked
  all_goals exact asked

theorem requestAsserted_grantSafe {s : State} (safe : s.grantSafe) : s.requestAsserted.grantSafe := by
  rw [State.requestAsserted]
  split
  · exact abandonCheck_grantSafe safe
  · exact assertReset_grantSafe safe
  all_goals exact safe

theorem startPulse_grantSafe {s : State} (safe : s.grantSafe) (c : ResetCause) : (s.startPulse c).grantSafe :=
  assertReset_grantSafe (s := s.recordCause c) safe

end Sys2Proof.Machine
end

section
namespace Sys2Proof.Machine

/-! ### Changes of a credential record -/

theorem putCred_grantSafe {s : State} (safe : s.grantSafe) {id : Nat} {r r' : CredRecord}
    (held : s.creds.get id = some r) (content : r'.content = r.content) (epoch : r'.epoch = r.epoch) :
    (s.putCred id (some r')).grantSafe :=
  ⟨fun grant => ⟨(claimed_putCred held content epoch).trans (safe.1 grant).1, (safe.1 grant).2⟩, safe.2⟩

theorem offerCount_grantSafe {s : State} (safe : s.grantSafe) (id : Nat) (before after : Byte) :
    (s.offerCount id before after).grantSafe := by
  rw [State.offerCount]
  split
  · exact safe
  · exact offer_grantSafe safe _ _ _

theorem startDecay_grantSafe {s : State} (safe : s.grantSafe) (id : Nat) : (s.startDecay id).grantSafe := by
  rw [State.startDecay]
  split
  · rename_i r held
    split
    · split
      · exact putCred_grantSafe safe held rfl rfl
      · exact safe
    · exact safe
  · exact safe

theorem startDelay_grantSafe {s : State} (safe : s.grantSafe) (id : Nat) : (s.startDelay id).grantSafe := by
  simp only [State.startDelay]
  split
  · rename_i r held
    split
    · split
      · exact startDecay_grantSafe safe id
      · exact putCred_grantSafe safe held rfl rfl
    · exact safe
  · exact safe

/-- A record replaced or removed clears the grant where the part is not CLAIMED any more (08 R118). -/
theorem recordSet_grantSafe {s : State} (safe : s.grantSafe) (id : Nat) (r : Option CredRecord) :
    (s.recordSet id r).grantSafe := by
  simp only [State.recordSet]
  split
  · exact grantSafe_of_none rfl fun scan => (safe.2 scan).2
  · rename_i settled
    refine ⟨fun held => ⟨?_, (safe.1 held).2⟩, safe.2⟩
    exact Bool.of_not_eq_false fun unclaimed => settled ⟨(safe.1 held).1, unclaimed⟩

theorem removeCred_grantSafe {s : State} (safe : s.grantSafe) (id : Nat) : (s.removeCred id).grantSafe := by
  rw [removeCred_eq]
  exact recordSet_grantSafe safe _ _

/-! ### Answers -/

theorem finishIf_grantSafe {s : State} (safe : s.grantSafe) (live : Bool) (r : Result) (body : Bytes) :
    (s.finishIf live r body).grantSafe := by
  rw [State.finishIf]
  split <;> exact safe

theorem credStored_grantSafe {s : State} (safe : s.grantSafe) (live : Bool) (id : Nat) (c : Credential)
    (epoch : Word32) : (s.credStored live id c epoch).grantSafe := by
  simp only [credStored_eq, State.answered]
  have stored : (if epoch = s.journal.epoch then s.recordSet id (some {
      content := c, epoch := epoch, count := 0, delayTimer := none, decayTimer := none, restored := 0 })
      else s).grantSafe := by
    split
    · exact recordSet_grantSafe safe _ _
    · exact safe
  split <;> exact stored

/-- The record of a count entry is there (08 R126). -/
theorem get_of_countedRecord {s : State} {id : Nat} {epoch : Word32} {r : CredRecord} {v : Verifier}
    (counted : s.countedRecord id epoch = some (r, v)) : s.creds.get id = some r := by
  rw [State.countedRecord] at counted
  split at counted
  · rename_i x held
    split at counted
    · split at counted
      · cases counted
        exact held
      · cases counted
    · cases counted
  · cases counted

theorem countWritten_grantSafe {s : State} (safe : s.grantSafe) (live : Bool) (id : Nat) (count : Byte)
    (epoch : Word32) (candidate : Bytes) : (s.countWritten live id count epoch candidate).grantSafe := by
  simp only [State.countWritten]
  split
  · exact finishIf_grantSafe safe _ _ _
  · rename_i r v counted
    have taken := offerCount_grantSafe (putCred_grantSafe (r' := { r with count := count }) safe
      (get_of_countedRecord counted) rfl rfl) id r.count count
    split
    · exact place_grantSafe taken _ _
    · exact finishIf_grantSafe (startDelay_grantSafe taken id) _ _ _

/-- A match sets the grant where the part is CLAIMED and the latch clear (08 R119, R127). -/
theorem matchGrant_grantSafe {s : State} (safe : s.grantSafe) (started : s.journal.scan = none) (live : Bool)
    (v : Verifier) : (s.matchGrant live v).grantSafe := by
  rw [State.matchGrant]
  split
  · rename_i owner
    simp only [Bool.and_eq_true, Bool.not_eq_true'] at owner
    obtain ⟨⟨_, claimed⟩, clear⟩ := owner
    exact grantSafe_of_started started fun _ => ⟨claimed, clear⟩
  · exact safe

theorem matchWritten_grantSafe {s : State} (safe : s.grantSafe) (started : s.journal.scan = none) (live : Bool)
    (id : Nat) (epoch : Word32) : (s.matchWritten live id epoch).grantSafe := by
  simp only [State.matchWritten, offerCount_to_zero]
  split
  · exact finishIf_grantSafe safe _ _ _
  · rename_i r v counted
    have taken := putCred_grantSafe (r' := { r with count := 0, delayTimer := none, decayTimer := none }) safe
      (get_of_countedRecord counted) rfl rfl
    exact finishIf_grantSafe (matchGrant_grantSafe taken started live v) _ _ _

theorem countFallback_grantSafe {s : State} (safe : s.grantSafe) : s.countFallback.grantSafe :=
  offerChange_grantSafe (s := { s with update := { s.update with fallbacks := bump s.update.fallbacks } }) safe _ _ _

theorem trialDecided_grantSafe {s : State} (safe : s.grantSafe) (live ok attempt : Bool) :
    (s.trialDecided live ok attempt).grantSafe := by
  have presented : (if (ok && attempt) = true then s.presentTrial else s.presentActive).grantSafe := by
    split
    · exact presentTrial_grantSafe safe
    · exact present_grantSafe safe _ _ _ _
  have counted {u : State} (held : u.grantSafe) : (if (ok && !attempt) = true then u.countFallback else u).grantSafe := by
    split
    · exact countFallback_grantSafe held
    · exact held
  simp only [State.trialDecided]
  split
  · exact startPass_grantSafe (counted presented) _
  · exact counted safe

theorem fellBack_grantSafe {s : State} (safe : s.grantSafe) (live ok trial : Bool) (bank : Bank) :
    (s.fellBack live ok trial bank).grantSafe := by
  simp only [State.fellBack]
  cases ok with
  | false =>
    simp only [Bool.false_eq_true, if_false]
    split
    · exact containBoot_grantSafe safe
    · exact safe
  | true =>
    simp only [if_true]
    cases live && s.rst.check == .waitFallback <;> cases trial <;> simp only [Bool.false_eq_true, if_true, if_false]
    · exact safe
    · exact countFallback_grantSafe safe
    · exact startPass_grantSafe (s := { s with update := { s.update with presented := bank } }) safe _
    · exact startPass_grantSafe (countFallback_grantSafe (present_grantSafe safe _ _ _ _)) _

/-- What the answer OK does keeps the grant safe (08 R119, R120). -/
theorem answeredOk_grantSafe {s : State} (safe : s.grantSafe) (started : s.journal.scan = none) (before : State)
    (q : StoreRequest) : (s.answeredOk before q).grantSafe := by
  simp only [State.answeredOk]
  cases q.purpose with
  | keyCreate n k =>
    simp only [State.keyCreated]
    refine finishIf_grantSafe ?_ _ _ _
    split <;> exact safe
  | credStore id c epoch => exact credStored_grantSafe safe _ _ _ _
  | credCount id count epoch candidate => exact countWritten_grantSafe safe _ _ _ _ _
  | credMatch id epoch => exact matchWritten_grantSafe safe started _ _ _
  | credErase id epoch => exact finishIf_grantSafe (removeCred_grantSafe safe id) _ _ _
  | updateOpen m =>
    simp only [State.opened]
    split <;> exact safe
  | trialAttempt => exact trialDecided_grantSafe safe _ _ _
  | trialTimeout => exact trialDecided_grantSafe safe _ _ _
  | bootFallback => exact fellBack_grantSafe safe _ _ _ _
  | responseErase id epoch => exact removeCred_grantSafe safe id
  | sessionAbandon => exact safe
  | ownerEpoch => exact safe
  | updateConfirm => exact finishIf_grantSafe (s := State.raise { s with update := _ } .trial) safe _ _ _
  | keyDestroy n => exact finishIf_grantSafe (s := s.putKey n none) safe _ _ _
  | provisionAuthority key => exact finishIf_grantSafe (s := { s with keys := { s.keys with authority := some key } }) safe _ _ _
  | _ => exact finishIf_grantSafe safe _ _ _

/-- So does what the answer STORE_FAULT does. -/
theorem answeredFault_grantSafe {s : State} (safe : s.grantSafe) (q : StoreRequest) : (s.answeredFault q).grantSafe := by
  simp only [State.answeredFault]
  cases q.purpose with
  | credCount id count epoch candidate => exact finishIf_grantSafe (startDecay_grantSafe safe id) _ _ _
  | credMatch id epoch => exact finishIf_grantSafe (startDecay_grantSafe safe id) _ _ _
  | trialAttempt => exact trialDecided_grantSafe safe _ _ _
  | trialTimeout => exact trialDecided_grantSafe safe _ _ _
  | bootFallback => exact fellBack_grantSafe safe _ _ _ _
  | sessionAbandon => exact safe
  | ownerEpoch => exact safe
  | responseErase id epoch => exact safe
  | _ => exact finishIf_grantSafe safe _ _ _

/-- An answer, and what goes on after it (06 R90). -/
theorem answerStore_grantSafe {s : State} (safe : s.grantSafe) (started : s.journal.scan = none) (q : StoreRequest)
    (ok : Bool) : (s.answerStore q ok).grantSafe := by
  have taken : (s.takeRecord q).grantSafe := by
    rw [State.takeRecord]
    split <;> exact safe
  rw [State.answerStore, State.afterAnswer]
  refine endPulse_grantSafe (proceedCheck_grantSafe (pumpErase_grantSafe (pumpRequests_grantSafe ?_)))
  split
  · exact answeredOk_grantSafe taken ((congrArg Journal.scan (takeRecord_journal s q)).trans started) s q
  · exact answeredFault_grantSafe safe q

/-! ### The request in progress

Its steps change the request in progress, which only the scan forbids. -/

/-- A request in progress goes to another step (06 R91). -/
theorem goTo_grantSafe {s : State} (safe : s.grantSafe) (started : s.journal.scan = none) (job : Job) (step : JobStep)
    (op : FlashOp) : (s.goTo job step op).grantSafe := grantSafe_of_started started safe.1

/-- A request that fails (06 R92). -/
theorem failRequest_grantSafe {s : State} (safe : s.grantSafe) (started : s.journal.scan = none) (job : Job) :
    (s.failRequest job).grantSafe :=
  answerStore_grantSafe (contain_grantSafe (s := { s with journal := { s.journal with job := none, state := .fault } })
    (grantSafe_of_started started safe.1) _) started _ _

theorem passRequest_grantSafe {s : State} (safe : s.grantSafe) (started : s.journal.scan = none) (job : Job) :
    (s.passRequest job).grantSafe :=
  answerStore_grantSafe (s := { s with journal := { s.journal with job := none } })
    (grantSafe_of_started started safe.1) started _ _

/-- A request with every entry durable (06 R91). -/
theorem entriesDone_grantSafe {s : State} (safe : s.grantSafe) (started : s.journal.scan = none) (job : Job) :
    (s.entriesDone job).grantSafe := by
  simp only [State.entriesDone]
  split
  · exact grantSafe_of_started started safe.1
  · exact passRequest_grantSafe safe started job

theorem programNext_grantSafe {s : State} (safe : s.grantSafe) (started : s.journal.scan = none) (job : Job)
    (k : WriteKind) (w : Writing) (pages : List (Nat × Bytes)) : (s.programNext job k w pages).grantSafe := by
  cases pages <;> exact goTo_grantSafe safe started _ _ _

theorem beginWrite_grantSafe {s : State} (safe : s.grantSafe) (started : s.journal.scan = none) (job : Job)
    (k : WriteKind) (w : Writing) : (s.beginWrite job k w).grantSafe :=
  programNext_grantSafe safe started _ _ _ _

/-- The next entry of a request (06 R91). -/
theorem nextEntry_grantSafe {s : State} (safe : s.grantSafe) (started : s.journal.scan = none) (job : Job) :
    (s.nextEntry job).grantSafe := by
  rw [State.nextEntry]
  split
  · exact entriesDone_grantSafe safe started job
  · simp only [State.beginEntry]
    split
    · exact failRequest_grantSafe safe started job
    · split
      · exact goTo_grantSafe safe started _ _ _
      · split
        · exact beginWrite_grantSafe safe started _ _ _
        · exact goTo_grantSafe safe started _ _ _

/-- A durable entry: a new owner epoch clears the grant (06 R95, 08 R139). -/
theorem durable_grantSafe {s : State} (safe : s.grantSafe) (started : s.journal.scan = none) (e : StoreEntry)
    (g : Word32) (w : Writing) : (s.durable e g w).grantSafe ∧ (s.durable e g w).journal.scan = none := by
  by_cases kind : e.kind = .ownerEpoch
  · rw [(durable_of_ownerEpoch kind s g w).1]
    exact ⟨grantSafe_of_started started fun held => (nomatch held), started⟩
  · rw [durable_of_plain kind]
    exact ⟨safe, started⟩

theorem copyNext_grantSafe {s : State} (safe : s.grantSafe) (started : s.journal.scan = none) (job : Job)
    (todo copied : List IndexRecord) : (s.copyNext job todo copied).grantSafe := by
  cases todo with
  | nil => exact beginWrite_grantSafe safe started _ _ _
  | cons r rest => exact goTo_grantSafe safe started _ _ _

theorem writeDone_grantSafe {s : State} (safe : s.grantSafe) (started : s.journal.scan = none) (job : Job)
    (k : WriteKind) (w : Writing) : (s.writeDone job k w).grantSafe := by
  cases k with
  | entry g =>
    cases todo : job.todo with
    | nil =>
      simp only [State.writeDone, State.entryWritten, todo]
      exact entriesDone_grantSafe safe started job
    | cons e rest =>
      rw [State.writeDone, entryWritten_eq todo]
      obtain ⟨durable, still⟩ := durable_grantSafe safe started e g w
      exact nextEntry_grantSafe durable still _
  | copy r rest copied => exact copyNext_grantSafe safe started _ _ _
  | checkpoint copied =>
    exact nextEntry_grantSafe (s := s.checkpointed w copied) safe started job

theorem compactionFailed_grantSafe {s : State} (safe : s.grantSafe) (started : s.journal.scan = none) (job : Job)
    (w : Option Writing) : (s.compactionFailed job w).grantSafe := by
  simp only [State.compactionFailed]
  split
  · cases w with
    | some w => exact goTo_grantSafe safe started _ _ _
    | none => exact failRequest_grantSafe safe started job
  · exact goTo_grantSafe safe started _ _ _

theorem writeFailed_grantSafe {s : State} (safe : s.grantSafe) (started : s.journal.scan = none) (job : Job)
    (k : WriteKind) (w : Writing) : (s.writeFailed job k w).grantSafe := by
  cases k with
  | entry g => exact goTo_grantSafe safe started _ _ _
  | copy r rest copied => exact compactionFailed_grantSafe safe started job (some w)
  | checkpoint copied => exact compactionFailed_grantSafe safe started job (some w)

theorem spoilRead_grantSafe {s : State} (safe : s.grantSafe) (started : s.journal.scan = none) (job : Job)
    (w : Writing) (final : Bool) (got : Bytes) : (s.spoilRead job w final got).grantSafe := by
  rw [State.spoilRead]
  split
  · exact failRequest_grantSafe safe started job
  · split
    · exact nextEntry_grantSafe
        (s := { s with journal := { s.journal with appendPoint := w.offset + w.bytes.length } }) safe started _
    · exact goTo_grantSafe safe started _ _ _

theorem copyRead_grantSafe {s : State} (safe : s.grantSafe) (started : s.journal.scan = none) (job : Job)
    (r : IndexRecord) (rest copied : List IndexRecord) (got : Bytes) :
    (s.copyRead job r rest copied got).grantSafe := by
  rw [State.copyRead]
  split
  · exact beginWrite_grantSafe safe started _ _ _
  · exact compactionFailed_grantSafe safe started job none

/-- A program or erase of the Journal Store completes (06 R91, R93). -/
theorem journalOpDone_grantSafe {s : State} (safe : s.grantSafe) : s.journalOpDone.grantSafe := by
  rw [State.journalOpDone]
  cases inProgress : s.journal.job with
  | none => exact safe
  | some job =>
    have started := started_of_job safe inProgress
    simp only
    split
    · exact programNext_grantSafe safe started _ _ _ _
    · exact goTo_grantSafe safe started _ _ _
    · exact goTo_grantSafe safe started _ _ _
    · exact copyNext_grantSafe safe started _ _ _
    all_goals exact safe

/-- A read chunk of the request in progress completes (06 R91 ~ R94). -/
theorem journalChunk_grantSafe {s : State} (safe : s.grantSafe) (bs : Bytes) : (s.journalChunk bs).grantSafe := by
  rw [State.journalChunk]
  cases inProgress : s.journal.job with
  | none => exact safe
  | some job =>
    have started := started_of_job safe inProgress
    simp only
    split
    · split
      · exact goTo_grantSafe safe started _ _ _
      · split
        · exact writeDone_grantSafe safe started job _ _
        · exact writeFailed_grantSafe safe started job _ _
    · exact spoilRead_grantSafe safe started job _ _ bs
    · split
      · exact goTo_grantSafe safe started _ _ _
      · exact copyRead_grantSafe safe started job _ _ _ _
    all_goals exact safe

/-- The oldest request is taken, or refused; while the scan runs it waits (06 R90, R100). -/
theorem takeRequest_grantSafe {s : State} (safe : s.grantSafe) : s.takeRequest.grantSafe := by
  have started (other : s.journal.state ≠ .scanning) : s.journal.scan = none := by
    rw [← Option.not_isSome_iff_eq_none]
    exact fun scan => other (safe.2 scan).2.2
  rw [State.takeRequest]
  split
  · rename_i q rest _ _
    have taken : State.grantSafe { s with journal := { s.journal with queue := rest } } := safe
    have refused (other : s.journal.state ≠ .scanning) : State.grantSafe (State.answerStore
        (State.contain { s with journal := { s.journal with queue := rest } } .storeFault) q false) :=
      answerStore_grantSafe (contain_grantSafe taken _) (started other) _ _
    cases state : s.journal.state with
    | scanning => exact safe
    | ready => exact nextEntry_grantSafe taken (started (by simp [state])) _
    | stale => exact refused (by simp [state])
    | fault => exact refused (by simp [state])
  · exact safe

/-- A write to anchor memory completes (06 R86, R91, 12 R178). -/
theorem anchorWritten_grantSafe {s : State} (safe : s.grantSafe) : s.anchorWritten.grantSafe := by
  rw [State.anchorWritten]
  split
  · exact safe
  · rw [State.finishProvisioning]
    split
    · split <;> exact safe
    · exact safe
  · rename_i floor hash rest _
    simp only
    split
    · rename_i job inProgress
      split
      · exact passRequest_grantSafe
          (s := { s with anchor := Anchor.written { s.anchor with writes := rest } floor hash }) safe
          (started_of_job safe inProgress) job
      · exact safe
    · exact safe

/-! ### Start-up -/

theorem startRestored_grantSafe {s : State} (safe : s.grantSafe) : s.startRestored.grantSafe := by
  refine foldl_grantSafe (fun u id held => ?_) _ safe
  split
  · split
    · exact held
    · exact startDelay_grantSafe held _
  · exact held

/-- At the end of the scan no grant is held (08 R137). -/
theorem startupComplete_grantSafe {s : State} (scan : s.scanSafe) (outcome : StoreState) :
    (s.startupComplete outcome).grantSafe := by
  have ended : State.grantSafe { s with journal := { s.journal with state := outcome, scan := none } } :=
    grantSafe_of_none scan.1 fun running => (nomatch running)
  have restored := startRestored_grantSafe ended
  simp only [State.startupComplete]
  revert restored
  generalize State.startRestored { s with journal := { s.journal with state := outcome, scan := none } } = u
  intro restored
  split
  · exact restored
  · exact enterCheck_grantSafe restored

theorem handNext_grantSafe {s : State} (scan : s.scanSafe) (outcome : StoreState) (todo : List IndexRecord) :
    (s.handNext outcome todo).grantSafe := by
  cases todo with
  | nil => exact startupComplete_grantSafe scan outcome
  | cons r rest => exact grantSafe_of_scanSafe scan

/-- The objects handed over bring no grant (06 R99). -/
theorem handOver_scanSafe {s : State} (scan : s.scanSafe) (e : FoundEntry) : (s.handOver e).scanSafe := by
  have journal := handOver_journal s e
  refine ⟨?_, journal ▸ scan.2⟩
  simp only [State.handOver, State.takeBank, State.takeAuthority, State.takeCred, State.takeCount]
  repeat' split
  all_goals exact scan.1

theorem contain_scanSafe {s : State} (scan : s.scanSafe) (c : ContainCause) : (s.contain c).scanSafe :=
  ⟨contain_grant (grantSafe_of_scanSafe scan) c, scan.2⟩

theorem scanned_grantSafe {s : State} (scan : s.scanSafe) (outcome : StoreState) (index : List IndexRecord) :
    (s.scanned outcome index).grantSafe := by
  simp only [State.scanned]
  refine handNext_grantSafe ?_ _ _
  split
  · exact contain_scanSafe scan _
  · exact scan

theorem probesFailed_grantSafe {s : State} (scan : s.scanSafe) (f : Option Found) (neither : Bool) :
    (s.probesFailed f neither).grantSafe := by
  cases f with
  | some f => exact scanned_grantSafe (s := s.withFound f) scan _ _
  | none =>
    simp only [State.probesFailed]
    split <;> exact scanned_grantSafe scan _ _

theorem probeSucceeded_grantSafe {s : State} (scan : s.scanSafe) (area : Capacity) (f : Found) :
    (s.probeSucceeded area f).grantSafe := by
  simp only [State.probeSucceeded]
  split
  · refine scanned_grantSafe ?_ _ _
    exact scan
  · split
    all_goals
      refine scanned_grantSafe ?_ _ _
      exact scan

theorem areaRead_grantSafe {s : State} (scan : s.scanSafe) (area : Capacity) (half0 half1 : Memory) :
    (s.areaRead area half0 half1).grantSafe := by
  have next : (s.probe .mib32 [] [] 0).grantSafe := grantSafe_of_scanSafe scan
  simp only [State.areaRead]
  split
  · split
    · exact probeSucceeded_grantSafe scan _ _
    · split
      · exact next
      · exact probesFailed_grantSafe scan _ _
  · split
    · exact next
    · exact probesFailed_grantSafe scan _ _

/-- A chunk of the scan completes (06 R96 ~ R99). -/
theorem scanChunk_grantSafe {s : State} (scan : s.scanSafe) (bs : Bytes) : (s.scanChunk bs).grantSafe := by
  simp only [State.scanChunk]
  split
  · exact grantSafe_of_scanSafe scan
  · split
    · exact grantSafe_of_scanSafe scan
    · exact areaRead_grantSafe scan _ _ _
  · exact grantSafe_of_scanSafe scan
  · split
    · exact grantSafe_of_scanSafe scan
    · rw [State.handRead]
      split
      · exact handNext_grantSafe (handOver_scanSafe scan _) _ _
      · exact handNext_grantSafe (contain_scanSafe scan _) _ _

theorem storeChunk_grantSafe {s : State} (safe : s.grantSafe) (bs : Bytes) : (s.storeChunk bs).grantSafe := by
  rw [State.storeChunk]
  split
  · rename_i running
    exact scanChunk_grantSafe (safe.2 running) bs
  · exact journalChunk_grantSafe safe bs

end Sys2Proof.Machine
end

section
namespace Sys2Proof.Machine

/-! ### Stage advance and verification -/

theorem advanceTake_grantSafe {s : State} (safe : s.grantSafe) (r : Region) (d : Digest) :
    (s.advanceTake r d).grantSafe := by
  simp only [State.advanceTake]
  split
  · exact contain_grantSafe (takeDigest_grantSafe safe _ _ _ _ _) _
  · exact takeDigest_grantSafe safe _ _ _ _ _

theorem advanceRun_grantSafe (todo : List Nat) {s : State} (safe : s.grantSafe) (a : Advance) :
    (s.advanceRun a todo).grantSafe := by
  induction todo generalizing s a with
  | nil => exact safe
  | cons i rest ih =>
    rw [State.advanceRun]
    split
    · exact ih safe _
    · split
      · exact ih (advanceTake_grantSafe safe _ _) _
      · exact safe

theorem regionDone_grantSafe {s : State} (safe : s.grantSafe) (m : Measuring) : (s.regionDone m).grantSafe := by
  simp only [State.regionDone]
  split
  · exact safe
  · split
    · exact advanceRun_grantSafe _ (advanceTake_grantSafe safe _ _) _
    · split
      · exact passRun_grantSafe _ (takeDigest_grantSafe safe _ _ _ _ _) _
      · exact recoveryDone_grantSafe safe _ _
      · exact safe

theorem measureChunk_grantSafe {s : State} (safe : s.grantSafe) (bs : Bytes) : (s.measureChunk bs).grantSafe := by
  simp only [State.measureChunk]
  split
  · exact safe
  · split
    · exact safe
    · rename_i m _ _
      exact regionDone_grantSafe
        (s := { s with measure := { s.measure with current := some { m with fed := m.fed ++ bs } } }) safe _

theorem verifyRun_grantSafe (targets : List Target) {s : State} (safe : s.grantSafe) (m : Manifest) (hashed : Nat) :
    (s.verifyRun m hashed targets).grantSafe := by
  induction targets with
  | nil => exact safe
  | cons t rest ih =>
    rw [State.verifyRun]
    split
    · split
      · exact ih
      · exact safe
    · exact safe

theorem verifyChunk_grantSafe {s : State} (safe : s.grantSafe) (bs : Bytes) : (s.verifyChunk bs).grantSafe := by
  simp only [State.verifyChunk]
  split
  · split
    · exact safe
    · split
      · exact safe
      · split
        · exact verifyRun_grantSafe _ safe _ _
        · exact safe
  · exact safe

/-! ### The SoC Port -/

theorem readDataByte_grantSafe {s : State} (safe : s.grantSafe) (misread : FlashCells) :
    (s.readDataByte misread).grantSafe := by
  rw [State.readDataByte]
  split
  · rename_i d _
    split
    · rename_i e _
      split
      · split
        · exact safe
        · simp only [State.serveFlash]
          repeat' split
          all_goals exact safe
        · simp only [State.serveFill]
          split
          · split
            · exact safe
            · exact violate_grantSafe (s := s.serve { d with violated := true } 0xFF none) safe _ _ _ _
          · exact safe
      · exact safe
    · exact safe
  · exact safe

theorem submit_grantSafe {s : State} (safe : s.grantSafe) : s.submit.grantSafe := by
  simp only [State.submit, State.examine]
  repeat' split
  all_goals exact safe

theorem handWrite_grantSafe {s : State} (safe : s.grantSafe) (w : SocWrite) : (s.handWrite w).grantSafe := by
  rw [State.handWrite]
  split <;> exact safe

theorem placeProgram_grantSafe {s : State} (safe : s.grantSafe) (e : OpcodeEntry) (p : Nat)
    (page : List (Option Byte)) : (s.placeProgram e p page).grantSafe := by
  rw [State.placeProgram]
  split
  · rw [State.windowProgram]
    split
    · exact safe
    · exact violate_grantSafe safe _ _ _ _
  · exact violate_grantSafe safe _ _ _ _
  · exact handWrite_grantSafe safe _

theorem placeErase_grantSafe {s : State} (safe : s.grantSafe) (e : OpcodeEntry) (p size : Nat) :
    (s.placeErase e p size).grantSafe := by
  rw [State.placeErase]
  split
  · exact submit_grantSafe safe
  · exact violate_grantSafe safe _ _ _ _
  · exact handWrite_grantSafe safe _

theorem judgeWrite_grantSafe {s : State} (safe : s.grantSafe) (cls : OpClass) (p : Nat) {act : State → State}
    (kept : ∀ u, u.grantSafe → (act u).grantSafe) : (s.judgeWrite cls p act).grantSafe := by
  have latched : State.grantSafe { s with port := { s.port with wel := false } } := safe
  simp only [State.judgeWrite]
  split
  · split
    · exact violate_grantSafe latched _ _ _ _
    · exact kept _ latched
  · exact safe

theorem programTransaction_grantSafe {s : State} (safe : s.grantSafe) (opcode : Byte) (received : Bytes) :
    (s.programTransaction opcode received).grantSafe := by
  simp only [State.programTransaction]
  split
  · split
    · exact safe
    · refine judgeWrite_grantSafe ?_ _ _ fun u held => placeProgram_grantSafe held _ _ _
      exact safe
  · exact safe

theorem eraseTransaction_grantSafe {s : State} (safe : s.grantSafe) (cls : OpClass) (size : Nat) (opcode : Byte)
    (received : Bytes) : (s.eraseTransaction cls size opcode received).grantSafe := by
  simp only [State.eraseTransaction]
  split
  · split
    · exact safe
    · refine judgeWrite_grantSafe ?_ _ _ fun u held => placeErase_grantSafe held _ _ _
      exact safe
  · exact safe

theorem plainTransaction_grantSafe {s : State} (safe : s.grantSafe) (cls : OpClass) (opcode : Byte) (n : Nat)
    {f : State → State} (kept : ∀ u, u.grantSafe → (f u).grantSafe) :
    (s.plainTransaction cls opcode n f).grantSafe := by
  simp only [State.plainTransaction]
  split
  · refine kept _ ?_
    exact safe
  · exact safe

theorem openRead_grantSafe {s : State} (safe : s.grantSafe) (cls : OpClass) (opcode : Byte) (received : Bytes) :
    (s.openRead cls opcode received).grantSafe := by
  simp only [State.openRead]
  split <;> exact safe

theorem answer_grantSafe {s : State} (safe : s.grantSafe) (opcode : Byte) (cls : OpClass) (n : Nat)
    (byte : Nat → Byte) : (s.answer opcode cls n byte).grantSafe := by
  simp only [State.answer]
  split <;> exact safe

theorem refuseOpcode_grantSafe {s : State} (safe : s.grantSafe) (opcode : Byte) (n : Nat) :
    (s.refuseOpcode opcode n).grantSafe := by
  simp only [State.refuseOpcode]
  split
  · split
    · split
      · refine violate_grantSafe ?_ _ _ _ _
        exact safe
      · split <;> exact safe
    · exact safe
  · exact safe

theorem startTransaction_grantSafe {s : State} (safe : s.grantSafe) : s.startTransaction.grantSafe := by
  simp only [State.startTransaction]
  split <;> exact safe

theorem endTransaction_grantSafe {s : State} (safe : s.grantSafe) : s.endTransaction.grantSafe := by
  simp only [State.endTransaction]
  repeat' split
  all_goals exact safe

/-! ### Commands of the control window

Each branch refuses, answers, waits or places one request. -/

theorem placed_grantSafe {s : State} (safe : s.grantSafe) (p : Purpose) : (s.wait.place p true).grantSafe :=
  place_grantSafe (s := s.wait) safe p true

theorem credStore_grantSafe {s : State} (safe : s.grantSafe) (body : Bytes) : (s.credStore body).grantSafe := by
  simp only [State.credStore]
  split
  · split
    · exact safe
    · split
      · exact safe
      · exact placed_grantSafe safe _
  · exact safe

theorem credRelease_grantSafe {s : State} (safe : s.grantSafe) (body : Bytes) : (s.credRelease body).grantSafe := by
  simp only [State.credRelease]
  repeat' split
  all_goals exact safe

theorem credVerify_grantSafe {s : State} (safe : s.grantSafe) (body : Bytes) : (s.credVerify body).grantSafe := by
  simp only [State.credVerify]
  split
  · split
    · exact safe
    · rename_i r held
      split
      · exact safe
      · split
        · exact safe
        · split
          · exact safe
          · exact placed_grantSafe (putCred_grantSafe (r' := { r with decayTimer := none }) safe held rfl rfl) _
  · exact safe

theorem credErase_grantSafe {s : State} (safe : s.grantSafe) (body : Bytes) : (s.credErase body).grantSafe := by
  simp only [State.credErase]
  split
  · exact safe
  · split
    · exact safe
    · split
      · exact safe
      · exact placed_grantSafe safe _

theorem stageAdvance_grantSafe {s : State} (safe : s.grantSafe) (body : Bytes) : (s.stageAdvance body).grantSafe := by
  simp only [State.stageAdvance]
  split
  · split
    · exact safe
    · exact advanceRun_grantSafe _ (foldl_grantSafe (change := State.freeze) (fun _ _ held => held) _ (s := s.wait) safe) _
  · exact safe

theorem measureExtend_grantSafe {s : State} (safe : s.grantSafe) (body : Bytes) :
    (s.measureExtend body).grantSafe := by
  simp only [State.measureExtend]
  repeat' split
  all_goals exact safe

theorem measureRead_grantSafe {s : State} (safe : s.grantSafe) (body : Bytes) : (s.measureRead body).grantSafe := by
  simp only [State.measureRead]
  split <;> exact safe

theorem logRead_grantSafe {s : State} (safe : s.grantSafe) (body : Bytes) : (s.logRead body).grantSafe := by
  simp only [State.logRead]
  split <;> exact safe

theorem keyCreate_grantSafe {s : State} (safe : s.grantSafe) (body : Bytes) : (s.keyCreate body).grantSafe := by
  simp only [State.keyCreate]
  repeat' split
  all_goals exact safe

theorem keyPublic_grantSafe {s : State} (safe : s.grantSafe) (body : Bytes) : (s.keyPublic body).grantSafe := by
  simp only [State.keyPublic]
  split
  · exact safe
  · split <;> exact safe

theorem keySign_grantSafe {s : State} (safe : s.grantSafe) (body : Bytes) : (s.keySign body).grantSafe := by
  simp only [State.keySign]
  split
  · split <;> exact safe
  · exact safe

theorem keyDerive_grantSafe {s : State} (safe : s.grantSafe) (body : Bytes) : (s.keyDerive body).grantSafe := by
  simp only [State.keyDerive]
  split
  · split <;> exact safe
  · exact safe

theorem keyDestroy_grantSafe {s : State} (safe : s.grantSafe) (body : Bytes) : (s.keyDestroy body).grantSafe := by
  simp only [State.keyDestroy]
  repeat' split
  all_goals first | exact safe | exact placed_grantSafe safe _

theorem resetSoc_grantSafe {s : State} (safe : s.grantSafe) (body : Bytes) : (s.resetSoc body).grantSafe := by
  rw [State.resetSoc]
  split
  · split
    · exact startPulse_grantSafe safe _
    · exact safe
  · exact safe

theorem causeClear_grantSafe {s : State} (safe : s.grantSafe) (body : Bytes) : (s.causeClear body).grantSafe := by
  simp only [State.causeClear]
  repeat' split
  all_goals exact safe

theorem updateOpen_grantSafe {s : State} (safe : s.grantSafe) (body : Bytes) : (s.updateOpen body).grantSafe := by
  rw [State.updateOpen]
  repeat' split
  all_goals exact safe

theorem updateVerify_grantSafe {s : State} (safe : s.grantSafe) (body : Bytes) : (s.updateVerify body).grantSafe := by
  simp only [State.updateVerify]
  split
  · split
    · refine verifyRun_grantSafe _ ?_ _ _
      exact safe
    · exact safe
  · exact safe

theorem updateCommit_grantSafe {s : State} (safe : s.grantSafe) (body : Bytes) : (s.updateCommit body).grantSafe := by
  rw [State.updateCommit]
  split
  · split
    · exact placed_grantSafe (s := s.endSession) safe _
    · exact safe
  · exact safe

theorem updateAbort_grantSafe {s : State} (safe : s.grantSafe) (body : Bytes) : (s.updateAbort body).grantSafe := by
  rw [State.updateAbort]
  split
  · split
    · exact placed_grantSafe (s := s.endSession) safe _
    · exact safe
  · exact safe

theorem updateConfirm_grantSafe {s : State} (safe : s.grantSafe) (body : Bytes) :
    (s.updateConfirm body).grantSafe := by
  rw [State.updateConfirm]
  repeat' split
  all_goals
    first
      | exact safe
      | exact placed_grantSafe (s := { s with update := { s.update with timer := none } }) safe _

theorem events_grantSafe {s : State} (safe : s.grantSafe) (body : Bytes) : (s.events body).grantSafe := by
  simp only [State.events]
  split <;> exact safe

theorem layoutRead_grantSafe {s : State} (safe : s.grantSafe) (body : Bytes) : (s.layoutRead body).grantSafe := by
  simp only [State.layoutRead]
  split <;> exact safe

theorem attest_grantSafe {s : State} (safe : s.grantSafe) (body : Bytes) : (s.attest body).grantSafe := by
  simp only [State.attest]
  split <;> exact safe

theorem provisionLayout_grantSafe {s : State} (safe : s.grantSafe) (body : Bytes) :
    (s.provisionLayout body).grantSafe := by
  rw [State.provisionLayout]
  split
  · exact safe
  · split
    · exact safe
    · split
      · refine place_grantSafe ?_ _ _
        exact safe
      · exact safe

theorem provisionAuthority_grantSafe {s : State} (safe : s.grantSafe) (body : Bytes) :
    (s.provisionAuthority body).grantSafe := by
  rw [State.provisionAuthority]
  repeat' split
  all_goals first | exact safe | exact placed_grantSafe safe _

theorem provisionBank_grantSafe {s : State} (safe : s.grantSafe) (body : Bytes) :
    (s.provisionBank body).grantSafe := by
  rw [State.provisionBank]
  repeat' split
  all_goals first | exact safe | exact placed_grantSafe safe _

theorem provisionFinish_grantSafe {s : State} (safe : s.grantSafe) (body : Bytes) :
    (s.provisionFinish body).grantSafe := by
  rw [State.provisionFinish]
  repeat' split
  all_goals exact safe

theorem completeUse_grantSafe {s : State} (safe : s.grantSafe) (n : Nat) (k : KeyRecord) (result : Bytes) :
    (s.completeUse n k result).grantSafe := by
  rw [State.completeUse]
  split <;> exact safe

/-- The Signature Unit completes its operation (07 R106, 08 R123, 09 R144). -/
theorem signatureDone_grantSafe {s : State} (safe : s.grantSafe) (job : SignatureJob) :
    (s.signatureDone job).grantSafe := by
  cases job with
  | createKey slot cls sign mask needsGrant containedOk bind => exact place_grantSafe (s := s.draw 1) safe _ _
  | sign slot key digest => exact completeUse_grantSafe (s := s.draw signDraws) safe _ _ _
  | derive slot key message => exact completeUse_grantSafe safe _ _ _
  | salt id content value => exact place_grantSafe (s := s.draw 1) safe _ _
  | attest report => exact safe
  | manifest body =>
    simp only [State.signatureDone, State.manifestDone]
    split
    · exact safe
    · exact place_grantSafe safe _ _

/-! ### Every command -/

theorem take_grantSafe {s : State} (safe : s.grantSafe) (c : Command) {f : Bytes → State}
    (kept : ∀ body, (f body).grantSafe) : (s.take c f).grantSafe := by
  rw [State.take]
  split
  · split
    · exact kept _
    · exact safe
  · exact safe

theorem whenPowered_grantSafe {s u : State} (safe : s.grantSafe) (kept : u.grantSafe) : (s.whenPowered u).grantSafe := by
  rw [State.whenPowered]
  split
  · exact kept
  · exact safe

/-- At power-on the scan begins with no grant held (06 R86, 08 R116). -/
theorem powerOn_grantSafe (s : State) : s.powerOn.grantSafe := grantSafe_of_scanSafe ⟨rfl, rfl, rfl⟩

theorem internalDone_grantSafe {s : State} (safe : s.grantSafe) (r : Requester) (op : FlashOp) (failed : FlashCells) :
    (s.internalDone r op failed).grantSafe := by
  rw [internalDone_eq]
  split
  · exact journalOpDone_grantSafe (s := s.handedOn r op failed) safe
  · exact safe

/-- A delay that has run out (08 R130). -/
theorem delayExpiry_grantSafe {s : State} (safe : s.grantSafe) (id : Nat) {t : State}
    (run : exec (.delayExpiry id) s = .next t) : t.grantSafe := by
  cases run
  refine whenPowered_grantSafe safe ?_
  split
  · rename_i r held
    split
    · split
      · exact startDecay_grantSafe (putCred_grantSafe (r' := { r with delayTimer := none }) safe held rfl rfl) id
      · exact safe
    · exact safe
  · exact safe

/-- A decay step (08 R132). -/
theorem decayExpiry_grantSafe {s : State} (safe : s.grantSafe) (id : Nat) {t : State}
    (run : exec (.decayExpiry id) s = .next t) : t.grantSafe := by
  cases run
  refine whenPowered_grantSafe safe ?_
  split
  · rename_i r held
    split
    · simp only
      split
      · have lowered (lower : Byte) := putCred_grantSafe (r' := { r with count := lower, decayTimer := none }) safe held
          rfl rfl
        exact startDecay_grantSafe (offerCount_grantSafe (lowered _) _ _ _) id
      · exact safe
    · exact safe
  · exact safe

/-- Whatever a command leads to keeps the grant safe (08 R120, R137). -/
theorem exec_grantSafe (i : Instr) {s : State} (safe : s.grantSafe) (t : State) (run : exec i s = .next t) :
    t.grantSafe := by
  have next {u : State} (kept : u.grantSafe) :
      ∀ t, Host.Outcome.next (φ := Fault) (ρ := Refusal) u = .next t → t.grantSafe :=
    fun t same => Host.Outcome.next.inj same ▸ kept
  have powered {u : State} (kept : u.grantSafe) := next (whenPowered_grantSafe safe kept)
  have taken {c : Command} {f : Bytes → State} (kept : ∀ body, (f body).grantSafe) := next (take_grantSafe safe c kept)
  revert t run
  cases i with
  | powerOn => exact next (powerOn_grantSafe s)
  | lossOfSupply torn => exact powered (powerOn_grantSafe s)
  | uptimeTick => exact powered safe
  | transactionStart => exact next (startTransaction_grantSafe safe)
  | transactionEnd => exact next (endTransaction_grantSafe safe)
  | suspendComplete =>
    refine powered ?_
    split <;> exact safe
  | read opcode received => exact next (openRead_grantSafe safe _ _ _)
  | fastRead opcode received => exact next (openRead_grantSafe safe _ _ _)
  | readDataByte misread => exact powered (readDataByte_grantSafe safe misread)
  | program opcode received => exact next (programTransaction_grantSafe safe _ _)
  | erase4k opcode received => exact next (eraseTransaction_grantSafe safe _ _ _ _)
  | erase64k opcode received => exact next (eraseTransaction_grantSafe safe _ _ _ _)
  | eraseChip bare =>
    refine next (plainTransaction_grantSafe safe _ _ _ fun u held => ?_)
    split
    · exact violate_grantSafe (s := { u with port := { u.port with wel := false } }) held _ _ _ _
    · exact held
  | writeEnable bare => exact next (plainTransaction_grantSafe safe _ _ _ fun u held => held)
  | writeDisable bare => exact next (plainTransaction_grantSafe safe _ _ _ fun u held => held)
  | statusRead opcode n => exact next (answer_grantSafe safe _ _ _ _)
  | idRead opcode n => exact next (answer_grantSafe safe _ _ _ _)
  | refusedOpcode opcode n => exact next (refuseOpcode_grantSafe safe _ _)
  | internalGrant =>
    refine powered ?_
    split
    · split <;> exact safe
    · exact safe
  | readChunkComplete misread =>
    refine powered ?_
    split
    · exact measureChunk_grantSafe (s := s.chunkDone .measure) safe _
    · split
      · exact verifyChunk_grantSafe (s := s.chunkDone .update) safe _
      · rw [State.withdrawnDone]
        split <;> exact safe
  | storeReadChunkComplete misread =>
    refine powered ?_
    split
    · exact storeChunk_grantSafe (s := s.chunkDone .journal) safe _
    · exact safe
  | flashOperationComplete failed =>
    refine powered ?_
    split
    · exact safe
    · exact safe
    · exact internalDone_grantSafe safe _ _ _
    all_goals exact safe
  | storeRequestTaken => exact powered (takeRequest_grantSafe safe)
  | signatureUnitComplete =>
    refine powered ?_
    split
    · exact signatureDone_grantSafe (s := { s with signature := none }) safe _
    · exact safe
  | rstReqAsserted =>
    refine next ?_
    split
    · exact safe
    · have low : State.grantSafe { s with lines := { s.lines with rstReq := true } } := safe
      exact whenPowered_grantSafe low (requestAsserted_grantSafe low)
  | rstReqDeasserted =>
    refine next ?_
    split
    · have high : State.grantSafe { s with lines := { s.lines with rstReq := false } } := safe
      refine whenPowered_grantSafe high ?_
      split
      · exact enterCheck_grantSafe high
      · exact high
    · exact safe
  | pulseEnd =>
    refine powered ?_
    split
    · exact endPulse_grantSafe (s := { s with rst := { s.rst with pulse := none } }) safe
    · exact safe
  | ownerClrAsserted =>
    refine next ?_
    split
    · exact safe
    · refine whenPowered_grantSafe (s := { s with lines := { s.lines with ownerClr := true } }) safe ?_
      split <;> exact safe
  | ownerClrDeasserted =>
    refine next ?_
    split
    · exact whenPowered_grantSafe (s := { s with lines := { s.lines with ownerClr := false } }) safe safe
    · exact safe
  | ownerReset =>
    refine powered ?_
    split
    · exact ownerReset_grantSafe safe
    · exact safe
  | trialTimerExpiry =>
    refine powered ?_
    split
    · exact startPulse_grantSafe safe _
    · exact safe
  | grantExpiry =>
    refine powered ?_
    split
    · exact clearGrant_grantSafe safe
    · exact safe
  | delayExpiry id => exact fun t run => delayExpiry_grantSafe safe id run
  | decayExpiry id => exact fun t run => decayExpiry_grantSafe safe id run
  | status => exact taken fun _ => safe
  | events => exact taken (events_grantSafe safe)
  | resetSoc => exact taken (resetSoc_grantSafe safe)
  | causeClear => exact taken (causeClear_grantSafe safe)
  | stageAdvance => exact taken (stageAdvance_grantSafe safe)
  | measureExtend => exact taken (measureExtend_grantSafe safe)
  | measureRead => exact taken (measureRead_grantSafe safe)
  | logRead => exact taken (logRead_grantSafe safe)
  | attest => exact taken (attest_grantSafe safe)
  | keyCreate => exact taken (keyCreate_grantSafe safe)
  | keyPublic => exact taken (keyPublic_grantSafe safe)
  | keySign => exact taken (keySign_grantSafe safe)
  | keyDerive => exact taken (keyDerive_grantSafe safe)
  | keyDestroy => exact taken (keyDestroy_grantSafe safe)
  | keyList => exact taken fun _ => safe
  | credStore => exact taken (credStore_grantSafe safe)
  | credRelease => exact taken (credRelease_grantSafe safe)
  | credVerify => exact taken (credVerify_grantSafe safe)
  | credErase => exact taken (credErase_grantSafe safe)
  | credList => exact taken fun _ => safe
  | grantDrop => exact taken fun _ => clearGrant_grantSafe safe
  | updateOpen => exact taken (updateOpen_grantSafe safe)
  | updateVerify => exact taken (updateVerify_grantSafe safe)
  | updateStatus => exact taken fun _ => safe
  | updateCommit => exact taken (updateCommit_grantSafe safe)
  | updateAbort => exact taken (updateAbort_grantSafe safe)
  | updateConfirm => exact taken (updateConfirm_grantSafe safe)
  | violationRead => exact taken fun _ => safe
  | layoutRead => exact taken (layoutRead_grantSafe safe)
  | provisionLayout => exact taken (provisionLayout_grantSafe safe)
  | provisionAuthority => exact taken (provisionAuthority_grantSafe safe)
  | provisionBank => exact taken (provisionBank_grantSafe safe)
  | provisionFinish => exact taken (provisionFinish_grantSafe safe)
  | anchorMemoryWriteComplete => exact powered (anchorWritten_grantSafe safe)

end Sys2Proof.Machine

open Sys2Proof Sys2Proof.Machine

/-- Settles O3: every command keeps the grant safe, and so does a millisecond that passes. -/
theorem stepKeepsGrantSafe : Obligations.StepKeepsGrantSafe := by
  intro s t safe run
  rw [step] at run
  split at run
  · cases run
    rw [State.idle]
    split <;> exact safe
  · rename_i c rest _
    exact exec_grantSafe c (s := { s with pending := rest }) safe t run

end

section
namespace Sys2Proof.Machine

/-! ### The tests of a credential command -/

/-- A one-byte body up to 31 names its record (08 R124, R133). -/
theorem credId_of_id {id : Byte} (low : id.toNat ≤ 31) : credId [id] = some id.toNat := if_pos ⟨rfl, low⟩

/-- No other body names one (08 R124, R133). -/
theorem credId_of_malformed {body : Bytes} (wrong : ∀ id : Byte, body = [id] → 31 < id.toNat) : credId body = none := by
  refine if_neg fun ⟨single, low⟩ => ?_
  obtain ⟨id, rfl⟩ := List.length_eq_one_iff.1 single
  exact Nat.not_lt.2 low (wrong id rfl)

/-- The current stage is not in a stage mask. -/
theorem not_stageIn_iff (s : State) (mask : Byte) :
    (!s.stageIn mask) = true ↔ mask.getLsbD s.measure.stage.toNat = false := by
  simp [State.stageIn, inSet]

/-- The owner gate is shut: the part is CLAIMED and no grant held (08 R122 (3)). -/
def State.gateShut (s : State) : Prop := s.claimed = true ∧ s.creds.grant = none

theorem gateShut_iff (s : State) : (s.claimed && !s.granted) = true ↔ s.gateShut := by
  rw [Bool.and_eq_true, not_granted_iff, State.gateShut]

/-- The request of the command engine that holds one entry (06 section 6.4). -/
theorem wait_place_free {s : State} {c : Command} {body : Bytes} (hands : s.hands c body) {p : Purpose}
    (free : s.journal.freeFor p.source) :
    s.wait.place p true = (s.waiting c body).queued ((s.waiting c body).makeRequest p true) := by
  rw [wait_of_hands hands]
  exact place_free free

/-! ### CRED RELEASE -/

/-- A record is released to the stages of its mask, with the latch clear, and with the grant where it needs one
(08 R124). -/
theorem credRelease_of_secret {s : State} {id : Byte} (hands : s.hands .credRelease [id]) (low : id.toNat ≤ 31)
    {r : CredRecord} {v : Secret} (record : s.creds.get id.toNat = some r) (content : r.content = .secret v) :
    s.credRelease [id] =
      if v.releaseMask.getLsbD s.measure.stage.toNat = false then s.posted 0x13 []
      else if s.response.causes ≠ 0 then s.posted 0x15 []
      else if v.needsGrant = true ∧ s.creds.grant = none then s.posted 0x18 []
      else s.posted 0 ([id, BitVec.ofNat 8 v.value.length] ++ v.value) := by
  have finished := finish_eq_posted hands.2 (show Command.credRelease ≠ .events by decide)
  simp only [State.credRelease, credId_of_id low, record, content, not_stageIn_iff, contained_iff, Bool.and_eq_true,
    not_granted_iff, State.refuse, finished, bytes1_toNat]
  rfl

/-! ### CRED STORE -/

/-- The fields of a CRED STORE body at their offsets (08 R122). -/
structure CredStoreFields (body : Bytes) (id kind flags mask f d len : Byte) (label c q value : Bytes) : Prop where
  length : body.length = 21 + value.length
  id : byteAt body 0 = id
  kind : byteAt body 1 = kind
  flags : byteAt body 2 = flags
  mask : byteAt body 3 = mask
  label : slice body 4 8 = label
  free : byteAt body 12 = f
  delay : byteAt body 13 = d
  ceiling : slice body 14 4 = c
  decay : slice body 18 2 = q
  valueLength : byteAt body 20 = len
  value : body.drop 21 = value

/-- A body made of its fields has them (08 R122). -/
theorem credStoreFields_of_append (id kind flags mask f d len : Byte) {label c q : Bytes} (value : Bytes)
    (hl : label.length = 8) (hc : c.length = 4) (hq : q.length = 2) :
    CredStoreFields ([id, kind, flags, mask] ++ label ++ [f, d] ++ c ++ q ++ [len] ++ value) id kind flags mask f d len
      label c q value := by
  have length : ([id, kind, flags, mask] ++ label ++ [f, d] ++ c ++ q ++ [len] ++ value).length = 21 + value.length := by
    simp only [List.length_append, List.length_cons, List.length_nil, hl, hc, hq]
  match label, c, q, hl, hc, hq with
  | [_, _, _, _, _, _, _, _], [_, _, _, _], [_, _], _, _, _ =>
    exact ⟨length, rfl, rfl, rfl, rfl, rfl, rfl, rfl, rfl, rfl, rfl, rfl⟩

/-- The form of the body: id, kind with its flags, and a value of its length (08 R122 (1)). -/
theorem credStoreFormOk_iff (body : Bytes) : credStoreFormOk body = true ↔
    let n := (byteAt body 20).toNat
    (byteAt body 0).toNat ≤ 31 ∧
      ((byteAt body 1 = 0 ∧ (byteAt body 2 = 0 ∨ byteAt body 2 = 1)) ∨
        (byteAt body 1 = 1 ∧ (byteAt body 2 = 0 ∨ byteAt body 2 = 2))) ∧
      1 ≤ n ∧ n ≤ 64 ∧ body.length = 21 + n := by
  have one : byteAt body 1 = 1 ↔ (byteAt body 1).toNat = 1 :=
    ⟨fun same => by rw [same]; rfl, fun same => BitVec.eq_of_toNat_eq same⟩
  simp only [credStoreFormOk, Bool.and_eq_true, decide_eq_true_eq, and_assoc]
  by_cases verifier : byteAt body 1 = 0
  · simp [verifier]
  · have positive : (byteAt body 1).toNat ≠ 0 := fun zero => verifier (BitVec.eq_of_toNat_eq zero)
    simp only [verifier, if_false, Bool.or_eq_true, beq_iff_eq, false_and, false_or, one]
    constructor
    · rintro ⟨id, kind, rest⟩
      exact ⟨id, ⟨by omega, rest.1⟩, rest.2⟩
    · rintro ⟨id, ⟨kind, flags⟩, rest⟩
      exact ⟨id, by omega, flags, rest⟩

/-- A body that does not reach its value has no form (08 R122 (1)). -/
theorem credStoreFormOk_of_short {body : Bytes} (short : body.length < 22) : ¬credStoreFormOk body = true := by
  rw [credStoreFormOk_iff]
  rintro ⟨_, _, one, _, length⟩
  omega

/-- A flag of a byte that holds no other. -/
theorem getLsbD_eq_beq {flags only : Byte} {i : Nat} (clear : (0 : Byte).getLsbD i = false)
    (set : only.getLsbD i = true) (either : flags = 0 ∨ flags = only) : flags.getLsbD i = (flags == only) := by
  rcases either with rfl | rfl
  · rw [clear, eq_comm, beq_eq_false_iff_ne]
    rintro rfl
    exact Bool.false_ne_true (clear.symm.trans set)
  · rw [set, beq_self_eq_true]

section
variable {body : Bytes} {id kind flags mask f d len : Byte} {label c q value : Bytes}

/-- The form of the body in its fields (08 R122 (1)). -/
theorem CredStoreFields.form (h : CredStoreFields body id kind flags mask f d len label c q value) :
    credStoreFormOk body = true ↔ id.toNat ≤ 31 ∧
      ((kind = 0 ∧ (flags = 0 ∨ flags = 1)) ∨ (kind = 1 ∧ (flags = 0 ∨ flags = 2))) ∧
      1 ≤ len.toNat ∧ len.toNat ≤ 64 ∧ len.toNat = value.length := by
  rw [credStoreFormOk_iff, h.id, h.kind, h.flags, h.valueLength, h.length]
  simp only [Nat.add_left_cancel_iff, eq_comm (a := value.length)]

/-- The VERIFIER of a body, its throttle fields clamped (08 R122). -/
theorem CredStoreFields.verifier (h : CredStoreFields body id kind flags mask f d len label c q value)
    (either : flags = 0 ∨ flags = 1) :
    let delay := max 1 d.toNat
    verifierOf body = {
      ownerGate := flags == 1, verifyMask := mask, label := label, salt := 0, verifier := 0
      free := min 15 f.toNat, delay := delay, ceiling := max delay (min 86400 (beNat c)), decay := min 1440 (beNat q) } := by
  have gate : flags.getLsbD 0 = (flags == 1) := getLsbD_eq_beq (by decide) (by decide) either
  simp only [verifierOf, field, h.flags, h.mask, h.label, h.free, h.delay, h.ceiling, h.decay, gate]

/-- The SECRET of a body (08 R122). -/
theorem CredStoreFields.secret (h : CredStoreFields body id kind flags mask f d len label c q value)
    (either : flags = 0 ∨ flags = 2) :
    secretOf body = { needsGrant := flags == 2, releaseMask := mask, label := label, value := value } := by
  have grant : flags.getLsbD 1 = (flags == 2) := getLsbD_eq_beq (by decide) (by decide) either
  simp only [secretOf, h.flags, h.mask, h.label, h.value, grant]

end

theorem credStore_of_malformed {s : State} {body : Bytes} (hands : s.hands .credStore body)
    (wrong : ¬credStoreFormOk body = true) : s.credStore body = s.posted 0x10 [] := by
  rw [State.credStore, if_neg wrong]
  exact refuse_of_hands hands (by decide) .malformed

theorem credStore_of_shut {s : State} {body : Bytes} (hands : s.hands .credStore body)
    (formed : credStoreFormOk body = true) (shut : s.gateShut) : s.credStore body = s.posted 0x18 [] := by
  rw [State.credStore, if_pos formed, if_pos ((gateShut_iff s).2 shut)]
  exact refuse_of_hands hands (by decide) .grant

/-- A VERIFIER waits for its salt (08 R123). -/
theorem credStore_of_verifier {s : State} {body : Bytes} (hands : s.hands .credStore body)
    (formed : credStoreFormOk body = true) (opened : ¬s.gateShut) (kind : byteAt body 1 = 0) :
    s.credStore body = { s.waiting .credStore body with
      signature := some (.salt (byteAt body 0).toNat (verifierOf body) (body.drop 21)) } := by
  rw [State.credStore, if_pos formed, if_neg fun shut => opened ((gateShut_iff s).1 shut)]
  simp only [kind, if_true, wait_of_hands hands]

/-- A SECRET's entry is placed (08 R123). -/
theorem credStore_of_secret {s : State} {body : Bytes} (hands : s.hands .credStore body)
    (formed : credStoreFormOk body = true) (opened : ¬s.gateShut) (kind : byteAt body 1 ≠ 0)
    (free : s.journal.freeFor .engine) :
    s.credStore body = (s.waiting .credStore body).queued ((s.waiting .credStore body).makeRequest
      (.credStore (byteAt body 0).toNat (.secret (secretOf body)) s.journal.epoch) true) := by
  rw [State.credStore, if_pos formed, if_neg fun shut => opened ((gateShut_iff s).1 shut)]
  simp only [if_neg kind]
  exact wait_place_free hands free

/-! ### CRED ERASE -/

/-- The removal of a record that is there (08 R133). -/
theorem credErase_of_record {s : State} {id : Byte} (hands : s.hands .credErase [id]) (low : id.toNat ≤ 31)
    {r : CredRecord} (record : s.creds.get id.toNat = some r) (free : s.journal.freeFor .engine) :
    (s.gateShut → s.credErase [id] = s.posted 0x18 []) ∧
    (¬s.gateShut → s.credErase [id] = (s.waiting .credErase [id]).queued
      ((s.waiting .credErase [id]).makeRequest (.credErase id.toNat r.epoch) true)) := by
  simp only [State.credErase, credId_of_id low, record]
  refine ⟨fun shut => ?_, fun opened => ?_⟩
  · rw [if_pos ((gateShut_iff s).2 shut)]
    exact refuse_of_hands hands (by decide) .grant
  · rw [if_neg fun shut => opened ((gateShut_iff s).1 shut)]
    exact wait_place_free hands free

end Sys2Proof.Machine

open Sys2Proof Sys2Proof.Machine

/-- Settles O51: CRED STORE by the fields of its body, CRED ERASE by its record. -/
theorem credStoreAndEraseAskTheStore : Obligations.CredStoreAndEraseAskTheStore := by
  refine ⟨claimed_iff, fun s free => ?_⟩
  intro gateShut
  refine ⟨fun body short hands => ?short, fun id kind flags mask f d len label c q value hl hc hq => ?store,
    fun body hands wrong => ?malformed, fun id hands low => ?erase⟩
  case short =>
    simp only [exec, execCredStore, take_of_hands hands,
      credStore_of_malformed hands (credStoreFormOk_of_short short)]
  case store =>
    intro body n formed delay v secret hands
    have fields : CredStoreFields body id kind flags mask f d len label c q value :=
      credStoreFields_of_append id kind flags mask f d len value hl hc hq
    have form : credStoreFormOk body = true ↔ formed := fields.form
    have run : exec .credStore s = .next (s.credStore body) := congrArg Host.Outcome.next (take_of_hands hands _)
    rw [run]
    refine ⟨fun wrong => ?_, fun ok shut => ?_, fun ok opened verifier => ?_, fun ok opened kept => ?_⟩
    · rw [credStore_of_malformed hands (mt form.1 wrong)]
    · rw [credStore_of_shut hands (form.2 ok) shut]
    · have formOk := form.2 ok
      obtain ⟨_, (⟨_, either⟩ | ⟨other, _⟩), _⟩ := ok
      · have made : verifierOf body = v := fields.verifier either
        rw [credStore_of_verifier hands formOk opened (fields.kind.trans verifier), made, fields.value, fields.id]
      · exact absurd (verifier.symm.trans other) (by decide)
    · have formOk := form.2 ok
      obtain ⟨_, (⟨other, _⟩ | ⟨_, either⟩), _⟩ := ok
      · exact absurd (other.symm.trans kept) (by decide)
      · have made : secretOf body = secret := fields.secret either
        have other : byteAt body 1 ≠ 0 := by
          rw [fields.kind, kept]
          decide
        rw [credStore_of_secret hands formOk opened other free, made, fields.id]
        rfl
  case malformed =>
    simp only [exec, execCredErase, take_of_hands hands, State.credErase, credId_of_malformed wrong]
    exact congrArg Host.Outcome.next (refuse_of_hands hands (by decide) .malformed)
  case erase =>
    intro n
    have run : exec .credErase s = .next (s.credErase [id]) := congrArg Host.Outcome.next (take_of_hands hands _)
    rw [run]
    refine ⟨fun absent => ?_, fun r record => ?_⟩
    · simp only [State.credErase, credId_of_id low, show s.creds.get id.toNat = none from absent]
      exact congrArg Host.Outcome.next (refuse_of_hands hands (by decide) .notFound)
    · obtain ⟨shut, placed⟩ := credErase_of_record hands low record free
      exact ⟨fun closed => congrArg Host.Outcome.next (shut closed),
        fun opened => congrArg Host.Outcome.next (placed opened)⟩

/-- Settles O52: the grant dropped in one step, CRED RELEASE by the record its id names. -/
theorem releaseIsTestedAndGrantDropClears : Obligations.ReleaseIsTestedAndGrantDropClears := by
  intro s
  refine ⟨fun body hands => ?drop, fun body hands wrong => ?malformed, fun id hands low => ?release⟩
  case drop =>
    simp only [exec, execGrantDrop, take_of_hands hands]
    exact congrArg Host.Outcome.next (finish_eq_posted (s := s.clearGrant) hands.2
      (show Command.grantDrop ≠ .events by decide) .ok [])
  case malformed =>
    simp only [exec, execCredRelease, take_of_hands hands, State.credRelease, credId_of_malformed wrong]
    exact congrArg Host.Outcome.next (refuse_of_hands hands (by decide) .malformed)
  case release =>
    have run : exec .credRelease s = .next (s.credRelease [id]) := congrArg Host.Outcome.next (take_of_hands hands _)
    rw [run]
    refine congrArg Host.Outcome.next ?_
    have refused (r : Result) : s.refuse r = s.posted r.code [] := refuse_of_hands hands (by decide) r
    cases record : s.creds.get id.toNat with
    | none =>
      simp only [State.credRelease, credId_of_id low, record]
      exact refused .notFound
    | some r =>
      cases content : r.content with
      | verifier v =>
        simp only [State.credRelease, credId_of_id low, record, content]
        exact refused .wrongKind
      | secret v =>
        simp only [content]
        exact credRelease_of_secret hands low record content

end

section
namespace Sys2Proof.Machine

/-! ### The delay and the decay timer -/

/-- The delay doubles from the base delay up to the ceiling, which the clamped doubling has passed after 17 steps
(08 R130). -/
theorem delayAt_of_above {v : Verifier} {f : Nat} (above : v.free < f) (base : 1 ≤ v.delay) (ceiling : v.ceiling ≤ 86400) :
    v.delayAt f = min v.ceiling (v.delay * 2 ^ (f - v.free - 1)) := by
  rw [Verifier.delayAt, if_neg (Nat.not_le.2 above)]
  simp only
  split
  · rename_i steps
    have doubled : 1 * 2 ^ 17 ≤ v.delay * 2 ^ (f - v.free - 1) :=
      Nat.mul_le_mul base (Nat.pow_le_pow_right Nat.two_pos steps)
    exact (Nat.min_eq_left (by omega)).symm
  · rfl

/-- A timer of whole minutes (08 R132). -/
theorem seconds_of_minutes (s : State) (n : Nat) : s.seconds (60 * n) = { start := s.time.clock, span := 60000 * n } :=
  congrArg (Timer.mk s.time.clock) (by omega)

/-- The decay timer starts only where R132 lets it. -/
theorem startDecay_of_verifier {s : State} {n : Nat} {r : CredRecord} {v : Verifier} (record : s.creds.get n = some r)
    (content : r.content = .verifier v) : s.startDecay n =
      if v.decay ≠ 0 ∧ r.count ≠ 0 ∧ r.delayTimer = none ∧ r.decayTimer = none ∧ s.verifyOutstanding n = false then
        s.putCred n (some { r with decayTimer := some { start := s.time.clock, span := 60000 * v.decay } })
      else s := by
  simp only [State.startDecay, record, content, seconds_of_minutes]

/-- The delay timer starts for the count, or with a delay of 0 the decay timer (08 R130, R132). -/
theorem startDelay_of_verifier {s : State} {n : Nat} {r : CredRecord} {v : Verifier} (record : s.creds.get n = some r)
    (content : r.content = .verifier v) : s.startDelay n =
      if v.delayAt r.count.toNat = 0 then s.startDecay n
      else s.putCred n (some { r with
        delayTimer := some { start := s.time.clock, span := 1000 * v.delayAt r.count.toNat } }) := by
  simp only [State.startDelay, record, content]
  rfl

/-- The later of two records put under an id stays. -/
theorem putCred_putCred (s : State) (n : Nat) (x y : Option CredRecord) : (s.putCred n x).putCred n y = s.putCred n y := by
  simp only [State.putCred, Creds.put, Vector.setIfInBounds_setIfInBounds]

/-- A record put with its timers stopped and no CRED VERIFY under way decays while its count is above 0 (08 R132). -/
theorem startDecay_of_stopped {s : State} {n : Nat} {r r' : CredRecord} {v : Verifier}
    (record : s.creds.get n = some r) (content : r'.content = .verifier v) (delay : r'.delayTimer = none)
    (decay : r'.decayTimer = none) (idle : s.verifyOutstanding n = false) :
    (s.putCred n (some r')).startDecay n = s.putCred n (some { r' with
      decayTimer := if v.decay = 0 ∨ r'.count = 0 then none
        else some { start := s.time.clock, span := 60000 * v.decay } }) := by
  have put : (s.putCred n (some r')).creds.get n = some r' := (get_put_held record _ n).trans (if_pos rfl)
  rw [startDecay_of_verifier put content, putCred_putCred]
  by_cases still : v.decay = 0 ∨ r'.count = 0
  · have kept : { r' with decayTimer := none } = r' := by rw [← decay]
    rw [if_pos still, kept]
    exact if_neg fun ⟨rate, count, _⟩ => still.elim rate count
  · rw [if_neg still]
    exact if_pos ⟨fun zero => still (.inl zero), fun zero => still (.inr zero), delay, decay, idle⟩

/-- A timer is due once its time has passed (04 R54). -/
theorem due_iff (tm : Timer) (clock : Nat) : tm.due clock = true ↔ tm.start + tm.span ≤ clock := decide_eq_true_iff

/-- A delay that has run out (08 R130). -/
theorem delayExpiry_of_timer {s : State} {n : Nat} {r : CredRecord} {tm : Timer} (powered : s.powered = true)
    (record : s.creds.get n = some r) (running : r.delayTimer = some tm) :
    exec (.delayExpiry n) s = .next (if tm.start + tm.span ≤ s.time.clock then
      (s.putCred n (some { r with delayTimer := none })).startDecay n else s) := by
  simp only [exec, execDelayExpiry, State.whenPowered, powered, record, running, due_iff, if_true]

/-- A decay step: the count one lower, which fires nothing (08 R132, R136). -/
theorem decayExpiry_of_timer {s : State} {n : Nat} {r : CredRecord} {tm : Timer} (powered : s.powered = true)
    (record : s.creds.get n = some r) (running : r.decayTimer = some tm) :
    exec (.decayExpiry n) s = .next (if tm.start + tm.span ≤ s.time.clock then
      (s.putCred n (some { r with count := if r.count = 0 then 0 else r.count - 1, decayTimer := none })).startDecay n
      else s) := by
  have lowering : (if r.count = 0 then 0 else r.count - 1).toNat ≤ r.count.toNat := by
    split
    · exact Nat.zero_le _
    · bv_omega
  simp only [exec, execDecayExpiry, State.whenPowered, powered, record, running, due_iff, if_true,
    offerCount_of_lowering _ _ lowering]

/-- A request of a CRED VERIFY of the record: its count entry, or after a match that of 0 (08 R126, R127). -/
def Purpose.verifies (n : Nat) : Purpose → Bool
  | .credCount i _ _ _ => i == n
  | .credMatch i _ => i == n
  | _ => false

theorem Purpose.verifies_iff (n : Nat) (p : Purpose) : p.verifies n = true ↔
    (∃ count epoch candidate, p = .credCount n count epoch candidate) ∨ ∃ epoch, p = .credMatch n epoch := by
  cases p <;> simp [Purpose.verifies]

/-- Any request held, in the queue or in progress, as one list (06 R90). -/
theorem anyRequest_eq_any (j : Journal) (f : Purpose → Bool) : j.anyRequest f =
    (j.held.map HeldRequest.purpose ++ j.queue.map StoreRequest.purpose ++
      (j.job.map (fun job => job.request.purpose)).toList).any f := by
  rw [Journal.anyRequest, List.any_append, List.any_append, List.any_map, List.any_map]
  cases j.job with
  | none => rfl
  | some job => exact congrArg (Bool.or _) (Bool.or_false _).symm

/-- A CRED VERIFY is under way between the placing of its count entry and its answer (08 R132). -/
theorem verifyOutstanding_iff (s : State) (n : Nat) : s.verifyOutstanding n = true ↔
    ∃ p ∈ s.journal.held.map HeldRequest.purpose ++
        s.journal.queue.map StoreRequest.purpose ++ (s.journal.job.map (fun j => j.request.purpose)).toList,
      (∃ count epoch candidate, p = .credCount n count epoch candidate) ∨ ∃ epoch, p = .credMatch n epoch := by
  have asked : s.verifyOutstanding n = s.journal.anyRequest (Purpose.verifies n) := rfl
  rw [asked, anyRequest_eq_any, List.any_eq_true]
  exact exists_congr fun p => and_congr_right fun _ => Purpose.verifies_iff n p

end Sys2Proof.Machine

open Sys2Proof Sys2Proof.Machine

/-- Settles O54: the delay's formula, then each timer before and after its time. -/
theorem credentialTimersExpire : Obligations.CredentialTimersExpire := by
  refine ⟨fun v f => ⟨fun within => if_pos within, delayAt_of_above⟩, fun s n r v tm powered record content => ?timers,
    fun s n r v record content => ⟨startDecay_of_verifier record content, startDelay_of_verifier record content⟩,
    verifyOutstanding_iff, fun s tm powered held => ?grant⟩
  case timers =>
    intro free decaying put
    refine ⟨fun running due stopped idle => ?_, fun running early => ?_, fun running due stopped idle counted => ?_,
      fun running early => ?_⟩
    · rw [delayExpiry_of_timer powered record running, if_pos due,
        startDecay_of_stopped (r' := { r with delayTimer := none }) record content rfl stopped idle]
      rfl
    · rw [delayExpiry_of_timer powered record running, if_neg (Nat.not_le.2 early)]
    · have last : r.count - 1 = 0 ↔ r.count = 1 := by
        rw [BitVec.sub_eq_iff_eq_add]
        rfl
      let lowered : CredRecord := { r with
        count := r.count - 1, decayTimer := if v.decay = 0 ∨ r.count = 1 then none else some decaying }
      have run : exec (.decayExpiry n) s = .next (s.putCred n (some lowered)) := by
        rw [decayExpiry_of_timer powered record running, if_pos due, if_neg counted,
          startDecay_of_stopped (r' := { r with count := r.count - 1, decayTimer := none }) record content stopped rfl idle]
        simp only [last]
        rfl
      refine ⟨_, run, (get_put_held record _ n).trans (if_pos rfl), fun m other => ?_, .refl _⟩
      exact (get_put_held record _ m).trans (if_neg other)
    · rw [decayExpiry_of_timer powered record running, if_neg (Nat.not_le.2 early)]
  case grant =>
    have run : exec .grantExpiry s = .next (if tm.start + tm.span ≤ s.time.clock then s.clearGrant else s) := by
      simp only [exec, execGrantExpiry, State.whenPowered, powered, State.expired, held, due_iff, if_true]
    rw [run]
    exact ⟨fun due => by rw [if_pos due]; rfl, fun early => by rw [if_neg (Nat.not_le.2 early)]⟩

end

section
namespace Sys2Proof.Machine

/-! ### CRED VERIFY as it is taken -/

/-- The body of CRED VERIFY has its form: an id and a candidate of 1 ~ 64 bytes (08 R125 (1)). -/
theorem credVerify_form (id : Byte) (candidate : Bytes) :
    (decide (2 ≤ (id :: candidate).length) && decide ((id :: candidate).length ≤ 65) && decide (id.toNat ≤ 31)) = true ↔
      ¬(31 < id.toNat ∨ candidate.length < 1 ∨ 64 < candidate.length) := by
  simp only [Bool.and_eq_true, decide_eq_true_eq, List.length_cons]
  omega

/-- A guess at a VERIFIER of this stage: with its delay running it is refused, else the decay timer is stopped and the
raised count placed (08 R125, R126). -/
theorem credVerify_of_verifier {s : State} {id : Byte} {candidate : Bytes} (hands : s.hands .credVerify (id :: candidate))
    (free : s.journal.freeFor .engine) (formed : ¬(31 < id.toNat ∨ candidate.length < 1 ∨ 64 < candidate.length))
    {r : CredRecord} {v : Verifier} (record : s.creds.get id.toNat = some r) (content : r.content = .verifier v) :
    let stopped := s.putCred id.toNat (some { r with decayTimer := none })
    let waiting := stopped.waiting .credVerify (id :: candidate)
    s.credVerify (id :: candidate) =
      if v.verifyMask.getLsbD s.measure.stage.toNat = false then s.posted 0x13 []
      else match r.delayTimer with
        | some tm => s.posted 0x19 ([id, r.count] ++ beBytes 4 (tm.remaining s.time.clock))
        | none => waiting.queued
            (waiting.makeRequest (.credCount id.toNat (raisedCount r.count) r.epoch candidate) true) := by
  obtain ⟨kind, epoch, count, delayTimer, decayTimer, restored⟩ := r
  obtain rfl : kind = .verifier v := content
  intro stopped waiting
  have finished := finish_eq_posted hands.2 (show Command.credVerify ≠ .events by decide)
  have placed : stopped.wait.place (.credCount id.toNat (raisedCount count) epoch candidate) true = waiting.queued
      (waiting.makeRequest (.credCount id.toNat (raisedCount count) epoch candidate) true) :=
    wait_place_free (s := stopped) hands free
  have first : byteAt (id :: candidate) 0 = id := rfl
  simp only [State.credVerify, first, (credVerify_form id candidate).2 formed, if_true, record, not_stageIn_iff]
  refine ite_congr rfl (fun _ => finished .stage []) fun _ => ?_
  cases delayTimer with
  | none => exact placed
  | some tm =>
    simp only [bytes1_toNat]
    exact finished .throttled _

/-! ### The answers to its entries -/

/-- The record of a count entry of its epoch (08 R126). -/
theorem countedRecord_of_verifier {s : State} {n : Nat} {r : CredRecord} {v : Verifier}
    (record : s.creds.get n = some r) (content : r.content = .verifier v) :
    s.countedRecord n r.epoch = some (r, v) := by
  simp only [State.countedRecord, record, content, if_true]

/-- A record that is gone, or not one of the entry's epoch (08 R126, R127). -/
theorem countedRecord_of_gone {s : State} {n : Nat} {epoch : Word32}
    (gone : ∀ r v, s.creds.get n = some r → r.content = .verifier v → r.epoch ≠ epoch) :
    s.countedRecord n epoch = none := by
  rw [State.countedRecord]
  split
  · rename_i r record
    split
    · rename_i v content
      exact if_neg (gone r v record content)
    · rfl
  · rfl

/-- The count of a durable entry taken and offered (08 R126). -/
def State.countTaken (s : State) (n : Nat) (r : CredRecord) (count : Byte) : State :=
  (s.putCred n (some { r with count := count })).offerCount n r.count count

/-- Beyond the record's count only the Response Unit acts (08 R126, 11 R169). -/
theorem countTaken_only (s : State) (n : Nat) (r : CredRecord) (count : Byte) :
    ResponseOnly (s.putCred n (some { r with count := count })) (s.countTaken n r count) := by
  rw [State.countTaken, State.offerCount]
  split
  · exact .refl _
  · exact offer_only _ _ _ _

/-- The record has the count that was taken (08 R126). -/
theorem countTaken_get {s : State} {n : Nat} {r : CredRecord} (record : s.creds.get n = some r) (count : Byte) :
    (s.countTaken n r count).creds.get n = some { r with count := count } := by
  have put : (s.putCred n (some { r with count := count })).creds.get n = some { r with count := count } :=
    (get_put_held record _ n).trans (if_pos rfl)
  rw [← put, Creds.get, (countTaken_only s n r count).records]
  rfl

/-- A durable count is taken; the candidate that fits asks for the count 0, any other starts the delay (08 R126 ~
R128). -/
theorem countWritten_of_verifier {s : State} {n : Nat} {r : CredRecord} {v : Verifier}
    (record : s.creds.get n = some r) (content : r.content = .verifier v) (count : Byte) (candidate : Bytes) :
    s.countWritten true n count r.epoch candidate =
      if sha256 (beBytes 16 v.salt.toNat ++ candidate) = v.verifier then
        (s.countTaken n r count).place (.credMatch n r.epoch) true
      else ((s.countTaken n r count).startDelay n).answered true 2
        ([BitVec.ofNat 8 n, count] ++ beBytes 4 (v.delayAt count.toNat)) := by
  simp only [State.countWritten, countedRecord_of_verifier record content, Bool.true_and, beq_iff_eq, saltedDigest,
    State.guessFailed, finishIf_eq_answered]
  rfl

/-- Of an abandoned guess the count is taken and its delay begins (08 R129). -/
theorem countWritten_of_abandoned {s : State} {n : Nat} {r : CredRecord} {v : Verifier}
    (record : s.creds.get n = some r) (content : r.content = .verifier v) (count : Byte) (candidate : Bytes) :
    s.countWritten false n count r.epoch candidate = (s.countTaken n r count).startDelay n := by
  simp only [State.countWritten, countedRecord_of_verifier record content, Bool.false_and, Bool.false_eq_true, if_false,
    State.guessFailed, State.finishIf]
  rfl

/-- A delay that starts leaves content and count, and runs where it is above 0 (08 R130). -/
theorem startDelay_get {s : State} {n : Nat} {r : CredRecord} {v : Verifier} (record : s.creds.get n = some r)
    (content : r.content = .verifier v) : ∃ r', (s.startDelay n).creds.get n = some r' ∧ r'.content = r.content ∧
      r'.count = r.count ∧ (v.delayAt r.count.toNat ≠ 0 →
        r'.delayTimer = some { start := s.time.clock, span := 1000 * v.delayAt r.count.toNat }) := by
  have put (x : CredRecord) : (s.putCred n (some x)).creds.get n = some x := (get_put_held record _ n).trans (if_pos rfl)
  rw [startDelay_of_verifier record content]
  split
  · rename_i zero
    rw [startDecay_of_verifier record content]
    split
    · exact ⟨_, put _, rfl, rfl, fun above => absurd zero above⟩
    · exact ⟨r, record, rfl, rfl, fun above => absurd zero above⟩
  · exact ⟨_, put _, rfl, rfl, fun _ => rfl⟩

/-- The record after a match: the count 0 and both timers stopped (08 R127). -/
def CredRecord.matched (r : CredRecord) : CredRecord := { r with count := 0, delayTimer := none, decayTimer := none }

/-- What a match asks of record and part for the grant: an owner-gate record, CLAIMED, and the latch clear (08 R119). -/
def State.ownerMatch (s : State) (v : Verifier) : Prop :=
  v.ownerGate = true ∧ s.claimed = true ∧ s.response.causes = 0

theorem ownerMatch_iff (s : State) (v : Verifier) :
    (true && v.ownerGate && s.claimed && !s.contained) = true ↔ s.ownerMatch v := by
  rw [Bool.true_and, Bool.and_eq_true, Bool.and_eq_true, Bool.not_eq_true', ← Bool.not_eq_true, contained_iff,
    Decidable.not_not, and_assoc, State.ownerMatch]

/-- The record's new count does not change what the match asks (08 R118, R119). -/
theorem ownerMatch_matched {s : State} {n : Nat} {r : CredRecord} (v : Verifier) (record : s.creds.get n = some r) :
    (s.putCred n (some r.matched)).ownerMatch v ↔ s.ownerMatch v := by
  rw [State.ownerMatch, claimed_putCred (r' := r.matched) record rfl rfl]
  rfl

/-- A grant that starts now reports its whole time (08 R119). -/
theorem remaining_of_fresh (clock span : Nat) :
    Timer.remaining { start := clock, span := span } clock = max 1 ((span + 999) / 1000) := by
  rw [Timer.remaining, Nat.add_sub_cancel_left]

/-- The durable count of 0 is taken, the grant set where the match asks for it, and its time reported (08 R119, R127). -/
theorem matchWritten_of_verifier {s : State} {n : Nat} {r : CredRecord} {v : Verifier}
    (record : s.creds.get n = some r) (content : r.content = .verifier v) :
    let put := s.putCred n (some r.matched)
    s.matchWritten true n r.epoch = (put.matchGrant true v).answered true 1 ([BitVec.ofNat 8 n, 0] ++
      beBytes 2 (if true && v.ownerGate && put.claimed && !put.contained then (put.matchGrant true v).grantSeconds
        else 0)) := by
  simp only [State.matchWritten, countedRecord_of_verifier record content, offerCount_to_zero, finishIf_eq_answered]
  rfl

/-- A match of an owner-gate record sets the grant and reports its time (08 R119). -/
theorem matchWritten_of_owner {s : State} {n : Nat} {r : CredRecord} {v : Verifier} (record : s.creds.get n = some r)
    (content : r.content = .verifier v) (owner : s.ownerMatch v) :
    let put := s.putCred n (some r.matched)
    s.matchWritten true n r.epoch =
      State.answered { put with creds := { put.creds with
          grant := some { start := s.time.clock, span := 1000 * s.grantTime } } } true 1
        ([BitVec.ofNat 8 n, 0] ++ beBytes 2 (max 1 ((1000 * s.grantTime + 999) / 1000))) := by
  intro put
  have asks := (ownerMatch_iff put v).2 ((ownerMatch_matched v record).2 owner)
  have granted : put.matchGrant true v = { put with creds := { put.creds with
      grant := some { start := s.time.clock, span := 1000 * s.grantTime } } } := if_pos asks
  rw [matchWritten_of_verifier record content, if_pos asks, granted, ← remaining_of_fresh s.time.clock]
  rfl

/-- Any other match leaves the grant as it is and reports 0 (08 R127). -/
theorem matchWritten_of_other {s : State} {n : Nat} {r : CredRecord} {v : Verifier} (record : s.creds.get n = some r)
    (content : r.content = .verifier v) (other : ¬s.ownerMatch v) :
    s.matchWritten true n r.epoch =
      (s.putCred n (some r.matched)).answered true 1 [BitVec.ofNat 8 n, 0, 0, 0] := by
  have asksNot := mt (ownerMatch_iff (s.putCred n (some r.matched)) v).1 (mt (ownerMatch_matched v record).1 other)
  have kept : (s.putCred n (some r.matched)).matchGrant true v = s.putCred n (some r.matched) := if_neg asksNot
  rw [matchWritten_of_verifier record content, if_neg asksNot, kept]
  rfl

/-- Of an abandoned match the count is 0 (08 R129). -/
theorem matchWritten_of_abandoned {s : State} {n : Nat} {r : CredRecord} {v : Verifier}
    (record : s.creds.get n = some r) (content : r.content = .verifier v) :
    s.matchWritten false n r.epoch = s.putCred n (some r.matched) := by
  simp only [State.matchWritten, countedRecord_of_verifier record content, offerCount_to_zero, State.matchGrant,
    Bool.false_and, Bool.false_eq_true, if_false, State.finishIf]
  rfl

end Sys2Proof.Machine

open Sys2Proof Sys2Proof.Machine

/-- Settles O53: the command as it is taken, then the answers to its two entries, by the comparison and by whether the
command still waits. -/
theorem credVerifyCountsBeforeItCompares : Obligations.CredVerifyCountsBeforeItCompares := by
  refine ⟨fun s hands => ?empty, fun s id candidate hands free => ?taken, fun s n count candidate r v record content => ?counted,
    fun s n r v record content => ?matched, fun s live n count epoch candidate gone => ?gone,
    fun s n count candidate r v record content => ?equations⟩
  case empty =>
    simp only [exec, execCredVerify, take_of_hands hands]
    exact congrArg Host.Outcome.next (refuse_of_hands hands (by decide) .malformed)
  case taken =>
    intro n
    have run : exec .credVerify s = .next (s.credVerify (id :: candidate)) :=
      congrArg Host.Outcome.next (take_of_hands hands _)
    have refused (x : Result) : s.refuse x = s.posted x.code [] := refuse_of_hands hands (by decide) x
    rw [run]
    refine congrArg Host.Outcome.next ?_
    have first : byteAt (id :: candidate) 0 = id := rfl
    by_cases wrong : 31 < n ∨ candidate.length < 1 ∨ 64 < candidate.length
    · simp only [if_pos wrong, State.credVerify, first,
        if_neg (mt (credVerify_form id candidate).1 (fun formed => formed wrong))]
      exact refused .malformed
    rw [if_neg wrong]
    have form := (credVerify_form id candidate).2 wrong
    cases record : s.creds.get n with
    | none =>
      simp only [State.credVerify, first, form, if_true, show s.creds.get id.toNat = none from record]
      exact refused .notFound
    | some r =>
      obtain ⟨content, epoch, failures, delayTimer, decayTimer, restored⟩ := r
      cases content with
      | secret v =>
        simp only [State.credVerify, first, form, if_true,
          show s.creds.get id.toNat = some ⟨.secret v, epoch, failures, delayTimer, decayTimer, restored⟩ from record]
        exact refused .wrongKind
      | verifier v => exact credVerify_of_verifier hands free wrong record rfl
  case counted =>
    intro t
    have only := countTaken_only s n r count
    have stands := countTaken_get record count
    by_cases fits : sha256 (beBytes 16 v.salt.toNat ++ candidate) = v.verifier
    · have placed : t = (s.countTaken n r count).place (.credMatch n r.epoch) true :=
        (countWritten_of_verifier record content count candidate).trans (if_pos fits)
      have after := place_only (s.countTaken n r count) (.credMatch n r.epoch) true
      have window := (only.trans after).window
      have held : t.creds.get n = some { r with count := count } := by
        rw [placed, ← stands, Creds.get, Creds.get, after.records]
      have asked := place_requested (s.countTaken n r count) (.credMatch n r.epoch) true
      rw [← placed] at window asked
      exact ⟨⟨_, held, rfl, rfl⟩, fun differs => absurd fits differs, fun _ =>
        ⟨by rw [window]; rfl, by rw [window]; rfl, asked⟩⟩
    · have missed : t = ((s.countTaken n r count).startDelay n).answered true 2
          ([BitVec.ofNat 8 n, count] ++ beBytes 4 (v.delayAt count.toNat)) :=
        (countWritten_of_verifier record content count candidate).trans (if_neg fits)
      obtain ⟨r', delayed, kept, same, runs⟩ := startDelay_get (v := v) stands content
      rw [only.time] at runs
      rw [missed]
      exact ⟨⟨r', delayed, kept, same⟩, fun _ => ⟨rfl, rfl, rfl, fun above => ⟨r', delayed, runs above⟩⟩,
        fun equal => absurd equal fits⟩
  case matched =>
    intro t
    have held : (s.putCred n (some r.matched)).creds.get n = some r.matched :=
      (get_put_held record _ n).trans (if_pos rfl)
    by_cases owner : s.ownerMatch v
    · rw [show t = _ from matchWritten_of_owner record content owner]
      exact ⟨rfl, rfl, held, fun _ => ⟨rfl, rfl⟩, fun other => absurd owner other⟩
    · rw [show t = _ from matchWritten_of_other record content owner]
      exact ⟨rfl, rfl, held, fun asks => absurd asks owner, fun _ => ⟨rfl, rfl⟩⟩
  case gone =>
    simp only [State.countWritten, State.matchWritten, countedRecord_of_gone gone, finishIf_eq_answered]
    exact ⟨rfl, rfl⟩
  case equations =>
    exact ⟨countWritten_of_verifier record content count candidate, countWritten_of_abandoned record content count candidate,
      matchWritten_of_abandoned record content⟩

end

section
namespace Sys2Proof.Machine

/-! ### Anchor memory never goes back -/

/-- Anchor memory has gone on: the version floor no lower, FIELD kept, the device secret the same (06 R86, 09 R157,
12 R173). -/
def Anchor.Onward (a b : Anchor) : Prop :=
  a.floor.toNat ≤ b.floor.toNat ∧ (a.lifeCycle = .field → b.lifeCycle = .field) ∧ b.deviceSecret = a.deviceSecret

theorem Anchor.Onward.refl (a : Anchor) : a.Onward a := ⟨Nat.le_refl _, id, rfl⟩

theorem Anchor.Onward.trans {a b c : Anchor} (first : a.Onward b) (second : b.Onward c) : a.Onward c :=
  ⟨Nat.le_trans first.1 second.1, fun field => second.2.1 (first.2.1 field), second.2.2.trans first.2.2⟩

theorem Anchor.Onward.of_eq {a b : Anchor} (same : b = a) : a.Onward b := same ▸ .refl a

/-- The halt count is no part of it. -/
theorem StandsBehind.onward {s t : State} (stands : StandsBehind s t) : s.anchor.Onward t.anchor := by
  rw [stands.anchor]
  exact .refl s.anchor

theorem StoreStands.onward {s t : State} (stands : StoreStands s t) : s.anchor.Onward t.anchor :=
  (StandsBehind.of stands).onward

/-- What each of several changes keeps they all keep. -/
theorem foldl_onward {α : Type} {change : State → α → State}
    (each : ∀ (u : State) x, u.anchor.Onward (change u x).anchor) (xs : List α) (s : State) : s.anchor.Onward (xs.foldl change s).anchor := by
  induction xs generalizing s with
  | nil => exact .refl _
  | cons x rest ih => exact (each s x).trans (ih _)

/-- The larger of two floors is no lower than the first (06 R91, R99). -/
theorem floor_le_raised (floor raise : Word32) :
    floor.toNat ≤ (if floor.toNat < raise.toNat then raise else floor).toNat := by
  split
  · rename_i lower
    exact Nat.le_of_lt lower
  · exact Nat.le_refl _

/-- The writes of a request raise the floor at most (06 R91, 12 R176). -/
theorem written_onward (a : Anchor) (floor : Option Word32) (hash : Option Digest) :
    a.Onward (a.written floor hash) := by
  refine ⟨?_, id, rfl⟩
  cases floor with
  | none => exact Nat.le_refl _
  | some raise => exact floor_le_raised a.floor raise

/-! ### What leaves anchor memory alone -/

@[simp] theorem place_anchor (s : State) (p : Purpose) (live : Bool) : (s.place p live).anchor = s.anchor :=
  (place_only s p live).anchor

@[simp] theorem violate_anchor (s : State) (kind : ViolationKind) (cls : OpClass) (p : Nat) (region : Option Nat) :
    (s.violate kind cls p region).anchor = s.anchor :=
  (violate_only s kind cls p region).anchor

/-- A command taken leaves what its owner leaves. -/
theorem take_anchor {s : State} (c : Command) {f : Bytes → State} (same : ∀ body, (f body).anchor = s.anchor) :
    (s.take c f).anchor = s.anchor := by
  rw [State.take]
  split
  · split
    · exact same _
    · rfl
  · rfl

theorem take_onward {s : State} (c : Command) {f : Bytes → State} (on : ∀ body, s.anchor.Onward (f body).anchor) :
    s.anchor.Onward (s.take c f).anchor := by
  rw [State.take]
  split
  · split
    · exact on _
    · exact .refl _
  · exact .refl _

theorem whenPowered_onward {s u : State} (on : s.anchor.Onward u.anchor) : s.anchor.Onward (s.whenPowered u).anchor := by
  rw [State.whenPowered]
  split
  · exact on
  · exact .refl _

/-! ### The SoC Port -/

theorem serveFlash_anchor (s : State) (d : Decode) (e : OpcodeEntry) (misread : FlashCells) (region : Option Nat)
    (sub : Bool) (physical : Nat) : (s.serveFlash d e misread region sub physical).anchor = s.anchor := by
  simp only [State.serveFlash]
  repeat' split
  all_goals rfl

theorem serveFill_anchor (s : State) (d : Decode) (cls : OpClass) (v : Option (ViolationKind × Option Nat)) :
    (s.serveFill d cls v).anchor = s.anchor := by
  simp only [State.serveFill]
  split
  · split
    · rfl
    · exact violate_anchor _ _ _ _ _
  · rfl

theorem readDataByte_anchor (s : State) (misread : FlashCells) : (s.readDataByte misread).anchor = s.anchor := by
  rw [State.readDataByte]
  split
  · split
    · split
      · split
        · rfl
        · exact serveFlash_anchor _ _ _ _ _ _ _
        · exact serveFill_anchor _ _ _ _
      · rfl
    · rfl
  · rfl

theorem submit_anchor (s : State) : s.submit.anchor = s.anchor := by
  simp only [State.submit, State.examine]
  repeat' split
  all_goals rfl

theorem handWrite_anchor (s : State) (w : SocWrite) : (s.handWrite w).anchor = s.anchor := by
  rw [State.handWrite]
  split <;> rfl

theorem placeProgram_anchor (s : State) (e : OpcodeEntry) (p : Nat) (page : List (Option Byte)) :
    (s.placeProgram e p page).anchor = s.anchor := by
  rw [State.placeProgram]
  split
  · rw [State.windowProgram]
    split
    · rfl
    · exact violate_anchor _ _ _ _ _
  · exact violate_anchor _ _ _ _ _
  · exact handWrite_anchor _ _

theorem placeErase_anchor (s : State) (e : OpcodeEntry) (p size : Nat) : (s.placeErase e p size).anchor = s.anchor := by
  rw [State.placeErase]
  split
  · exact submit_anchor s
  · exact violate_anchor _ _ _ _ _
  · exact handWrite_anchor _ _

theorem judgeWrite_anchor (s : State) (cls : OpClass) (p : Nat) {act : State → State}
    (same : ∀ u, (act u).anchor = u.anchor) : (s.judgeWrite cls p act).anchor = s.anchor := by
  simp only [State.judgeWrite]
  split
  · split
    · exact violate_anchor _ _ _ _ _
    · exact same _
  · rfl

theorem programTransaction_anchor (s : State) (opcode : Byte) (received : Bytes) :
    (s.programTransaction opcode received).anchor = s.anchor := by
  simp only [State.programTransaction]
  split
  · split
    · rfl
    · exact judgeWrite_anchor _ _ _ fun u => placeProgram_anchor u _ _ _
  · rfl

theorem eraseTransaction_anchor (s : State) (cls : OpClass) (size : Nat) (opcode : Byte) (received : Bytes) :
    (s.eraseTransaction cls size opcode received).anchor = s.anchor := by
  simp only [State.eraseTransaction]
  split
  · split
    · rfl
    · exact judgeWrite_anchor _ _ _ fun u => placeErase_anchor u _ _ _
  · rfl

theorem plainTransaction_anchor (s : State) (cls : OpClass) (opcode : Byte) (n : Nat) {f : State → State}
    (same : ∀ u, (f u).anchor = u.anchor) : (s.plainTransaction cls opcode n f).anchor = s.anchor := by
  simp only [State.plainTransaction]
  split
  · exact same _
  · rfl

theorem openRead_anchor (s : State) (cls : OpClass) (opcode : Byte) (received : Bytes) :
    (s.openRead cls opcode received).anchor = s.anchor := by
  simp only [State.openRead]
  split <;> rfl

theorem answer_anchor (s : State) (opcode : Byte) (cls : OpClass) (n : Nat) (byte : Nat → Byte) :
    (s.answer opcode cls n byte).anchor = s.anchor := by
  simp only [State.answer]
  split <;> rfl

theorem refuseOpcode_anchor (s : State) (opcode : Byte) (n : Nat) : (s.refuseOpcode opcode n).anchor = s.anchor := by
  simp only [State.refuseOpcode]
  split
  · split
    · split
      · exact violate_anchor _ _ _ _ _
      · split <;> rfl
    · rfl
  · rfl

theorem startTransaction_anchor (s : State) : s.startTransaction.anchor = s.anchor := by
  simp only [State.startTransaction]
  split <;> rfl

theorem endTransaction_anchor (s : State) : s.endTransaction.anchor = s.anchor := by
  simp only [State.endTransaction]
  split
  · rfl
  · split <;> rfl

/-! ### Measurement and verification -/

theorem advanceTake_onward (s : State) (r : Region) (d : Digest) : s.anchor.Onward (s.advanceTake r d).anchor := by
  simp only [State.advanceTake]
  split <;> exact (take_stands _ _ _ _ _ _).onward

theorem advanceRun_onward (todo : List Nat) (s : State) (a : Advance) :
    s.anchor.Onward (s.advanceRun a todo).anchor := by
  induction todo generalizing s a with
  | nil => exact .refl _
  | cons i rest ih =>
    rw [State.advanceRun]
    split
    · exact ih _ _
    · split
      · exact (advanceTake_onward _ _ _).trans (ih _ _)
      · exact .refl _

/-- A region's digest goes to the advance or the boot check (05 R70). -/
theorem regionDone_onward (s : State) (m : Measuring) : s.anchor.Onward (s.regionDone m).anchor := by
  simp only [State.regionDone]
  split
  · exact .refl _
  · split
    · exact (advanceTake_onward _ _ _).trans (advanceRun_onward _ _ _)
    · split
      · exact ((take_stands _ _ _ _ _ _).trans (passRun_stands _ _ _)).onward
      · exact (recovery_stands _ _ _).onward
      · exact .refl _

theorem measureChunk_onward (s : State) (bs : Bytes) : s.anchor.Onward (s.measureChunk bs).anchor := by
  simp only [State.measureChunk]
  split
  · exact .refl _
  · rename_i m _
    split
    · exact .refl _
    · exact regionDone_onward { s with measure := { s.measure with current := some { m with fed := m.fed ++ bs } } } _

theorem verifyRun_anchor (targets : List Target) (s : State) (m : Manifest) (hashed : Nat) :
    (s.verifyRun m hashed targets).anchor = s.anchor := by
  induction targets with
  | nil => rfl
  | cons t rest ih =>
    rw [State.verifyRun]
    split
    · split
      · exact ih
      · rfl
    · rfl

theorem verifyChunk_anchor (s : State) (bs : Bytes) : (s.verifyChunk bs).anchor = s.anchor := by
  simp only [State.verifyChunk]
  split
  · split
    · rfl
    · split
      · rfl
      · split
        · exact verifyRun_anchor _ _ _ _
        · rfl
  · rfl

/-! ### The Reset Controller -/

theorem requestAsserted_anchor (s : State) : s.requestAsserted.anchor = s.anchor := by
  rw [State.requestAsserted]
  split
  · rfl
  · exact (assertReset_done s).anchor
  all_goals rfl

theorem startPulse_anchor (s : State) (c : ResetCause) : (s.startPulse c).anchor = s.anchor :=
  (assertReset_done (s.recordCause c)).anchor

theorem ownerReset_anchor (s : State) : s.ownerReset.anchor = s.anchor := by
  let recorded := State.recordCause { s with rst := { s.rst with hold := none } } .ownerReset
  have asked : (if s.isField then (recorded.place .ownerEpoch false).clearGrant else recorded).anchor = s.anchor := by
    split
    · exact place_anchor recorded _ _
    · rfl
  simp only [State.ownerReset]
  split
  · exact (assertReset_done _).anchor.trans asked
  all_goals exact asked

/-! ### The request in progress -/

theorem programNext_anchor (s : State) (job : Job) (k : WriteKind) (w : Writing) (pages : List (Nat × Bytes)) :
    (s.programNext job k w pages).anchor = s.anchor := by
  cases pages <;> rfl

theorem beginWrite_anchor (s : State) (job : Job) (k : WriteKind) (w : Writing) :
    (s.beginWrite job k w).anchor = s.anchor := programNext_anchor _ _ _ _ _

theorem copyNext_anchor (s : State) (job : Job) (todo copied : List IndexRecord) :
    (s.copyNext job todo copied).anchor = s.anchor := by
  cases todo with
  | nil => exact beginWrite_anchor _ _ _ _
  | cons r rest => rfl

theorem failRequest_onward (s : State) (job : Job) : s.anchor.Onward (s.failRequest job).anchor :=
  (refused_stands { s with journal := { s.journal with job := none, state := .fault } } job.request).1.onward

theorem passRequest_onward (s : State) (job : Job) : s.anchor.Onward (s.passRequest job).anchor :=
  (answered_stands { s with journal := { s.journal with job := none } } job.request).onward

/-- The next entry of a request, or what follows its last (06 R91). -/
theorem nextEntry_onward (s : State) (job : Job) : s.anchor.Onward (s.nextEntry job).anchor := by
  rw [State.nextEntry]
  split
  · simp only [State.entriesDone]
    split
    · exact .refl s.anchor
    · exact passRequest_onward s job
  · simp only [State.beginEntry]
    split
    · exact failRequest_onward s job
    · split
      · exact .refl _
      · split
        · exact .of_eq (beginWrite_anchor _ _ _ _)
        · exact .refl _

/-- A durable entry takes its generation (06 R91). -/
theorem durable_onward (s : State) (e : StoreEntry) (g : Word32) (w : Writing) :
    s.anchor.Onward (s.durable e g w).anchor := by
  by_cases kind : e.kind = .ownerEpoch
  · rw [(durable_of_ownerEpoch kind s g w).1]
    exact .refl s.anchor
  · rw [durable_of_plain kind]
    exact .refl s.anchor

theorem writeDone_onward (s : State) (job : Job) (k : WriteKind) (w : Writing) :
    s.anchor.Onward (s.writeDone job k w).anchor := by
  cases k with
  | entry g =>
    cases todo : job.todo with
    | nil =>
      have last : s.writeDone job (.entry g) w = s.nextEntry job := by
        simp only [State.writeDone, State.entryWritten, State.nextEntry, todo]
      exact last ▸ nextEntry_onward s job
    | cons e rest =>
      rw [State.writeDone, entryWritten_eq todo]
      exact (durable_onward s e g w).trans (nextEntry_onward _ _)
  | copy r rest copied => exact .of_eq (copyNext_anchor _ _ _ _)
  | checkpoint copied => exact nextEntry_onward (s.checkpointed w copied) job

theorem compactionFailed_onward (s : State) (job : Job) (w : Option Writing) :
    s.anchor.Onward (s.compactionFailed job w).anchor := by
  simp only [State.compactionFailed]
  split
  · cases w with
    | some w => exact .refl _
    | none => exact failRequest_onward s job
  · exact .refl _

theorem writeFailed_onward (s : State) (job : Job) (k : WriteKind) (w : Writing) :
    s.anchor.Onward (s.writeFailed job k w).anchor := by
  cases k with
  | entry g => exact .refl _
  | copy r rest copied => exact compactionFailed_onward s job (some w)
  | checkpoint copied => exact compactionFailed_onward s job (some w)

theorem spoilRead_onward (s : State) (job : Job) (w : Writing) (final : Bool) (got : Bytes) :
    s.anchor.Onward (s.spoilRead job w final got).anchor := by
  rw [State.spoilRead]
  split
  · exact failRequest_onward s job
  · split
    · exact nextEntry_onward { s with journal := { s.journal with appendPoint := w.offset + w.bytes.length } } _
    · exact .refl _

theorem copyRead_onward (s : State) (job : Job) (r : IndexRecord) (rest copied : List IndexRecord) (got : Bytes) :
    s.anchor.Onward (s.copyRead job r rest copied got).anchor := by
  rw [State.copyRead]
  split
  · exact .of_eq (beginWrite_anchor _ _ _ _)
  · exact compactionFailed_onward s job none

/-- A program or erase of the Journal Store completes (06 R91, R93). -/
theorem journalOpDone_anchor (s : State) : s.journalOpDone.anchor = s.anchor := by
  rw [State.journalOpDone]
  split
  · rfl
  · split
    · exact programNext_anchor _ _ _ _ _
    · rfl
    · rfl
    · exact copyNext_anchor _ _ _ _
    all_goals rfl

theorem internalDone_anchor (s : State) (r : Requester) (op : FlashOp) (failed : FlashCells) :
    (s.internalDone r op failed).anchor = s.anchor := by
  rw [internalDone_eq]
  split
  · exact journalOpDone_anchor _
  · rfl

/-- A read chunk of the request in progress completes (06 R91 ~ R94). -/
theorem journalChunk_onward (s : State) (bs : Bytes) : s.anchor.Onward (s.journalChunk bs).anchor := by
  simp only [State.journalChunk]
  split
  · exact .refl _
  · rename_i job _
    split
    · split
      · exact .refl _
      · split
        · exact writeDone_onward s job _ _
        · exact writeFailed_onward s job _ _
    · exact spoilRead_onward s job _ _ bs
    · split
      · exact .refl _
      · exact copyRead_onward s job _ _ _ _
    all_goals exact .refl _

/-- The oldest request is taken, or refused (06 R90, R100). -/
theorem takeRequest_onward (s : State) : s.anchor.Onward s.takeRequest.anchor := by
  rw [State.takeRequest]
  split
  · rename_i q rest _ _
    cases s.journal.state with
    | scanning => exact .refl _
    | ready => exact nextEntry_onward (s.dequeued rest) q.begun
    | stale => exact (refused_stands (s.dequeued rest) q).1.onward
    | fault => exact (refused_stands (s.dequeued rest) q).1.onward
  · exact .refl _

/-- A write to anchor memory completes: FIELD, or the floor and hash of a request (06 R86, R91, 12 R178). -/
theorem anchorWritten_onward (s : State) : s.anchor.Onward s.anchorWritten.anchor := by
  rw [State.anchorWritten]
  split
  · exact .refl _
  · rename_i rest _
    have field : s.anchor.Onward { s.anchor with lifeCycle := .field, writes := rest } :=
      ⟨Nat.le_refl _, fun _ => rfl, rfl⟩
    rw [State.finishProvisioning]
    split
    · split <;> exact field
    · exact field
  · rename_i floor hash rest _
    have raised : s.anchor.Onward (Anchor.written { s.anchor with writes := rest } floor hash) :=
      written_onward { s.anchor with writes := rest } floor hash
    simp only
    split
    · split
      · exact raised.trans
          (passRequest_onward { s with anchor := Anchor.written { s.anchor with writes := rest } floor hash } _)
      · exact raised
    · exact raised

/-! ### Start-up -/

theorem startRestored_onward (s : State) : s.anchor.Onward s.startRestored.anchor := by
  refine foldl_onward (fun u id => ?_) _ s
  split
  · split
    · exact .refl _
    · exact (startDelay_stands _ _).onward
  · exact .refl _

theorem startupComplete_onward (s : State) (outcome : StoreState) :
    s.anchor.Onward (s.startupComplete outcome).anchor := by
  have restored := startRestored_onward { s with journal := { s.journal with state := outcome, scan := none } }
  simp only [State.startupComplete]
  revert restored
  generalize State.startRestored { s with journal := { s.journal with state := outcome, scan := none } } = u
  intro restored
  have entered (v : State) (same : v.anchor = u.anchor) : s.anchor.Onward v.enterCheck.anchor :=
    restored.trans (same ▸ (enterCheck_stands v).onward)
  split
  · exact restored
  · exact entered _ rfl

theorem handNext_onward (s : State) (outcome : StoreState) (todo : List IndexRecord) :
    s.anchor.Onward (s.handNext outcome todo).anchor := by
  cases todo with
  | nil => exact startupComplete_onward s outcome
  | cons r rest => exact .refl _

/-- The BANK object raises the floor at most (06 R99). -/
theorem takeBank_onward (s : State) (payload : Bytes) : s.anchor.Onward (s.takeBank payload).anchor := by
  rw [State.takeBank]
  split
  · exact ⟨floor_le_raised _ _, id, rfl⟩
  · exact .refl _

theorem handOver_onward (s : State) (e : FoundEntry) : s.anchor.Onward (s.handOver e).anchor := by
  rw [State.handOver]
  split
  · exact takeBank_onward s _
  · exact .refl _
  · exact .refl _
  · simp only [State.takeAuthority]
    repeat' split
    all_goals exact .refl _
  · rw [State.takeCred]
    split <;> exact .refl _
  · rw [State.takeCount]
    repeat' split
    all_goals exact .refl _
  all_goals exact .refl _

theorem scanned_onward (s : State) (outcome : StoreState) (index : List IndexRecord) :
    s.anchor.Onward (s.scanned outcome index).anchor := by
  simp only [State.scanned]
  split
  · exact handNext_onward (s.contain .storeStale) _ _
  · exact handNext_onward s _ _

theorem probesFailed_onward (s : State) (f : Option Found) (neither : Bool) :
    s.anchor.Onward (s.probesFailed f neither).anchor := by
  cases f with
  | some f => exact scanned_onward (s.withFound f) _ _
  | none =>
    simp only [State.probesFailed]
    split <;> exact scanned_onward s _ _

/-- A probe that succeeded sets the generation at most (06 R98). -/
theorem probeSucceeded_onward (s : State) (area : Capacity) (f : Found) :
    s.anchor.Onward (s.probeSucceeded area f).anchor := by
  let found : State := { s.withFound f with journal := { (s.withFound f).journal with provisioning := some area } }
  have same : s.anchor.Onward found.anchor := .refl s.anchor
  simp only [State.probeSucceeded]
  split
  · exact same.trans (scanned_onward found _ _)
  · split
    · exact scanned_onward { found with anchor := { found.anchor with generation := f.newest } } _ _
    · exact same.trans (scanned_onward found _ _)

theorem areaRead_onward (s : State) (area : Capacity) (half0 half1 : Memory) :
    s.anchor.Onward (s.areaRead area half0 half1).anchor := by
  simp only [State.areaRead]
  split
  · split
    · exact probeSucceeded_onward s _ _
    · split
      · exact .refl _
      · exact probesFailed_onward s _ _
  · split
    · exact .refl _
    · exact probesFailed_onward s _ _

/-- A chunk of the scan completes (06 R96 ~ R99). -/
theorem scanChunk_onward (s : State) (bs : Bytes) : s.anchor.Onward (s.scanChunk bs).anchor := by
  simp only [State.scanChunk]
  split
  · exact .refl _
  · split
    · exact .refl _
    · exact areaRead_onward s _ _ _
  · exact .refl _
  · split
    · exact .refl _
    · rw [State.handRead]
      split
      · exact (handOver_onward s _).trans (handNext_onward _ _ _)
      · exact handNext_onward (s.contain .storeStale) _ _

theorem storeChunk_onward (s : State) (bs : Bytes) : s.anchor.Onward (s.storeChunk bs).anchor := by
  rw [State.storeChunk]
  split
  · exact scanChunk_onward s bs
  · exact journalChunk_onward s bs

/-! ### Commands of the control window

Each branch refuses, answers, waits or places one request. -/

theorem credStore_anchor (s : State) (body : Bytes) : (s.credStore body).anchor = s.anchor := by
  simp only [State.credStore]
  repeat' split
  all_goals simp

theorem credRelease_anchor (s : State) (body : Bytes) : (s.credRelease body).anchor = s.anchor := by
  simp only [State.credRelease]
  repeat' split
  all_goals rfl

theorem credVerify_anchor (s : State) (body : Bytes) : (s.credVerify body).anchor = s.anchor := by
  simp only [State.credVerify]
  repeat' split
  all_goals simp

theorem credErase_anchor (s : State) (body : Bytes) : (s.credErase body).anchor = s.anchor := by
  simp only [State.credErase]
  repeat' split
  all_goals simp

theorem stageAdvance_onward (s : State) (body : Bytes) : s.anchor.Onward (s.stageAdvance body).anchor := by
  simp only [State.stageAdvance]
  split
  · split
    · exact .refl _
    · rw [foldl_freeze_eq]
      exact advanceRun_onward _ { s.wait with checker := _ } _
  · exact .refl _

theorem measureExtend_anchor (s : State) (body : Bytes) : (s.measureExtend body).anchor = s.anchor := by
  simp only [State.measureExtend]
  repeat' split
  all_goals rfl

theorem measureRead_anchor (s : State) (body : Bytes) : (s.measureRead body).anchor = s.anchor := by
  simp only [State.measureRead]
  split <;> rfl

theorem logRead_anchor (s : State) (body : Bytes) : (s.logRead body).anchor = s.anchor := by
  simp only [State.logRead]
  split <;> rfl

theorem keyCreate_anchor (s : State) (body : Bytes) : (s.keyCreate body).anchor = s.anchor := by
  simp only [State.keyCreate]
  repeat' split
  all_goals rfl

theorem keyPublic_anchor (s : State) (body : Bytes) : (s.keyPublic body).anchor = s.anchor := by
  simp only [State.keyPublic]
  split
  · rfl
  · split <;> rfl

theorem keySign_anchor (s : State) (body : Bytes) : (s.keySign body).anchor = s.anchor := by
  simp only [State.keySign]
  split
  · split <;> rfl
  · rfl

theorem keyDerive_anchor (s : State) (body : Bytes) : (s.keyDerive body).anchor = s.anchor := by
  simp only [State.keyDerive]
  split
  · split <;> rfl
  · rfl

theorem keyDestroy_anchor (s : State) (body : Bytes) : (s.keyDestroy body).anchor = s.anchor := by
  simp only [State.keyDestroy]
  repeat' split
  all_goals simp

theorem resetSoc_anchor (s : State) (body : Bytes) : (s.resetSoc body).anchor = s.anchor := by
  rw [State.resetSoc]
  split
  · split
    · exact startPulse_anchor s _
    · rfl
  · rfl

/-- CAUSE CLEAR sets the halt count at most (04 R65). -/
theorem causeClear_onward (s : State) (body : Bytes) : s.anchor.Onward (s.causeClear body).anchor := by
  simp only [State.causeClear]
  repeat' split
  all_goals exact .refl s.anchor

theorem updateOpen_anchor (s : State) (body : Bytes) : (s.updateOpen body).anchor = s.anchor := by
  rw [State.updateOpen]
  repeat' split
  all_goals rfl

theorem updateVerify_anchor (s : State) (body : Bytes) : (s.updateVerify body).anchor = s.anchor := by
  simp only [State.updateVerify]
  split
  · split
    · exact verifyRun_anchor _ _ _ _
    · rfl
  · rfl

theorem updateCommit_anchor (s : State) (body : Bytes) : (s.updateCommit body).anchor = s.anchor := by
  rw [State.updateCommit]
  split
  · split
    · exact place_anchor s.endSession.wait _ _
    · rfl
  · rfl

theorem updateAbort_anchor (s : State) (body : Bytes) : (s.updateAbort body).anchor = s.anchor := by
  rw [State.updateAbort]
  split
  · split
    · exact place_anchor s.endSession.wait _ _
    · rfl
  · rfl

theorem updateConfirm_anchor (s : State) (body : Bytes) : (s.updateConfirm body).anchor = s.anchor := by
  rw [State.updateConfirm]
  repeat' split
  all_goals simp

theorem events_anchor (s : State) (body : Bytes) : (s.events body).anchor = s.anchor := by
  simp only [State.events]
  split <;> rfl

theorem layoutRead_anchor (s : State) (body : Bytes) : (s.layoutRead body).anchor = s.anchor := by
  simp only [State.layoutRead]
  split <;> rfl

theorem attest_anchor (s : State) (body : Bytes) : (s.attest body).anchor = s.anchor := by
  simp only [State.attest]
  split <;> rfl

theorem provisionLayout_anchor (s : State) (body : Bytes) : (s.provisionLayout body).anchor = s.anchor := by
  rw [State.provisionLayout]
  repeat' split
  all_goals simp

theorem provisionAuthority_anchor (s : State) (body : Bytes) : (s.provisionAuthority body).anchor = s.anchor := by
  rw [State.provisionAuthority]
  repeat' split
  all_goals simp

theorem provisionBank_anchor (s : State) (body : Bytes) : (s.provisionBank body).anchor = s.anchor := by
  rw [State.provisionBank]
  repeat' split
  all_goals simp

/-- PROVISION FINISH asks for the write of FIELD (12 R178). -/
theorem provisionFinish_onward (s : State) (body : Bytes) : s.anchor.Onward (s.provisionFinish body).anchor := by
  rw [State.provisionFinish]
  repeat' split
  all_goals exact .refl s.anchor

/-- The Signature Unit completes its operation (07 R106, 08 R123, 09 R144). -/
theorem signatureDone_anchor (s : State) (job : SignatureJob) : (s.signatureDone job).anchor = s.anchor := by
  have used (u : State) (n : Nat) (k : KeyRecord) (result : Bytes) : (u.completeUse n k result).anchor = u.anchor := by
    rw [State.completeUse]
    split <;> rfl
  cases job with
  | createKey slot cls sign mask needsGrant containedOk bind => exact place_anchor (s.draw 1) _ _
  | sign slot key digest => exact used (s.draw signDraws) _ _ _
  | derive slot key message => exact used s _ _ _
  | salt id content value => exact place_anchor (s.draw 1) _ _
  | attest report => rfl
  | manifest body =>
    simp only [State.signatureDone, State.manifestDone]
    split
    · rfl
    · exact place_anchor s _ _

/-! ### Every command -/

/-- No command takes anchor memory back (06 R86, 09 R157, 12 R173). -/
theorem exec_onward (i : Instr) (s t : State) (run : exec i s = .next t) : s.anchor.Onward t.anchor := by
  have next {u : State} (on : s.anchor.Onward u.anchor) :
      ∀ t, Host.Outcome.next (φ := Fault) (ρ := Refusal) u = .next t → s.anchor.Onward t.anchor :=
    fun t same => Host.Outcome.next.inj same ▸ on
  have powered {u : State} (on : s.anchor.Onward u.anchor) := next (whenPowered_onward on)
  have taken {c : Command} {f : Bytes → State} (on : ∀ body, s.anchor.Onward (f body).anchor) := next (take_onward c on)
  have reports {c : Command} {f : Bytes → State} (same : ∀ body, (f body).anchor = s.anchor) :=
    next (.of_eq (take_anchor c same))
  revert t run
  cases i with
  | powerOn => exact next (.refl s.anchor)
  | lossOfSupply torn => exact powered (.refl s.anchor)
  | uptimeTick => exact powered (.refl _)
  | transactionStart => exact next (.of_eq (startTransaction_anchor s))
  | transactionEnd => exact next (.of_eq (endTransaction_anchor s))
  | suspendComplete =>
    refine powered ?_
    split <;> exact .refl _
  | read opcode received => exact next (.of_eq (openRead_anchor s _ _ _))
  | fastRead opcode received => exact next (.of_eq (openRead_anchor s _ _ _))
  | readDataByte misread => exact powered (.of_eq (readDataByte_anchor s misread))
  | program opcode received => exact next (.of_eq (programTransaction_anchor s _ _))
  | erase4k opcode received => exact next (.of_eq (eraseTransaction_anchor s _ _ _ _))
  | erase64k opcode received => exact next (.of_eq (eraseTransaction_anchor s _ _ _ _))
  | eraseChip bare =>
    refine next (.of_eq (plainTransaction_anchor s _ _ _ fun u => ?_))
    split
    · exact violate_anchor _ _ _ _ _
    · rfl
  | writeEnable bare => exact next (.of_eq (plainTransaction_anchor s _ _ _ fun u => rfl))
  | writeDisable bare => exact next (.of_eq (plainTransaction_anchor s _ _ _ fun u => rfl))
  | statusRead opcode n => exact next (.of_eq (answer_anchor s _ _ _ _))
  | idRead opcode n => exact next (.of_eq (answer_anchor s _ _ _ _))
  | refusedOpcode opcode n => exact next (.of_eq (refuseOpcode_anchor s _ _))
  | internalGrant =>
    refine powered ?_
    split
    · split <;> exact .refl _
    · exact .refl _
  | readChunkComplete misread =>
    refine powered ?_
    split
    · exact measureChunk_onward (s.chunkDone .measure) _
    · split
      · exact .of_eq (verifyChunk_anchor _ _)
      · rw [State.withdrawnDone]
        split <;> exact .refl _
  | storeReadChunkComplete misread =>
    refine powered ?_
    split
    · exact storeChunk_onward (s.chunkDone .journal) _
    · exact .refl _
  | flashOperationComplete failed =>
    refine powered ?_
    split
    · exact .refl _
    · exact .refl _
    · exact .of_eq (internalDone_anchor _ _ _ _)
    all_goals exact .refl _
  | storeRequestTaken => exact powered (takeRequest_onward s)
  | signatureUnitComplete =>
    refine powered ?_
    split
    · exact .of_eq (signatureDone_anchor _ _)
    · exact .refl _
  | rstReqAsserted =>
    refine next ?_
    split
    · exact .refl _
    · exact whenPowered_onward (s := { s with lines := { s.lines with rstReq := true } })
        (.of_eq (requestAsserted_anchor _))
  | rstReqDeasserted =>
    refine next ?_
    split
    · refine whenPowered_onward (s := { s with lines := { s.lines with rstReq := false } }) ?_
      split
      · exact (enterCheck_stands _).onward
      · exact .refl _
    · exact .refl _
  | pulseEnd =>
    refine powered ?_
    split
    · exact (endPulse_stands { s with rst := { s.rst with pulse := none } }).onward
    · exact .refl _
  | ownerClrAsserted =>
    refine next ?_
    split
    · exact .refl _
    · refine whenPowered_onward (s := { s with lines := { s.lines with ownerClr := true } }) ?_
      split <;> exact .refl _
  | ownerClrDeasserted =>
    refine next ?_
    split
    · exact whenPowered_onward (s := { s with lines := { s.lines with ownerClr := false } }) (.refl _)
    · exact .refl _
  | ownerReset =>
    refine powered ?_
    split
    · exact .of_eq (ownerReset_anchor s)
    · exact .refl _
  | trialTimerExpiry =>
    refine powered ?_
    split
    · exact .of_eq (startPulse_anchor s _)
    · exact .refl _
  | grantExpiry =>
    refine powered ?_
    split <;> exact .refl _
  | delayExpiry id =>
    refine powered ?_
    split
    · split
      · split
        · exact (startDecay_stands (s.putCred id _) id).onward
        · exact .refl _
      · exact .refl _
    · exact .refl _
  | decayExpiry id =>
    refine powered ?_
    split
    · split
      · simp only
        split
        · exact ((offerCount_stands _ _ _ _ _ _).trans (startDecay_stands _ id)).onward
        · exact .refl _
      · exact .refl _
    · exact .refl _
  | status => exact reports fun _ => rfl
  | events => exact reports (events_anchor s)
  | resetSoc => exact reports (resetSoc_anchor s)
  | causeClear => exact taken (causeClear_onward s)
  | stageAdvance => exact taken (stageAdvance_onward s)
  | measureExtend => exact reports (measureExtend_anchor s)
  | measureRead => exact reports (measureRead_anchor s)
  | logRead => exact reports (logRead_anchor s)
  | attest => exact reports (attest_anchor s)
  | keyCreate => exact reports (keyCreate_anchor s)
  | keyPublic => exact reports (keyPublic_anchor s)
  | keySign => exact reports (keySign_anchor s)
  | keyDerive => exact reports (keyDerive_anchor s)
  | keyDestroy => exact reports (keyDestroy_anchor s)
  | keyList => exact reports fun _ => rfl
  | credStore => exact reports (credStore_anchor s)
  | credRelease => exact reports (credRelease_anchor s)
  | credVerify => exact reports (credVerify_anchor s)
  | credErase => exact reports (credErase_anchor s)
  | credList => exact reports fun _ => rfl
  | grantDrop => exact reports fun _ => rfl
  | updateOpen => exact reports (updateOpen_anchor s)
  | updateVerify => exact reports (updateVerify_anchor s)
  | updateStatus => exact reports fun _ => rfl
  | updateCommit => exact reports (updateCommit_anchor s)
  | updateAbort => exact reports (updateAbort_anchor s)
  | updateConfirm => exact reports (updateConfirm_anchor s)
  | violationRead => exact reports fun _ => rfl
  | layoutRead => exact reports (layoutRead_anchor s)
  | provisionLayout => exact reports (provisionLayout_anchor s)
  | provisionAuthority => exact reports (provisionAuthority_anchor s)
  | provisionBank => exact reports (provisionBank_anchor s)
  | provisionFinish => exact taken (provisionFinish_onward s)
  | anchorMemoryWriteComplete => exact powered (anchorWritten_onward s)

end Sys2Proof.Machine

open Sys2Proof Sys2Proof.Machine

/-- Settles O7: no command takes anchor memory back, and a millisecond that passes leaves it. -/
theorem floorAndLifeCycleNeverGoBack : Obligations.FloorAndLifeCycleNeverGoBack := by
  intro s t run
  rw [step] at run
  split at run
  · cases run
    rw [State.idle]
    split <;> exact Anchor.Onward.refl s.anchor
  · rename_i c rest _
    exact exec_onward c { s with pending := rest } t run

end

section
namespace Sys2Proof.Machine

/-! ### The form of a manifest -/

/-- A byte has no flag above bit 0 exactly when it is 0 or 1. -/
theorem upper_bits_clear_iff : ∀ b : Byte, (b &&& 0xFE == 0) = true ↔ b.toNat ≤ 1 := by decide

/-- The form of the body: version byte, raise-floor flag, 1 to 4 targets, and a block of the length given (09 R144 (1)). -/
theorem manifestFormOk_iff (body : Bytes) : manifestFormOk body = true ↔
    body.length ≤ 2040 ∧ byteAt body 0 = 1 ∧ (byteAt body 5).toNat ≤ 1 ∧ 1 ≤ manifestTargets body ∧
      manifestTargets body ≤ 4 ∧ body.length = 9 + 37 * manifestTargets body + manifestBlockLength body + 64 ∧
      (manifestBlockLength body = 0 ∨ blockFormOk (manifestBlock body) = true) := by
  simp only [manifestFormOk, Bool.and_eq_true, Bool.or_eq_true, decide_eq_true_eq, beq_iff_eq, and_assoc]
  rw [← upper_bits_clear_iff, beq_iff_eq]

theorem manifestTargetList_length (body : Bytes) : (manifestTargetList body).length = manifestTargets body := by
  rw [manifestTargetList, List.length_map, List.length_range]

/-! ### UPDATE OPEN as it is taken -/

/-- The tests of a body that is a manifest, in order: stage, session, trial (09 R144 (2) ~ (4)). -/
theorem updateOpen_of_formed {s : State} {body : Bytes} (hands : s.hands .updateOpen body)
    (formed : manifestFormOk body = true) : s.updateOpen body =
      if s.updateMask.getLsbD s.measure.stage.toNat = false then s.posted 0x13 []
      else if s.update.session ≠ .idle then s.posted 0x1D []
      else if s.update.record.trialPending then s.posted 0x1E []
      else { s.waiting .updateOpen body with signature := some (.manifest body) } := by
  have refused (r : Result) := refuse_of_hands hands (by decide) r
  simp only [State.updateOpen, formed, Bool.not_true, Bool.false_eq_true, if_false, not_stageIn_iff, isOpen_iff, refused,
    wait_of_hands hands]
  rfl

/-! ### UPDATE OPEN as the Signature Unit completes -/

/-- The manifest is signed by the authority key over every byte before the signature (09 R144 (5)). -/
theorem manifestSigned_iff (s : State) (body : Bytes) : s.manifestSigned body = true ↔
    ∃ key, s.keys.authority = some key ∧
      ecdsaVerify key (sha256 (body.take (body.length - 64))) (pairAt body (body.length - 64)) = true := by
  simp only [State.manifestSigned]
  cases s.keys.authority <;> simp

/-- The targets are the BANKED regions of the layout, each image within its region (09 R144 (6)). -/
theorem targetsOk_iff (l : Layout) (targets : List Target) : targetsOk l targets = true ↔
    targets.map Target.region = l.banked ∧ ∀ t ∈ targets, ∃ r, l.region? t.region = some r ∧ t.length ≤ r.length := by
  simp only [targetsOk, Bool.and_eq_true, beq_iff_eq, List.all_eq_true]
  refine and_congr_right fun _ => forall₂_congr fun t _ => ?_
  cases l.region? t.region <;> simp

/-- A block holds the layout it parses to where that passes (09 R144 (8)). -/
theorem acceptBlock_of_passing {l new : Layout} {block : Bytes} (parsed : Layout.parse block = some new)
    (valid : new.valid = true) (capacity : new.capacity = l.capacity) (banked : new.sameBanked l = true) :
    acceptBlock l block = some new := by
  simp [acceptBlock, parsed, valid, capacity, banked]

/-- A block that holds no layout that passes is not accepted (09 R144 (8)). -/
theorem acceptBlock_of_failing {l : Layout} {block : Bytes} (fails : ∀ new, Layout.parse block = some new →
    ¬(new.valid = true ∧ new.capacity = l.capacity ∧ new.sameBanked l = true)) : acceptBlock l block = none := by
  rw [acceptBlock]
  split
  · rename_i new parsed
    exact if_neg fun passes => fails new parsed (by simpa [and_assoc] using passes)
  · rfl

/-- The manifest a body gives, with the layout its block holds (09 R144). -/
def manifestOf (body : Bytes) (new : Option Layout) : Manifest :=
  { version := word32At body 1, raiseFloor := (byteAt body 5).getLsbD 0, targets := manifestTargetList body, layout := new }

theorem judgeManifest_of_unsigned {s : State} {body : Bytes} (unsigned : s.manifestSigned body = false) :
    s.judgeManifest body = .error .signature := by
  simp only [State.judgeManifest, unsigned, Bool.not_false, if_true]

/-! The tests after the signature, in order: targets, version, layout block (09 R144 (6) ~ (8)). -/

section
variable {s : State} {body : Bytes} {l : Layout} (signed : s.manifestSigned body = true)
  (layout : s.checker.layout = some l)
include signed layout

theorem judgeManifest_of_other_targets (other : targetsOk l (manifestTargetList body) = false) :
    s.judgeManifest body = .error .malformed := by
  simp only [State.judgeManifest, signed, layout, other, Bool.not_true, Bool.not_false, Bool.false_eq_true, if_true,
    if_false]

variable (targeted : targetsOk l (manifestTargetList body) = true)
include targeted

theorem judgeManifest_of_low_version (low : (word32At body 1).toNat < s.anchor.floor.toNat) :
    s.judgeManifest body = .error .version := by
  simp only [State.judgeManifest, signed, layout, targeted, if_pos low, Bool.not_true, Bool.false_eq_true, if_false]

variable (high : s.anchor.floor.toNat ≤ (word32At body 1).toNat)
include high

theorem judgeManifest_of_no_block (bare : manifestBlockLength body = 0) :
    s.judgeManifest body = .ok (manifestOf body none) := by
  simp only [State.judgeManifest, signed, layout, targeted, if_neg (Nat.not_lt.2 high), if_pos bare, Bool.not_true,
    Bool.false_eq_true, if_false]
  rfl

variable (filled : manifestBlockLength body ≠ 0)
include filled

theorem judgeManifest_of_accepted {new : Layout} (accepted : acceptBlock l (manifestBlock body) = some new) :
    s.judgeManifest body = .ok (manifestOf body (some new)) := by
  simp only [State.judgeManifest, signed, layout, targeted, if_neg (Nat.not_lt.2 high), if_neg filled, accepted,
    Bool.not_true, Bool.false_eq_true, if_false]
  rfl

theorem judgeManifest_of_unaccepted (unaccepted : acceptBlock l (manifestBlock body) = none) :
    s.judgeManifest body = .error .layout := by
  simp only [State.judgeManifest, signed, layout, targeted, if_neg (Nat.not_lt.2 high), if_neg filled, unaccepted,
    Bool.not_true, Bool.false_eq_true, if_false]

end

/-- A manifest that fails a test refuses the command (03 R49, 09 R144). -/
theorem manifestDone_of_error {s : State} {body given : Bytes} {taken : Bool} {r : Result}
    (engaged : s.window.command = some { command := .updateOpen, body := given, taken := taken })
    (judged : s.judgeManifest body = .error r) : s.manifestDone body = s.posted r.code [] := by
  simp only [State.manifestDone, judged]
  exact finish_eq_posted engaged (fun events => nomatch events) r []

/-- A manifest that passes places the entry that empties the inactive bank (09 R145). -/
theorem manifestDone_of_ok {s : State} {body : Bytes} {m : Manifest} (judged : s.judgeManifest body = .ok m)
    (free : s.journal.freeFor .updateController) :
    s.manifestDone body = s.queued (s.makeRequest (.updateOpen m) true) := by
  simp only [State.manifestDone, judged]
  exact place_free free

/-- UPDATE OPEN is answered OK while its command waits (09 R145). -/
theorem opened_of_live {s : State} {given : Bytes} {taken : Bool}
    (engaged : s.window.command = some { command := .updateOpen, body := given, taken := taken }) (m : Manifest) :
    s.opened true m = State.posted { s with update := { s.update with session := .staging m, verification := .none } } 0
      [1, if s.update.presented = .a then 1 else 0] := by
  have inactive : (if s.update.presented = .a then 1 else 0) = s.inactiveBank.code := by
    rw [State.inactiveBank]
    cases s.update.presented <;> rfl
  rw [inactive]
  exact finish_eq_posted (s := { s with update := { s.update with session := .staging m, verification := .none } })
    engaged (fun events => nomatch events) .ok _

/-! ### UPDATE VERIFY -/

/-- The session is VERIFYING and the STAGE regions are frozen (09 R147). -/
def State.verifying (s : State) (m : Manifest) : State :=
  { s with
    update := { s.update with session := .verifying m { todo := m.targets, fed := [] } 0 }
    checker := { s.checker with freezeSet := s.checker.freezeSet ||| s.stageRegions } }

/-- UPDATE VERIFY in STAGING is answered STARTED and goes on with the targets (09 R147). -/
theorem updateVerify_of_staging {s : State} {m : Manifest} (hands : s.hands .updateVerify [])
    (staging : s.update.session = .staging m) :
    s.updateVerify [] = ((s.verifying m).posted 3 []).verifyRun m 0 m.targets := by
  simp only [State.updateVerify, staging, if_true]
  exact congrArg (State.verifyRun · m 0 m.targets) (finish_eq_posted (s := s.verifying m) hands.2 (by decide) .started [])

/-- The last chunk of a target is judged by the target's digest (09 R147, R148). -/
theorem verifyChunk_of_last {s : State} {m : Manifest} {tg : Target} {rest : List Target} {fed bs : Bytes} {hashed : Nat}
    (verifying : s.update.session = .verifying m { todo := tg :: rest, fed := fed } hashed)
    (last : tg.length ≤ fed.length + bs.length) :
    s.verifyChunk bs =
      if sha256 (fed ++ bs) = tg.digest then s.verifyRun m (hashed + bs.length) rest else s.verifyFailed tg := by
  simp only [State.verifyChunk, verifying, List.length_append, if_neg (Nat.not_lt.2 last)]

end Sys2Proof.Machine

open Sys2Proof Sys2Proof.Machine

/-- Settles O55: the tests of each of the two moments in their order, and the answer OK. -/
theorem updateOpenIsTestedInOrder : Obligations.UpdateOpenIsTestedInOrder := by
  refine ⟨fun s body hands => ?taken, fun s body l powered job engaged layout => ?judged, fun s m body engaged =>
    opened_of_live engaged m⟩
  case taken =>
    intro targets blockLength formed mask
    have form : manifestFormOk body = true ↔ formed := manifestFormOk_iff body
    have same : s.updateMask = mask := by
      simp only [mask, State.updateMask]
      cases s.checker.layout <;> rfl
    simp only [exec, execUpdateOpen, take_of_hands hands]
    refine ⟨fun wrong => congrArg Host.Outcome.next ?_, fun right => ?_⟩
    · have wrong' : manifestFormOk body = false := Bool.eq_false_iff.2 (mt form.1 wrong)
      simp only [State.updateOpen, wrong', Bool.not_false, if_true]
      exact refuse_of_hands hands (by decide) .malformed
    · rw [updateOpen_of_formed hands (form.2 right), same]
  case judged =>
    intro idle n signed targets exact version blockLength block placed
    have run : exec .signatureUnitComplete s = .next (idle.manifestDone body) := signatureUnitComplete_of_job powered job
    have signedIff : idle.manifestSigned body = true ↔ signed := manifestSigned_iff idle body
    have exactIff : targetsOk l targets = true ↔ exact := targetsOk_iff l targets
    have lengthIs : manifestBlockLength body = blockLength := by
      simp only [manifestBlockLength, blockLength, targets, manifestTargetList_length]
    have blockIs : manifestBlock body = block := by
      simp only [manifestBlock, block, lengthIs, targets, manifestTargetList_length]
    have fails (r : Result) (judged : idle.judgeManifest body = .error r) :
        exec .signatureUnitComplete s = .next (idle.posted r.code []) :=
      run.trans (congrArg Host.Outcome.next (manifestDone_of_error (s := idle) engaged judged))
    have passes {new : Option Layout} (judged : idle.judgeManifest body = .ok (manifestOf body new)) : placed new :=
      fun free => run.trans (congrArg Host.Outcome.next (manifestDone_of_ok (s := idle) judged free))
    refine ⟨fun unsigned => ?_, fun sig => ?_, fun sig ex low => ?_, fun sig ex high => ⟨fun bare => ?_, fun filled => ?_⟩⟩
    · exact fails .signature (judgeManifest_of_unsigned (Bool.eq_false_iff.2 (mt signedIff.1 unsigned)))
    · exact fun other => fails .malformed (judgeManifest_of_other_targets (s := idle) (signedIff.2 sig) layout
        (Bool.eq_false_iff.2 (mt exactIff.1 other)))
    · exact fails .version (judgeManifest_of_low_version (s := idle) (signedIff.2 sig) layout (exactIff.2 ex) low)
    · exact passes (judgeManifest_of_no_block (s := idle) (signedIff.2 sig) layout (exactIff.2 ex) high
        (lengthIs.trans bare))
    · rw [← lengthIs] at filled
      refine ⟨fun new parsed valid capacity banked => passes ?_, fun failing => fails .layout ?_⟩
      · exact judgeManifest_of_accepted (s := idle) (signedIff.2 sig) layout (exactIff.2 ex) high filled
          (blockIs ▸ acceptBlock_of_passing parsed valid capacity banked)
      · exact judgeManifest_of_unaccepted (s := idle) (signedIff.2 sig) layout (exactIff.2 ex) high filled
          (blockIs ▸ acceptBlock_of_failing failing)

/-- Settles O56: the verification is begun, and each last chunk judged, before it goes on with the targets left. -/
theorem updateVerifyHashesTheTargets : Obligations.UpdateVerifyHashesTheTargets := by
  refine ⟨fun s body hands => ?taken, fun s misread base n hashed m tg rest fed powered grant verifying last => ?chunk,
    stageRegions_mem⟩
  case taken =>
    intro started
    have run : exec .updateVerify s = .next (s.updateVerify body) := by
      simp only [exec, execUpdateVerify, take_of_hands hands]
    have refused (r : Result) : s.refuse r = s.posted r.code [] := refuse_of_hands hands (by decide) r
    refine ⟨fun filled => ?_, fun empty other => ?_, fun m empty staging => ?_⟩
    · rw [run, State.updateVerify, if_neg filled, refused]
      rfl
    · have elsewhere : s.updateVerify body = s.refuse .session := by
        cases session : s.update.session with
        | staging m => exact absurd session (other m)
        | _ => simp only [State.updateVerify, session, if_pos empty]
      rw [run, elsewhere, refused]
      rfl
    · subst empty
      rw [updateVerify_of_staging hands staging] at run
      exact ⟨_, run, verifyRun_on _ m 0 m.targets⟩
  case chunk =>
    intro matched freed
    let bytes := s.flash.readBytesThrough misread base n
    have length : bytes.length = n := readBytesThrough_length _ _ _ _
    have judged : freed.verifyChunk bytes =
        if matched then freed.verifyRun m (hashed + n) rest else freed.verifyFailed tg := by
      rw [verifyChunk_of_last (s := freed) verifying (by rw [length]; exact last), length]
    have run : exec (.readChunkComplete misread) s = .next (freed.verifyChunk bytes) :=
      readChunkComplete_of_update powered grant misread
    rw [run, judged]
    refine ⟨fun equal => ?_, fun differs => ?_⟩
    · rw [if_pos equal]
      exact ⟨_, rfl, verifyRun_on freed m (hashed + n) rest⟩
    · rw [if_neg differs]
      rfl

end

section
namespace Sys2Proof.Machine

/-! ### The field mask of ATTEST -/

/-- The mask of a 34-byte body is its last two bytes (03 section 3.9). -/
theorem word16At_of_nonce {nonce : Bytes} (long : nonce.length = 32) (m1 m0 : Byte) :
    word16At (nonce ++ [m1, m0]) 32 = BitVec.ofNat 16 (m1.toNat * 256 + m0.toNat) := by
  rw [word16At, field, slice, ← long, List.drop_left]
  simp [beNat]

/-- The number that the two bytes of a mask stand for (03 section 3.9). -/
theorem mask_toNat (m1 m0 : Byte) :
    (BitVec.ofNat 16 (m1.toNat * 256 + m0.toNat)).toNat = m1.toNat * 256 + m0.toNat := by
  rw [BitVec.toNat_ofNat]
  omega

/-- The bits that the two bytes of a mask select (10 R162). -/
theorem inSet_mask (m1 m0 : Byte) (bit : Nat) :
    inSet (BitVec.ofNat 16 (m1.toNat * 256 + m0.toNat)) bit = (m1.toNat * 256 + m0.toNat).testBit bit := by
  rw [inSet, ← BitVec.testBit_toNat, mask_toNat]

/-- A mask is reported in the two bytes it was given in (10 R161). -/
theorem bytes16_mask (m1 m0 : Byte) : bytes16 (BitVec.ofNat 16 (m1.toNat * 256 + m0.toNat)) = [m1, m0] := by
  have pair : m1.toNat * 256 + m0.toNat = beNat [m1, m0] := by simp [beNat]
  rw [bytes16, mask_toNat, pair]
  exact beBytes_beNat [m1, m0]

/-! ### The report -/

/-- The selected fields: the measurement slots, the state of the log, the stage history, the last cause with its
counts, and the violation sequence (10 R162). -/
theorem reportFields_eq (s : State) (mask : Word16) : s.reportFields mask =
    (List.range 8).flatMap (fun n => if inSet mask n then digestBytes (s.measure.slot n) else []) ++
    (if inSet mask 8 then bytes1 s.measure.log.length ++ [flagByte s.measure.truncated] else []) ++
    (if inSet mask 9 then bytes1 s.measure.history.length ++ s.measure.historyBytes else []) ++
    (if inSet mask 10 then [s.rst.lastCause.code] ++ s.rst.counts.toList.flatMap bytes16 else []) ++
    (if inSet mask 11 then bytes32 s.checker.sequence else []) := by
  have bits : List.range 12 = List.range 8 ++ [8, 9, 10, 11] := rfl
  have slots : (List.range 8).flatMap (fun n => if inSet mask n then s.reportField n else []) =
      (List.range 8).flatMap (fun n => if inSet mask n then digestBytes (s.measure.slot n) else []) := by
    refine congrArg List.flatten (List.map_congr_left fun n mem => ?_)
    rw [State.reportField, if_pos (Nat.le_of_lt_succ (List.mem_range.1 mem))]
  rw [State.reportFields, bits, List.flatMap_append, slots]
  simp only [List.flatMap_cons, List.flatMap_nil, List.append_nil, List.append_assoc]
  rfl

/-- The containment flag of a report is set exactly when there is a cause (11 R165). -/
theorem flagByte_contained (s : State) : flagByte s.contained = if s.response.causes = 0 then 0 else 1 := by
  by_cases clear : s.response.causes = 0 <;> simp [State.contained, Response.latch, flagByte, clear]

/-! ### ATTEST -/

/-- ATTEST with a body of another length is refused (10 R159). -/
theorem attest_of_length {s : State} {body : Bytes} (other : body.length ≠ 34) : s.attest body = s.refuse .malformed :=
  if_neg fun ⟨formed, _⟩ => other formed

/-- ATTEST with any of bits 12 ~ 15 of the mask set is refused (10 R162). -/
theorem attest_of_high_mask {s : State} {nonce : Bytes} (long : nonce.length = 32) {m1 : Byte} (m0 : Byte)
    (high : 16 ≤ m1.toNat) : s.attest (nonce ++ [m1, m0]) = s.refuse .malformed := by
  refine if_neg fun ⟨_, low⟩ => ?_
  rw [word16At_of_nonce long, mask_toNat] at low
  omega

/-- ATTEST with a mask of bits 0 ~ 11 hands the report of the state as it stands to the Signature Unit (10 R159,
R160). -/
theorem attest_of_low_mask {s : State} {nonce : Bytes} {m1 m0 : Byte} (hands : s.hands .attest (nonce ++ [m1, m0]))
    (long : nonce.length = 32) (low : m1.toNat < 16) : s.attest (nonce ++ [m1, m0]) =
      { s.waiting .attest (nonce ++ [m1, m0]) with
        signature := some (.attest (s.report nonce (BitVec.ofNat 16 (m1.toNat * 256 + m0.toNat)))) } := by
  have formed : (nonce ++ [m1, m0]).length = 34 := by rw [List.length_append, long]; rfl
  have below : m1.toNat * 256 + m0.toNat < 4096 := by omega
  have head : (nonce ++ [m1, m0]).take 32 = nonce := by rw [← long, List.take_left]
  simp only [State.attest, word16At_of_nonce long, mask_toNat, if_pos (And.intro formed below), head,
    wait_of_hands hands]

end Sys2Proof.Machine

open Sys2Proof Sys2Proof.Machine

/-- Settles O47: by the length of the body and the mask in it, then the report field by field. -/
theorem attestTakesItsSnapshot : Obligations.AttestTakesItsSnapshot := by
  intro s nonce m1 m0 long hands mask r part fields
  have other : Command.attest ≠ .events := by decide
  have run {s : State} {body : Bytes} (hands : s.hands .attest body) : exec .attest s = .next (s.attest body) :=
    congrArg Host.Outcome.next (take_of_hands hands _)
  refine ⟨fun high => ?_, fun low => ?_, fun s' body hands' length => ?_⟩
  · rw [run hands, attest_of_high_mask long m0 high, refuse_of_hands hands other]
    rfl
  · have selected : s.reportFields (BitVec.ofNat 16 (m1.toNat * 256 + m0.toNat)) = fields := by
      simp only [reportFields_eq, inSet_mask]
      rfl
    rw [run hands, attest_of_low_mask hands long low]
    simp only [State.report, selected, bytes16_mask, flagByte_contained, List.append_assoc]
    rfl
  · rw [run hands', attest_of_length length, refuse_of_hands hands' other]
    rfl

end

section
namespace Sys2Proof.Machine

/-! ### Causes of containment that stay -/

/-- Every cause of containment of the first set but BOOT_MISMATCH is in the second (11 R166). -/
def CausesStay (before after : Byte) : Prop := ∀ k, k ≠ 0 → before.getLsbD k = true → after.getLsbD k = true

theorem CausesStay.refl (causes : Byte) : CausesStay causes causes := fun _ _ => id

theorem CausesStay.trans {a b c : Byte} (first : CausesStay a b) (second : CausesStay b c) : CausesStay a c :=
  fun k other => second k other ∘ first k other

theorem CausesStay.of_response {s t : State} (same : t.response = s.response) :
    CausesStay s.response.causes t.response.causes := same ▸ .refl _

/-- Where the Response Unit reaches, causes only join (11 R165). -/
theorem ResponseOnly.causesStay {s t : State} (only : ResponseOnly s t) :
    CausesStay s.response.causes t.response.causes := fun k _ => only.causes k

/-- BOOT_MISMATCH is bit 0 of the cause set, every other cause another bit (03 section 3.9). -/
theorem ContainCause.bit_ne_zero {c : ContainCause} (other : c ≠ .bootMismatch) : c.bit ≠ 0 := by
  cases c with
  | bootMismatch => exact absurd rfl other
  | _ => decide

/-- What each of several changes keeps they all keep. -/
theorem foldl_causes {α : Type} {change : State → α → State}
    (each : ∀ u x, CausesStay u.response.causes (change u x).response.causes) (xs : List α) (s : State) :
    CausesStay s.response.causes (xs.foldl change s).response.causes := by
  induction xs generalizing s with
  | nil => exact .refl _
  | cons x rest ih => exact (each s x).trans (ih _)

theorem contain_causes (s : State) (c : ContainCause) :
    CausesStay s.response.causes (s.contain c).response.causes := (contain_only s c).causesStay

@[simp] theorem place_response (s : State) (p : Purpose) (live : Bool) : (s.place p live).response = s.response := by
  obtain ⟨queue, held, placed⟩ := place_eq s p live
  exact placed ▸ rfl

theorem violate_causes (s : State) (kind : ViolationKind) (cls : OpClass) (p : Nat) (region : Option Nat) :
    CausesStay s.response.causes (s.violate kind cls p region).response.causes :=
  (violate_only s kind cls p region).causesStay

theorem take_causes {s : State} (c : Command) {f : Bytes → State}
    (stay : ∀ body, CausesStay s.response.causes (f body).response.causes) :
    CausesStay s.response.causes (s.take c f).response.causes := by
  rw [State.take]
  split
  · split
    · exact stay _
    · exact .refl _
  · exact .refl _

theorem whenPowered_causes {s u : State} (stay : CausesStay s.response.causes u.response.causes) :
    CausesStay s.response.causes (s.whenPowered u).response.causes := by
  rw [State.whenPowered]
  split
  · exact stay
  · exact .refl _

/-! ### The boot check -/

theorem mismatch_causes (s : State) : CausesStay s.response.causes s.mismatch.response.causes :=
  (offerChange_only { s with measure := { s.measure with mismatches := bump s.measure.mismatches } } _ _ _).causesStay

theorem takeDigest_causes (s : State) (r : Region) (n : Nat) (kind : ExtendKind) (stage : Nat) (d : Digest) :
    CausesStay s.response.causes (s.takeDigest r n kind stage d).response.causes := by
  simp only [State.takeDigest]
  split
  · exact mismatch_causes (State.extend { s with measure := { s.measure with current := none } } n kind r.index stage d)
  · exact .refl _

theorem recoveryDone_causes (s : State) (r : Region) (d : Digest) :
    CausesStay s.response.causes (s.recoveryDone r d).response.causes := by
  simp only [State.recoveryDone]
  split <;> exact takeDigest_causes s _ _ _ _ _

theorem checkOutcome_causes (s : State) : CausesStay s.response.causes s.checkOutcome.response.causes := by
  rw [State.checkOutcome]
  split
  · rw [State.measureRecovery]
    split
    · exact mismatch_causes s
    · split
      · exact recoveryDone_causes (s.freeze _) _ _
      · exact .refl _
  · exact .refl _

/-- A pass that passed takes BOOT_MISMATCH alone from the cause set (11 R166). -/
theorem passPassed_causes (s : State) : CausesStay s.response.causes s.passPassed.response.causes := by
  intro k other held
  simp [State.passPassed, ContainCause.bit, held, other, BitVec.lt_of_getLsbD held]

theorem containBoot_causes (s : State) : CausesStay s.response.causes s.containBoot.response.causes :=
  (contain_causes s _).trans (checkOutcome_causes _)

theorem passEnd_causes (s : State) (p : Pass) : CausesStay s.response.causes (s.passEnd p).response.causes := by
  rw [State.passEnd]
  split
  · exact (passPassed_causes s).trans (checkOutcome_causes _)
  · split
    · exact .of_response (place_response _ _ _)
    · exact containBoot_causes s

theorem passRun_causes (todo : List Nat) (s : State) (p : Pass) :
    CausesStay s.response.causes (s.passRun p todo).response.causes := by
  induction todo generalizing s p with
  | nil => exact passEnd_causes s _
  | cons i rest ih =>
    rw [State.passRun]
    split
    · exact ih s _
    · split
      · exact (takeDigest_causes (s.freeze i) _ _ _ _ _).trans (ih _ _)
      · exact .refl _

theorem startPass_causes (s : State) (second : Bool) :
    CausesStay s.response.causes (s.startPass second).response.causes := passRun_causes _ s _

/-- A bank presented and a layout in force (09 R152, 11 R169). -/
theorem present_causes (s : State) (bank : Bank) (trial : Bool) (l : Option Layout) (source : LayoutSource) :
    CausesStay s.response.causes (s.present bank trial l source).response.causes :=
  (installLayout_only { s with update := { s.update with presented := bank, trialBoot := trial } } l source).causesStay

theorem decideBoot_causes (s : State) : CausesStay s.response.causes s.decideBoot.response.causes := by
  let opened : State := { s with checker := { s.checker with openMapping := !s.isField } }
  simp only [State.decideBoot]
  split
  · split
    · exact .of_response (place_response _ _ _)
    · exact (present_causes opened _ _ _ _).trans (startPass_causes _ _)
  · exact present_causes opened _ _ _ _

theorem proceedCheck_causes (s : State) : CausesStay s.response.causes s.proceedCheck.response.causes := by
  rw [State.proceedCheck]
  split
  · exact decideBoot_causes s
  · exact .refl _

/-- An entry into CHECK clears the fired flags, not the causes (04 R58, 11 R172). -/
theorem enterCheck_causes (s : State) : CausesStay s.response.causes s.enterCheck.response.causes :=
  proceedCheck_causes { s.thawOthers with
    rst := { s.rst with state := .check, pulse := none, pulseWait := false, check := .waitStore }
    measure := { s.measure with slots := Vector.replicate 8 0, log := [], truncated := false, history := [] }
    response := { s.response with fired := 0 } }

theorem endPulse_causes (s : State) : CausesStay s.response.causes s.endPulse.response.causes := by
  rw [State.endPulse]
  split
  · exact enterCheck_causes s
  · exact .refl _

/-! ### The SoC reset -/

/-- The assertion of SOC_RST clears the fired flags, not the causes (04 R55, 11 R172). -/
theorem assertReset_causes (s : State) : CausesStay s.response.causes s.assertReset.response.causes := by
  rw [(assertReset_done s).response]
  exact .refl _

theorem startPulse_causes (s : State) (c : ResetCause) :
    CausesStay s.response.causes (s.startPulse c).response.causes := assertReset_causes (s.recordCause c)

theorem requestAsserted_causes (s : State) : CausesStay s.response.causes s.requestAsserted.response.causes := by
  rw [State.requestAsserted]
  split
  · exact .refl _
  · exact assertReset_causes s
  all_goals exact .refl _

theorem ownerReset_causes (s : State) : CausesStay s.response.causes s.ownerReset.response.causes := by
  let recorded := State.recordCause { s with rst := { s.rst with hold := none } } .ownerReset
  have asked : CausesStay s.response.causes
      (if s.isField then (recorded.place .ownerEpoch false).clearGrant else recorded).response.causes := by
    split
    · exact .of_response (place_response recorded _ _)
    · exact .refl _
  simp only [State.ownerReset]
  split
  · exact asked.trans (assertReset_causes _)
  all_goals exact asked

end Sys2Proof.Machine
end

section
namespace Sys2Proof.Machine

/-! ### Answers that keep the causes -/

theorem offerCount_causes (s : State) (id : Nat) (before after : Byte) :
    CausesStay s.response.causes (s.offerCount id before after).response.causes := by
  rw [State.offerCount]
  split
  · exact .refl _
  · exact (offer_only s _ _ _).causesStay

@[simp] theorem startDecay_response (s : State) (id : Nat) : (s.startDecay id).response = s.response := by
  rw [State.startDecay]
  repeat' split
  all_goals rfl

@[simp] theorem startDelay_response (s : State) (id : Nat) : (s.startDelay id).response = s.response := by
  simp only [State.startDelay]
  repeat' split
  all_goals simp

@[simp] theorem finishIf_response (s : State) (live : Bool) (r : Result) (body : Bytes) :
    (s.finishIf live r body).response = s.response := by
  cases live <;> rfl

@[simp] theorem recordSet_response (s : State) (id : Nat) (r : Option CredRecord) :
    (s.recordSet id r).response = s.response := by
  simp only [State.recordSet]
  split <;> rfl

theorem countFallback_causes (s : State) : CausesStay s.response.causes s.countFallback.response.causes :=
  (offerChange_only { s with update := { s.update with fallbacks := bump s.update.fallbacks } } _ _ _).causesStay

theorem countWritten_causes (s : State) (live : Bool) (id : Nat) (count : Byte) (epoch : Word32) (candidate : Bytes) :
    CausesStay s.response.causes (s.countWritten live id count epoch candidate).response.causes := by
  simp only [State.countWritten]
  split
  · exact .of_response (finishIf_response _ _ _ _)
  · rename_i r v _
    have offered := offerCount_causes (s.putCred id (some { r with count := count })) id r.count count
    split
    · exact offered.trans (.of_response (place_response _ _ _))
    · exact offered.trans (.of_response (by simp [State.guessFailed]))

theorem matchWritten_response (s : State) (live : Bool) (id : Nat) (epoch : Word32) :
    (s.matchWritten live id epoch).response = s.response := by
  simp only [State.matchWritten, offerCount_to_zero]
  split
  · exact finishIf_response _ _ _ _
  · rw [finishIf_response, State.matchGrant]
    split <;> rfl

theorem credStored_response (s : State) (live : Bool) (id : Nat) (c : Credential) (epoch : Word32) :
    (s.credStored live id c epoch).response = s.response := by
  simp only [credStored_eq, State.answered]
  repeat' split
  all_goals simp

theorem trialDecided_causes (s : State) (live ok attempt : Bool) :
    CausesStay s.response.causes (s.trialDecided live ok attempt).response.causes := by
  have presented : CausesStay s.response.causes
      (if (ok && attempt) = true then s.presentTrial else s.presentActive).response.causes := by
    simp only [State.presentTrial, State.presentActive]
    repeat' split
    all_goals exact present_causes s _ _ _ _
  have counted (u : State) : CausesStay u.response.causes
      (if (ok && !attempt) = true then u.countFallback else u).response.causes := by
    split
    · exact countFallback_causes u
    · exact .refl _
  simp only [State.trialDecided]
  split
  · exact (presented.trans (counted _)).trans (startPass_causes _ _)
  · exact counted s

theorem fellBack_causes (s : State) (live ok trial : Bool) (bank : Bank) :
    CausesStay s.response.causes (s.fellBack live ok trial bank).response.causes := by
  simp only [State.fellBack]
  cases ok with
  | false =>
    simp only [Bool.false_eq_true, if_false]
    split
    · exact containBoot_causes s
    · exact .refl _
  | true =>
    simp only [if_true]
    cases live && s.rst.check == .waitFallback <;> cases trial <;> simp only [Bool.false_eq_true, if_true, if_false]
    · exact .refl _
    · exact countFallback_causes s
    · exact startPass_causes { s with update := { s.update with presented := bank } } _
    · exact ((present_causes s _ _ _ _).trans (countFallback_causes _)).trans (startPass_causes _ _)

/-- The answer OK: a count taken is offered, and a check that waits goes on (06 R90, 08 R136, 09 R153, R154). -/
theorem answeredOk_causes (s before : State) (q : StoreRequest) :
    CausesStay s.response.causes (s.answeredOk before q).response.causes := by
  simp only [State.answeredOk]
  cases q.purpose with
  | credCount id count epoch candidate => exact countWritten_causes s _ _ _ _ _
  | trialAttempt => exact trialDecided_causes s _ _ _
  | trialTimeout => exact trialDecided_causes s _ _ _
  | bootFallback => exact fellBack_causes s _ _ _ _
  | credStore id c epoch => exact .of_response (credStored_response s _ _ _ _)
  | credMatch id epoch => exact .of_response (matchWritten_response s _ _ _)
  | keyCreate n k =>
    refine .of_response ((finishIf_response _ _ _ _).trans ?_)
    split <;> rfl
  | updateOpen m =>
    simp only [State.opened]
    split <;> exact .refl _
  | _ => exact .of_response (by simp [State.credErased, State.confirmed, removeCred_eq])

/-- The answer STORE_FAULT: a check that waits goes on (06 R92, 09 R153, 05 R76). -/
theorem answeredFault_causes (s : State) (q : StoreRequest) :
    CausesStay s.response.causes (s.answeredFault q).response.causes := by
  simp only [State.answeredFault]
  cases q.purpose with
  | trialAttempt => exact trialDecided_causes s _ _ _
  | trialTimeout => exact trialDecided_causes s _ _ _
  | bootFallback => exact fellBack_causes s _ _ _ _
  | _ => exact .of_response (by simp)

/-- What follows an answer (06 R90). -/
theorem afterAnswer_causes (s : State) : CausesStay s.response.causes s.afterAnswer.response.causes := by
  obtain ⟨queue, held, placed⟩ := pumpRequests_eq s
  rw [State.afterAnswer, placed]
  have erased := (pumpErase_only (s.withRequests queue held)).causesStay
  exact (erased.trans (proceedCheck_causes _)).trans (endPulse_causes _)

theorem answerStore_causes (s : State) (q : StoreRequest) (ok : Bool) :
    CausesStay s.response.causes (s.answerStore q ok).response.causes := by
  have taken : (s.takeRecord q).response = s.response := by
    rw [State.takeRecord]
    split <;> rfl
  refine CausesStay.trans ?_ (afterAnswer_causes _)
  split
  · exact taken ▸ answeredOk_causes (s.takeRecord q) s q
  · exact answeredFault_causes s q

/-! ### The request in progress -/

theorem failRequest_causes (s : State) (job : Job) :
    CausesStay s.response.causes (s.failRequest job).response.causes :=
  (contain_causes { s with journal := { s.journal with job := none, state := .fault } } .storeFault).trans
    (answerStore_causes _ _ _)

theorem passRequest_causes (s : State) (job : Job) :
    CausesStay s.response.causes (s.passRequest job).response.causes :=
  answerStore_causes { s with journal := { s.journal with job := none } } _ _

@[simp] theorem beginWrite_response (s : State) (job : Job) (k : WriteKind) (w : Writing) :
    (s.beginWrite job k w).response = s.response := by
  rw [State.beginWrite]
  cases splitPages w.bytes.length (s.writingBase w) w.bytes <;> rfl

@[simp] theorem copyNext_response (s : State) (job : Job) (todo copied : List IndexRecord) :
    (s.copyNext job todo copied).response = s.response := by
  cases todo with
  | nil => exact beginWrite_response _ _ _ _
  | cons r rest => rfl

/-- The next entry of a request, or what follows its last (06 R91). -/
theorem nextEntry_causes (s : State) (job : Job) : CausesStay s.response.causes (s.nextEntry job).response.causes := by
  rw [State.nextEntry]
  split
  · simp only [State.entriesDone]
    split
    · exact .refl _
    · exact passRequest_causes s job
  · simp only [State.beginEntry]
    split
    · exact failRequest_causes s job
    · split
      · exact .refl _
      · split
        · exact .of_response (beginWrite_response _ _ _ _)
        · exact .refl _

theorem durable_response (s : State) (e : StoreEntry) (g : Word32) (w : Writing) :
    (s.durable e g w).response = s.response := by
  by_cases kind : e.kind = .ownerEpoch
  · rw [(durable_of_ownerEpoch kind s g w).1]
  · rw [durable_of_plain kind]
    rfl

theorem writeDone_causes (s : State) (job : Job) (k : WriteKind) (w : Writing) :
    CausesStay s.response.causes (s.writeDone job k w).response.causes := by
  cases k with
  | entry g =>
    cases todo : job.todo with
    | nil =>
      have last : s.writeDone job (.entry g) w = s.nextEntry job := by
        simp only [State.writeDone, State.entryWritten, State.nextEntry, todo]
      exact last ▸ nextEntry_causes s job
    | cons e rest =>
      rw [State.writeDone, entryWritten_eq todo]
      exact (CausesStay.of_response (durable_response s e g w)).trans (nextEntry_causes _ _)
  | copy r rest copied => exact .of_response (copyNext_response _ _ _ _)
  | checkpoint copied => exact nextEntry_causes (s.checkpointed w copied) job

theorem compactionFailed_causes (s : State) (job : Job) (w : Option Writing) :
    CausesStay s.response.causes (s.compactionFailed job w).response.causes := by
  simp only [State.compactionFailed]
  split
  · cases w with
    | some w => exact .refl _
    | none => exact failRequest_causes s job
  · exact .refl _

theorem writeFailed_causes (s : State) (job : Job) (k : WriteKind) (w : Writing) :
    CausesStay s.response.causes (s.writeFailed job k w).response.causes := by
  cases k with
  | entry g => exact .refl _
  | copy r rest copied => exact compactionFailed_causes s job (some w)
  | checkpoint copied => exact compactionFailed_causes s job (some w)

theorem spoilRead_causes (s : State) (job : Job) (w : Writing) (final : Bool) (got : Bytes) :
    CausesStay s.response.causes (s.spoilRead job w final got).response.causes := by
  rw [State.spoilRead]
  split
  · exact failRequest_causes s job
  · split
    · exact nextEntry_causes { s with journal := { s.journal with appendPoint := w.offset + w.bytes.length } } _
    · exact .refl _

theorem copyRead_causes (s : State) (job : Job) (r : IndexRecord) (rest copied : List IndexRecord) (got : Bytes) :
    CausesStay s.response.causes (s.copyRead job r rest copied got).response.causes := by
  rw [State.copyRead]
  split
  · exact .of_response (beginWrite_response _ _ _ _)
  · exact compactionFailed_causes s job none

/-- A read chunk of the request in progress completes (06 R91 ~ R94). -/
theorem journalChunk_causes (s : State) (bs : Bytes) :
    CausesStay s.response.causes (s.journalChunk bs).response.causes := by
  simp only [State.journalChunk]
  split
  · exact .refl _
  · rename_i job _
    split
    · split
      · exact .refl _
      · split
        · exact writeDone_causes s job _ _
        · exact writeFailed_causes s job _ _
    · exact spoilRead_causes s job _ _ bs
    · split
      · exact .refl _
      · exact copyRead_causes s job _ _ _ _
    all_goals exact .refl _

/-- A program or erase of an internal agent completes (01 R13, 06 R91, R93). -/
theorem internalDone_response (s : State) (r : Requester) (op : FlashOp) (failed : FlashCells) :
    (s.internalDone r op failed).response = s.response := by
  have journal (u : State) : u.journalOpDone.response = u.response := by
    rw [State.journalOpDone]
    split
    · rfl
    · split
      · rename_i pages _
        cases pages.tail <;> rfl
      · rfl
      · rfl
      · exact copyNext_response _ _ _ _
      all_goals rfl
  rw [internalDone_eq]
  split
  · exact journal _
  · rfl

/-- The oldest request is taken, or refused under STORE_FAULT (06 R90, R100). -/
theorem takeRequest_causes (s : State) : CausesStay s.response.causes s.takeRequest.response.causes := by
  have refused (u : State) (q : StoreRequest) : CausesStay u.response.causes
      ((u.contain .storeFault).answerStore q false).response.causes :=
    (contain_causes u _).trans (answerStore_causes _ _ _)
  rw [State.takeRequest]
  split
  · rename_i q rest _ _
    cases s.journal.state with
    | scanning => exact .refl _
    | ready => exact nextEntry_causes (s.dequeued rest) q.begun
    | stale => exact refused (s.dequeued rest) q
    | fault => exact refused (s.dequeued rest) q
  · exact .refl _

/-- A write to anchor memory completes, and may end its request (06 R86, R91, 12 R178). -/
theorem anchorWritten_causes (s : State) : CausesStay s.response.causes s.anchorWritten.response.causes := by
  rw [State.anchorWritten]
  split
  · exact .refl _
  · rw [State.finishProvisioning]
    split
    · split <;> exact .refl _
    · exact .refl _
  · rename_i floor hash rest _
    simp only
    split
    · split
      · exact passRequest_causes { s with anchor := Anchor.written { s.anchor with writes := rest } floor hash } _
      · exact .refl _
    · exact .refl _

end Sys2Proof.Machine
end

section
namespace Sys2Proof.Machine

/-! ### Start-up keeps the causes -/

theorem startRestored_causes (s : State) : CausesStay s.response.causes s.startRestored.response.causes := by
  rw [State.startRestored]
  refine foldl_causes (fun u id => ?_) _ s
  split
  · split
    · exact .refl _
    · exact .of_response (startDelay_response u id)
  · exact .refl _

theorem startupComplete_causes (s : State) (outcome : StoreState) :
    CausesStay s.response.causes (s.startupComplete outcome).response.causes := by
  have restored := startRestored_causes { s with journal := { s.journal with state := outcome, scan := none } }
  simp only [State.startupComplete]
  revert restored
  generalize State.startRestored { s with journal := { s.journal with state := outcome, scan := none } } = u
  intro restored
  let held : State :=
    { u with rst := { u.rst with hold := if u.lines.ownerClr then some (u.seconds holdSeconds) else none } }
  split
  · exact restored
  · exact restored.trans (enterCheck_causes held)

theorem handNext_causes (s : State) (outcome : StoreState) (todo : List IndexRecord) :
    CausesStay s.response.causes (s.handNext outcome todo).response.causes := by
  simp only [State.handNext]
  split
  · exact startupComplete_causes s outcome
  · exact .refl _

/-- What an object brings goes to its owner (06 R99). -/
theorem handOver_response (s : State) (e : FoundEntry) : (s.handOver e).response = s.response := by
  simp only [State.handOver, State.takeBank, State.takeAuthority, State.takeCred, State.takeCount]
  repeat' split
  all_goals rfl

theorem scanned_causes (s : State) (outcome : StoreState) (index : List IndexRecord) :
    CausesStay s.response.causes (s.scanned outcome index).response.causes := by
  simp only [State.scanned]
  split
  · exact (contain_causes s _).trans (handNext_causes _ _ _)
  · exact handNext_causes s _ _

theorem probesFailed_causes (s : State) (f : Option Found) (neither : Bool) :
    CausesStay s.response.causes (s.probesFailed f neither).response.causes := by
  cases f with
  | some f => exact scanned_causes (s.withFound f) _ _
  | none =>
    simp only [State.probesFailed]
    split <;> exact scanned_causes s _ _

theorem probeSucceeded_causes (s : State) (area : Capacity) (f : Found) :
    CausesStay s.response.causes (s.probeSucceeded area f).response.causes := by
  let found : State := { s.withFound f with journal := { (s.withFound f).journal with provisioning := some area } }
  simp only [State.probeSucceeded]
  split
  · exact scanned_causes found _ _
  · split
    · exact scanned_causes { found with anchor := { found.anchor with generation := f.newest } } _ _
    · exact scanned_causes found _ _

theorem areaRead_causes (s : State) (area : Capacity) (half0 half1 : Memory) :
    CausesStay s.response.causes (s.areaRead area half0 half1).response.causes := by
  simp only [State.areaRead]
  split
  · split
    · exact probeSucceeded_causes s _ _
    · split
      · exact .refl _
      · exact probesFailed_causes s _ _
  · split
    · exact .refl _
    · exact probesFailed_causes s _ _

/-- A chunk of the scan completes (06 R96 ~ R99). -/
theorem scanChunk_causes (s : State) (bs : Bytes) : CausesStay s.response.causes (s.scanChunk bs).response.causes := by
  simp only [State.scanChunk]
  split
  · exact .refl _
  · split
    · exact .refl _
    · exact areaRead_causes s _ _ _
  · exact .refl _
  · split
    · exact .refl _
    · rw [State.handRead]
      split
      · exact (CausesStay.of_response (handOver_response s _)).trans (handNext_causes _ _ _)
      · exact (contain_causes s _).trans (handNext_causes _ _ _)

theorem storeChunk_causes (s : State) (bs : Bytes) :
    CausesStay s.response.causes (s.storeChunk bs).response.causes := by
  rw [State.storeChunk]
  split
  · exact scanChunk_causes s bs
  · exact journalChunk_causes s bs

/-! ### Measurement and verification keep the causes -/

theorem advanceTake_causes (s : State) (r : Region) (d : Digest) :
    CausesStay s.response.causes (s.advanceTake r d).response.causes := by
  simp only [State.advanceTake]
  split
  · exact (takeDigest_causes s _ _ _ _ _).trans (contain_causes _ _)
  · exact takeDigest_causes s _ _ _ _ _

theorem advanceRun_causes (todo : List Nat) (s : State) (a : Advance) :
    CausesStay s.response.causes (s.advanceRun a todo).response.causes := by
  induction todo generalizing s a with
  | nil => exact .refl _
  | cons i rest ih =>
    rw [State.advanceRun]
    split
    · exact ih s _
    · split
      · exact (advanceTake_causes s _ _).trans (ih _ _)
      · exact .refl _

theorem stageAdvance_causes (s : State) (body : Bytes) :
    CausesStay s.response.causes (s.stageAdvance body).response.causes := by
  simp only [State.stageAdvance]
  split
  · split
    · exact .refl _
    · rw [foldl_freeze_eq]
      exact advanceRun_causes _ { s.wait with checker := _ } _
  · exact .refl _

/-- A region's digest goes to the advance or the boot check (05 R70). -/
theorem regionDone_causes (s : State) (m : Measuring) :
    CausesStay s.response.causes (s.regionDone m).response.causes := by
  simp only [State.regionDone]
  split
  · exact .refl _
  · split
    · exact (advanceTake_causes s _ _).trans (advanceRun_causes _ _ _)
    · split
      · exact (takeDigest_causes s _ _ _ _ _).trans (passRun_causes _ _ _)
      · exact recoveryDone_causes s _ _
      · exact .refl _

theorem measureChunk_causes (s : State) (bs : Bytes) :
    CausesStay s.response.causes (s.measureChunk bs).response.causes := by
  simp only [State.measureChunk]
  split
  · exact .refl _
  · rename_i m _
    split
    · exact .refl _
    · exact regionDone_causes { s with measure := { s.measure with current := some { m with fed := m.fed ++ bs } } } _

@[simp] theorem verifyRun_response (targets : List Target) (s : State) (m : Manifest) (hashed : Nat) :
    (s.verifyRun m hashed targets).response = s.response := by
  induction targets with
  | nil => rfl
  | cons t rest ih =>
    rw [State.verifyRun]
    repeat' split
    · exact ih
    all_goals rfl

theorem verifyChunk_response (s : State) (bs : Bytes) : (s.verifyChunk bs).response = s.response := by
  simp only [State.verifyChunk]
  split
  · repeat' split
    · rfl
    · rfl
    · exact verifyRun_response _ _ _ _
    · rfl
  · rfl

/-! ### The SoC Port keeps the causes

A transaction reaches the cause set through the violation that it records. -/

theorem readDataByte_causes (s : State) (misread : FlashCells) :
    CausesStay s.response.causes (s.readDataByte misread).response.causes := by
  rw [State.readDataByte]
  split
  · split
    · split
      · split
        · exact .refl _
        · simp only [State.serveFlash]
          repeat' split
          all_goals exact .refl _
        · simp only [State.serveFill]
          split
          · split
            · exact .refl _
            · exact violate_causes (s.serve _ _ _) _ _ _ _
          · exact .refl _
      · exact .refl _
    · exact .refl _
  · exact .refl _

@[simp] theorem handWrite_response (s : State) (w : SocWrite) : (s.handWrite w).response = s.response := by
  rw [State.handWrite]
  split <;> rfl

theorem submit_response (s : State) : s.submit.response = s.response := by
  simp only [State.submit, State.examine]
  repeat' split
  all_goals rfl

theorem placeProgram_causes (s : State) (e : OpcodeEntry) (p : Nat) (page : List (Option Byte)) :
    CausesStay s.response.causes (s.placeProgram e p page).response.causes := by
  rw [State.placeProgram]
  split
  · rw [State.windowProgram]
    split
    · exact .refl _
    · exact violate_causes s _ _ _ _
  · exact violate_causes s _ _ _ _
  · exact .of_response (handWrite_response s _)

theorem placeErase_causes (s : State) (e : OpcodeEntry) (p size : Nat) :
    CausesStay s.response.causes (s.placeErase e p size).response.causes := by
  rw [State.placeErase]
  split
  · exact .of_response (submit_response s)
  · exact violate_causes s _ _ _ _
  · exact .of_response (handWrite_response s _)

theorem judgeWrite_causes (s : State) (cls : OpClass) (p : Nat) {act : State → State}
    (stay : ∀ u, CausesStay u.response.causes (act u).response.causes) :
    CausesStay s.response.causes (s.judgeWrite cls p act).response.causes := by
  let latched : State := { s with port := { s.port with wel := false } }
  simp only [State.judgeWrite]
  split
  · split
    · exact violate_causes latched _ _ _ _
    · exact stay latched
  · exact .refl _

theorem programTransaction_causes (s : State) (opcode : Byte) (received : Bytes) :
    CausesStay s.response.causes (s.programTransaction opcode received).response.causes := by
  simp only [State.programTransaction]
  split
  · split
    · exact .refl _
    · exact judgeWrite_causes (s.withDecode _ _) _ _ fun u => placeProgram_causes u _ _ _
  · exact .refl _

theorem eraseTransaction_causes (s : State) (cls : OpClass) (size : Nat) (opcode : Byte) (received : Bytes) :
    CausesStay s.response.causes (s.eraseTransaction cls size opcode received).response.causes := by
  simp only [State.eraseTransaction]
  split
  · split
    · exact .refl _
    · exact judgeWrite_causes (s.withDecode _ _) _ _ fun u => placeErase_causes u _ _ _
  · exact .refl _

theorem plainTransaction_causes (s : State) (cls : OpClass) (opcode : Byte) (n : Nat) {f : State → State}
    (stay : ∀ u, CausesStay u.response.causes (f u).response.causes) :
    CausesStay s.response.causes (s.plainTransaction cls opcode n f).response.causes := by
  simp only [State.plainTransaction]
  split
  · exact stay (s.withDecode _ _)
  · exact .refl _

theorem refuseOpcode_causes (s : State) (opcode : Byte) (n : Nat) :
    CausesStay s.response.causes (s.refuseOpcode opcode n).response.causes := by
  simp only [State.refuseOpcode]
  split
  · split
    · split
      · exact violate_causes (s.withDecode _ _) _ _ _ _
      · split <;> exact .refl _
    · exact .refl _
  · exact .refl _

/-! ### Commands of the control window -/

/-- The Signature Unit completes its operation (07 R106, 08 R123, 09 R144). -/
theorem signatureDone_response (s : State) (job : SignatureJob) : (s.signatureDone job).response = s.response := by
  have used (u : State) (n : Nat) (k : KeyRecord) (result : Bytes) :
      (u.completeUse n k result).response = u.response := by
    rw [State.completeUse]
    split <;> rfl
  cases job with
  | manifest body =>
    simp only [State.signatureDone, State.manifestDone]
    split
    · rfl
    · exact place_response s _ _
  | attest report => rfl
  | sign slot key digest => exact used (s.draw signDraws) _ _ _
  | derive slot key message => exact used s _ _ _
  | createKey slot cls sign mask needsGrant containedOk bind => exact place_response (s.draw 1) _ _
  | salt id content value => exact place_response (s.draw 1) _ _

theorem resetSoc_causes (s : State) (body : Bytes) :
    CausesStay s.response.causes (s.resetSoc body).response.causes := by
  rw [State.resetSoc]
  split
  · split
    · exact startPulse_causes s _
    · exact .refl _
  · exact .refl _

/-! ### Every command but those of the supply -/

/-- No command but POWER_ON and LOSS_OF_SUPPLY takes a cause other than BOOT_MISMATCH from the set (11 R166). -/
theorem exec_causes (i : Instr) (s t : State) (on : i ≠ .powerOn) (supplied : ∀ torn, i ≠ .lossOfSupply torn)
    (run : exec i s = .next t) : CausesStay s.response.causes t.response.causes := by
  have next {u : State} (stay : CausesStay s.response.causes u.response.causes) :
      ∀ t, Host.Outcome.next (φ := Fault) (ρ := Refusal) u = .next t → CausesStay s.response.causes t.response.causes :=
    fun t same => Host.Outcome.next.inj same ▸ stay
  have powered {u : State} (stay : CausesStay s.response.causes u.response.causes) := next (whenPowered_causes stay)
  have taken {c : Command} {f : Bytes → State} (stay : ∀ body, CausesStay s.response.causes (f body).response.causes) :=
    next (take_causes c stay)
  have reports {c : Command} {f : Bytes → State} (same : ∀ body, (f body).response = s.response) :=
    next (take_causes c fun body => .of_response (same body))
  revert t run
  cases i with
  | powerOn => exact absurd rfl on
  | lossOfSupply torn => exact absurd rfl (supplied torn)
  | uptimeTick => exact powered (.refl _)
  | transactionStart =>
    refine next ?_
    simp only [State.startTransaction]
    split <;> exact .refl _
  | transactionEnd =>
    refine next ?_
    simp only [State.endTransaction]
    repeat' split
    all_goals exact .refl _
  | suspendComplete =>
    refine powered ?_
    split <;> exact .refl _
  | read opcode received | fastRead opcode received =>
    refine next ?_
    simp only [State.openRead]
    split <;> exact .refl _
  | statusRead opcode n | idRead opcode n =>
    refine next ?_
    simp only [State.answer]
    split <;> exact .refl _
  | readDataByte misread => exact powered (readDataByte_causes s misread)
  | program opcode received => exact next (programTransaction_causes s _ _)
  | erase4k opcode received | erase64k opcode received => exact next (eraseTransaction_causes s _ _ _ _)
  | eraseChip bare =>
    refine next (plainTransaction_causes s _ _ _ fun u => ?_)
    split
    · exact violate_causes { u with port := { u.port with wel := false } } _ _ _ _
    · exact .refl _
  | writeEnable bare | writeDisable bare => exact next (plainTransaction_causes s _ _ _ fun u => .refl _)
  | refusedOpcode opcode n => exact next (refuseOpcode_causes s _ _)
  | internalGrant =>
    refine powered ?_
    repeat' split
    all_goals exact .refl _
  | readChunkComplete misread =>
    refine powered ?_
    split
    · exact measureChunk_causes (s.chunkDone .measure) _
    · split
      · exact .of_response (verifyChunk_response (s.chunkDone .update) _)
      · rw [State.withdrawnDone]
        split <;> exact .refl _
  | storeReadChunkComplete misread =>
    refine powered ?_
    split
    · exact storeChunk_causes (s.chunkDone .journal) _
    · exact .refl _
  | flashOperationComplete failed =>
    refine powered ?_
    split
    · exact .refl _
    · exact .refl _
    · exact .of_response (internalDone_response s _ _ _)
    all_goals exact .refl _
  | storeRequestTaken => exact powered (takeRequest_causes s)
  | signatureUnitComplete =>
    refine powered ?_
    split
    · exact .of_response (signatureDone_response { s with signature := none } _)
    · exact .refl _
  | anchorMemoryWriteComplete => exact powered (anchorWritten_causes s)
  | rstReqAsserted =>
    refine next ?_
    split
    · exact .refl _
    · let low : State := { s with lines := { s.lines with rstReq := true } }
      exact whenPowered_causes (s := low) (requestAsserted_causes low)
  | rstReqDeasserted =>
    let high : State := { s with lines := { s.lines with rstReq := false } }
    refine next ?_
    split
    · refine whenPowered_causes (s := high) ?_
      split
      · exact enterCheck_causes high
      · exact .refl _
    · exact .refl _
  | pulseEnd =>
    refine powered ?_
    split
    · exact endPulse_causes { s with rst := { s.rst with pulse := none } }
    · exact .refl _
  | ownerClrAsserted =>
    refine next ?_
    split
    · exact .refl _
    · refine whenPowered_causes (s := { s with lines := { s.lines with ownerClr := true } }) ?_
      split <;> exact .refl _
  | ownerClrDeasserted =>
    refine next ?_
    split
    · exact whenPowered_causes (s := { s with lines := { s.lines with ownerClr := false } }) (.refl _)
    · exact .refl _
  | ownerReset =>
    refine powered ?_
    split
    · exact ownerReset_causes s
    · exact .refl _
  | trialTimerExpiry =>
    refine powered ?_
    split
    · exact startPulse_causes s _
    · exact .refl _
  | grantExpiry =>
    refine powered ?_
    split <;> exact .refl _
  | delayExpiry id =>
    refine powered (.of_response ?_)
    repeat' split
    all_goals simp
  | decayExpiry id =>
    refine powered ?_
    split
    · rename_i r _
      split
      · simp only
        split
        · refine CausesStay.trans ?_ (.of_response (startDecay_response _ _))
          exact offerCount_causes (s.putCred id (some { r with count := _, decayTimer := none })) _ _ _
        · exact .refl _
      · exact .refl _
    · exact .refl _
  | resetSoc => exact taken (resetSoc_causes s)
  | stageAdvance => exact taken (stageAdvance_causes s)
  | status | keyList | credList | grantDrop | updateStatus | violationRead => exact reports fun _ => rfl
  | _ =>
    -- Each branch of the others refuses, answers, waits or places one request.
    refine reports fun body => ?_
    simp only [State.events, State.causeClear, State.measureExtend, State.measureRead, State.logRead, State.attest,
      State.keyCreate, State.keyPublic, State.keySign, State.keyDerive, State.keyDestroy, State.credStore,
      State.credRelease, State.credVerify, State.credErase, State.updateOpen, State.updateVerify, State.updateCommit,
      State.updateAbort, State.updateConfirm, State.layoutRead, State.provisionLayout, State.provisionAuthority,
      State.provisionBank, State.provisionFinish, State.endSession]
    repeat' split
    all_goals simp

end Sys2Proof.Machine

open Sys2Proof Sys2Proof.Machine

/-- Settles O8: every command but the two of the supply keeps the cause, and so does a millisecond that passes. -/
theorem causesStayUntilPowerOn : Obligations.CausesStayUntilPowerOn := by
  intro s t c other on supplied held run
  suffices stay : CausesStay s.response.causes t.response.causes from stay _ (ContainCause.bit_ne_zero other) held
  rw [step] at run
  split at run
  · cases run
    rw [State.idle]
    split <;> exact .refl _
  · rename_i i rest front
    refine exec_causes i { s with pending := rest } t (fun same => ?_) (fun torn same => ?_) run
    · exact on rest (same ▸ front)
    · exact supplied torn rest (same ▸ front)

end

section
namespace Sys2Proof.Machine

/-! ### A request for containment -/

/-- A set that holds an index stays as it is when the index is added. -/
theorem addTo_of_inSet {w n : Nat} {x : BitVec w} (held : x.getLsbD n = true) : addTo x n = x := by
  refine BitVec.eq_of_getLsbD_eq fun k _ => ?_
  by_cases same : n = k
  · simp [addTo, same ▸ held]
  · simp [addTo, same]

/-- A cause in the set shows the latch set (11 R165). -/
theorem contained_of_cause {s : State} {k : Nat} (held : s.response.causes.getLsbD k = true) : s.contained = true :=
  (contained_iff s).2 fun clear => by simp [clear] at held

/-- A cause that is in the set asks for nothing (11 R165). -/
theorem contain_of_held {s : State} {c : ContainCause} (held : s.response.causes.getLsbD c.bit = true) :
    s.contain c = s := by
  have latched : s.response.latch = true := contained_of_cause held
  simp only [State.contain, Response.addCause, inSet, held, latched, addTo_of_inSet held, if_true]

/-- A cause that is not in the set joins it with CONTAIN, and the first clears the owner grant (11 R165). -/
theorem contain_of_new {s : State} {c : ContainCause} (new : s.response.causes.getLsbD c.bit = false) :
    s.contain c = { s with
      response := { s.response with causes := addTo s.response.causes c.bit }
      window := s.window.raise .contain
      creds := { s.creds with grant := if s.response.causes = 0 then none else s.creds.grant } } := by
  have grant : (if s.response.latch then s.creds else { s.creds with grant := none }) =
      { s.creds with grant := if s.response.causes = 0 then none else s.creds.grant } := by
    by_cases clear : s.response.causes = 0#8 <;> simp [Response.latch, clear]
  simp only [State.contain, Response.addCause, inSet, new, grant, Bool.false_eq_true, if_false]

/-! ### Offers, entry by entry -/

/-- A change of a counter of `src` crosses the threshold of an entry of that source (11 R169). -/
def ResponseEntry.crossed (src : Source) (before after : Nat) (e : ResponseEntry) : Bool :=
  e.source == src && decide (before < e.threshold ∧ e.threshold ≤ after)

/-- An entry fires exactly where its flag is clear and its threshold is crossed (11 R169). -/
theorem judge_eq (src : Source) (before after : Nat) (s : State) (e : ResponseEntry) (i : Nat) :
    State.judge src before after s (e, i) =
      if s.response.fired.getLsbD i = false ∧ e.crossed src before after = true then
        State.raise (State.act { s with response := { s.response with
          fired := addTo s.response.fired i } } e.action) .response
      else s := by
  refine ite_congr (propext ?_) (fun _ => rfl) (fun _ => rfl)
  simp only [ResponseEntry.crossed, inSet, Bool.and_eq_true, beq_iff_eq, decide_eq_true_eq]
  exact and_left_comm

@[simp] theorem pumpErase_fired (s : State) : s.pumpErase.response.fired = s.response.fired := by
  rw [State.pumpErase]
  split
  · rfl
  · split
    · rw [place_response]
    · rfl

/-- No action touches the fired flags (11 R170). -/
@[simp] theorem act_fired (s : State) (a : Action) : (s.act a).response.fired = s.response.fired := by
  cases a with
  | eraseCredential id => exact pumpErase_fired _
  | _ => rfl

/-- What judging an entry makes of the flags: its own is set where its threshold is crossed. -/
theorem judge_fired (src : Source) (before after : Nat) (s : State) (e : ResponseEntry × Nat) {i : Nat} (low : i < 8) :
    (State.judge src before after s e).response.fired.getLsbD i =
      (s.response.fired.getLsbD i || (e.2 == i && e.1.crossed src before after)) := by
  obtain ⟨e, j⟩ := e
  rw [judge_eq]
  by_cases same : j = i
  · subst same
    cases flag : s.response.fired.getLsbD j <;> cases crosses : e.crossed src before after <;>
      simp [flag, addTo_has _ _ low]
  · split <;> simp [addTo, same]

theorem judgeAll_fired (src : Source) (before after : Nat) (es : List (ResponseEntry × Nat)) (s : State) {i : Nat}
    (low : i < 8) :
    (es.foldl (State.judge src before after) s).response.fired.getLsbD i =
      (s.response.fired.getLsbD i || es.any fun e => e.2 == i && e.1.crossed src before after) := by
  induction es generalizing s with
  | nil => simp
  | cons e rest ih => rw [List.foldl_cons, ih, judge_fired src before after s e low, List.any_cons, Bool.or_assoc]

/-- The entries under an index are the one that stands there. -/
theorem any_zipIdx_index {α : Type} (l : List α) (i : Nat) (p : α → Bool) :
    (l.zipIdx.any fun e => e.2 == i && p e.1) = (l[i]?).any p := by
  rw [Bool.eq_iff_iff]
  simp only [List.any_eq_true, Bool.and_eq_true, beq_iff_eq, Option.any_eq_true, Prod.exists,
    List.mk_mem_zipIdx_iff_getElem?]
  constructor
  · rintro ⟨x, _, stands, rfl, holds⟩
    exact ⟨x, stands, holds⟩
  · rintro ⟨x, stands, holds⟩
    exact ⟨x, i, stands, rfl, holds⟩

theorem offer_armed {s : State} (armed : s.response.armed = true) (src : Source) (before after : Nat) :
    s.offer src before after = s.response.table.zipIdx.foldl (State.judge src before after) s := if_pos armed

/-- After an offer each flag is what it was or what the offer makes of its entry (11 R169). -/
theorem offer_fired {s : State} (armed : s.response.armed = true) (src : Source) (before after : Nat) {i : Nat}
    (low : i < 8) : (s.offer src before after).response.fired.getLsbD i =
      (s.response.fired.getLsbD i || (s.response.table[i]?).any (ResponseEntry.crossed src before after)) := by
  rw [offer_armed armed, judgeAll_fired _ _ _ _ _ low, any_zipIdx_index _ _ (ResponseEntry.crossed src before after)]

/-- The state with an id at the end of the erase list, unless it is on it (11 R171). -/
def State.eraseListed (s : State) (id : Nat) : State :=
  { s with response := { s.response with
    eraseList := if id ∈ s.response.eraseList then s.response.eraseList else s.response.eraseList ++ [id] } }

/-- ERASE CREDENTIAL while a request of the Response Unit's is outstanding (11 R171). -/
theorem act_eraseCredential_waits {s : State} (busy : s.journal.outstanding .responseUnit = true) (id : Nat) :
    s.act (.eraseCredential id) = s.eraseListed id := by
  have listed : s.act (.eraseCredential id) = (s.eraseListed id).pumpErase := by
    simp only [State.act, State.eraseListed, List.contains_eq_mem, decide_eq_true_eq]
  exact listed.trans (pumpErase_waits busy)

end Sys2Proof.Machine

open Sys2Proof Sys2Proof.Machine

/-- Settles O10: by whether the cause is in the set. -/
theorem containmentRequestJoinsOnce : Obligations.ContainmentRequestJoinsOnce := by
  intro s c
  refine ⟨contain_of_held, fun new => ⟨?_, contain_contained s c⟩⟩
  rw [contain_of_new new]
  rfl

/-- Settles O11: the offer entry by entry, then each action, then one entry judged. -/
theorem responseEntryFiresOnCrossing : Obligations.ResponseEntryFiresOnCrossing := by
  refine ⟨fun s src before after => ⟨?unarmed, ?armed, ?flags⟩,
    fun s => ⟨rfl, fun r => rfl, fun n => rfl, rfl, rfl, ?erase⟩,
    fun s e i before after low => ⟨fun fires => ?fires, fun stays => ?stays, fun src other => ?other⟩⟩
  case unarmed => exact offer_unarmed s src before after
  case armed => exact fun armed => offer_armed armed src before after
  case flags =>
    intro i low armed
    rw [offer_fired armed src before after low]
    cases s.response.table[i]? <;> rfl
  case erase => exact fun id => ⟨fun busy => act_eraseCredential_waits busy id, act_eraseCredential⟩
  case fires =>
    obtain ⟨flag, crosses⟩ := fires
    rw [judge_eq, if_pos ⟨flag, by simpa [ResponseEntry.crossed] using crosses⟩]
    refine ⟨rfl, ?_, addTo_has _ 4 (by decide)⟩
    rw [State.raise_response, act_fired]
    exact addTo_has _ i low
  case stays =>
    rw [judge_eq, if_neg]
    simpa [ResponseEntry.crossed] using stays
  case other =>
    rw [judge_eq, if_neg]
    simp [ResponseEntry.crossed, Ne.symm other]

end

section
namespace Sys2Proof.Machine

/-! ### What the canonical form speaks of -/

/-- Flash, request buffer and what the scan has read (01 section 1.7, 03 section 3.1, 06 section 6.8). -/
def State.memories (s : State) : Memory × Memory × Option Scan := (s.flash, s.window.request, s.journal.scan)

theorem memories_eq_iff (s t : State) : t.memories = s.memories ↔
    t.flash = s.flash ∧ t.window.request = s.window.request ∧ t.journal.scan = s.journal.scan := by
  simp only [State.memories, Prod.mk.injEq]

/-- A step that leaves the three as they are leaves their canonical form. -/
theorem memoriesWf_of_same {s t : State} (same : t.memories = s.memories) (wf : s.memoriesWf) : t.memoriesWf := by
  obtain ⟨flash, request, scan⟩ := (memories_eq_iff s t).1 same
  simp only [State.memoriesWf, flash, request, scan] at wf ⊢
  exact wf

/-- The Response Unit reaches none of them (11 R170). -/
theorem ResponseOnly.memories {s t : State} (only : ResponseOnly s t) : t.memories = s.memories := by
  refine (memories_eq_iff s t).2 ⟨only.flash, ?_, ?_⟩
  · rw [only.window]
  · rw [only.journal]

/-- What no answer changes holds them. -/
theorem StoreStands.memories {s t : State} (stands : StoreStands s t) : t.memories = s.memories := by
  refine (memories_eq_iff s t).2 ⟨stands.flash, ?_, ?_⟩
  · rw [stands.window]
  · rw [stands.journal]

@[simp] theorem place_flash (s : State) (p : Purpose) (live : Bool) : (s.place p live).flash = s.flash :=
  (place_only s p live).flash

@[simp] theorem place_request (s : State) (p : Purpose) (live : Bool) :
    (s.place p live).window.request = s.window.request :=
  ((memories_eq_iff _ _).1 (place_only s p live).memories).2.1

@[simp] theorem place_scan (s : State) (p : Purpose) (live : Bool) :
    (s.place p live).journal.scan = s.journal.scan :=
  ((memories_eq_iff _ _).1 (place_only s p live).memories).2.2


/-- A completion leaves the request buffer (03 R47). -/
@[simp] theorem complete_request (w : Window) (r : Result) (body : Bytes) :
    (w.complete r body).request = w.request := by
  simp only [Window.complete]
  split <;> split <;> rfl

@[simp] theorem violate_memories (s : State) (kind : ViolationKind) (cls : OpClass) (p : Nat) (region : Option Nat) :
    (s.violate kind cls p region).memories = s.memories := (violate_only s kind cls p region).memories

end Sys2Proof.Machine
end

section
namespace Sys2Proof.Machine

/-! ### The SoC Port and the canonical form -/

theorem readDataByte_memories (s : State) (misread : FlashCells) : (s.readDataByte misread).memories = s.memories := by
  rw [State.readDataByte]
  split
  · split
    · split
      · split
        · rfl
        · simp only [State.serveFlash]
          repeat' split
          all_goals rfl
        · simp only [State.serveFill]
          split
          · split
            · rfl
            · exact violate_memories ..
          · rfl
      · rfl
    · rfl
  · rfl

theorem submit_memories (s : State) : s.submit.memories = s.memories := by
  simp only [State.submit, State.examine]
  repeat' split
  all_goals simp [State.memories]

theorem handWrite_memories (s : State) (w : SocWrite) : (s.handWrite w).memories = s.memories := by
  rw [State.handWrite]
  split <;> rfl

theorem refuseOpcode_memories (s : State) (opcode : Byte) (n : Nat) :
    (s.refuseOpcode opcode n).memories = s.memories := by
  simp only [State.refuseOpcode]
  split
  · split
    · split
      · exact violate_memories (s.withDecode _ _) _ _ _ _
      · split <;> rfl
    · rfl
  · rfl

/-- A PROGRAM in the window writes its bytes into the request buffer (03 R43). -/
theorem windowProgram_memoriesWf {s : State} (wf : s.memoriesWf) (p : Nat) (page : List (Option Byte)) :
    (s.windowProgram p page).memoriesWf := by
  obtain ⟨flash, request, halves⟩ := wf
  rw [State.windowProgram]
  split
  · refine ⟨flash, ?_, halves⟩
    show Memory.wf (Window.request (if _ then _ else _)) = true
    split
    · exact request
    · exact writePage_wf _ _ _ request
  · exact memoriesWf_of_same (violate_memories ..) ⟨flash, request, halves⟩

theorem placeProgram_memoriesWf {s : State} (wf : s.memoriesWf) (e : OpcodeEntry) (p : Nat)
    (page : List (Option Byte)) : (s.placeProgram e p page).memoriesWf := by
  rw [State.placeProgram]
  split
  · exact windowProgram_memoriesWf wf _ _
  · exact memoriesWf_of_same (violate_memories ..) wf
  · exact memoriesWf_of_same (handWrite_memories _ _) wf

theorem placeErase_memories (s : State) (e : OpcodeEntry) (p size : Nat) :
    (s.placeErase e p size).memories = s.memories := by
  rw [State.placeErase]
  split
  · exact submit_memories s
  · exact violate_memories ..
  · exact handWrite_memories _ _

theorem judgeWrite_memoriesWf {s : State} (wf : s.memoriesWf) (cls : OpClass) (p : Nat) {act : State → State}
    (kept : ∀ u, u.memoriesWf → (act u).memoriesWf) : (s.judgeWrite cls p act).memoriesWf := by
  simp only [State.judgeWrite]
  split
  · split
    · exact memoriesWf_of_same (violate_memories ..) wf
    · exact kept _ wf
  · exact wf

theorem programTransaction_memoriesWf {s : State} (wf : s.memoriesWf) (opcode : Byte) (received : Bytes) :
    (s.programTransaction opcode received).memoriesWf := by
  simp only [State.programTransaction]
  split
  · split
    · exact wf
    · exact judgeWrite_memoriesWf (s := s.withDecode _ _) wf _ _ fun u wf => placeProgram_memoriesWf wf _ _ _
  · exact wf

theorem eraseTransaction_memoriesWf {s : State} (wf : s.memoriesWf) (cls : OpClass) (size : Nat) (opcode : Byte)
    (received : Bytes) : (s.eraseTransaction cls size opcode received).memoriesWf := by
  simp only [State.eraseTransaction]
  split
  · split
    · exact wf
    · exact judgeWrite_memoriesWf (s := s.withDecode _ _) wf _ _ fun u wf =>
        memoriesWf_of_same (placeErase_memories u _ _ _) wf
  · exact wf

theorem plainTransaction_memories (s : State) (cls : OpClass) (opcode : Byte) (n : Nat) {f : State → State}
    (same : ∀ u, (f u).memories = u.memories) : (s.plainTransaction cls opcode n f).memories = s.memories := by
  simp only [State.plainTransaction]
  split
  · exact same _
  · rfl

end Sys2Proof.Machine
end

section
namespace Sys2Proof.Machine

/-! ### The Flash Port at work -/

/-- What an operation leaves in the flash has the canonical form, the bytes the chip leaves otherwise too (01 R11). -/
theorem operated_wf {s : State} (wf : s.flash.wf = true) (op : FlashOp) (failed : FlashCells) :
    (s.operated op failed).wf = true :=
  Memory.patch_wf _ _ _ (FlashOp.apply_wf op _ wf)

theorem copyNext_memories (s : State) (job : Job) (todo copied : List IndexRecord) :
    (s.copyNext job todo copied).memories = s.memories := by
  cases todo with
  | nil =>
    rw [State.copyNext, State.beginWrite]
    cases splitPages _ _ _ <;> rfl
  | cons r rest => rfl

/-- A program or erase of the Journal Store completes (06 R91, R93). -/
theorem journalOpDone_memories (s : State) : s.journalOpDone.memories = s.memories := by
  rw [State.journalOpDone]
  split
  · rfl
  · split
    · rename_i pages _
      cases pages.tail <;> rfl
    · rfl
    · rfl
    · exact copyNext_memories _ _ _ _
    all_goals rfl

theorem internalDone_memoriesWf {s : State} (wf : s.memoriesWf) (r : Requester) (op : FlashOp) (failed : FlashCells) :
    (s.internalDone r op failed).memoriesWf := by
  obtain ⟨flash, request, halves⟩ := wf
  have handed : (s.handedOn r op failed).memoriesWf := ⟨operated_wf flash op failed, request, halves⟩
  rw [internalDone_eq]
  split
  · exact memoriesWf_of_same (journalOpDone_memories _) handed
  · exact handed

/-! ### Measurement and verification -/

theorem advanceTake_memories (s : State) (r : Region) (d : Digest) : (s.advanceTake r d).memories = s.memories := by
  simp only [State.advanceTake]
  split
  · exact ((take_stands s ..).trans (.of (contain_only _ _))).memories
  · exact (take_stands s ..).memories

theorem advanceRun_memories (todo : List Nat) (s : State) (a : Advance) :
    (s.advanceRun a todo).memories = s.memories := by
  induction todo generalizing s a with
  | nil => simp [State.advanceRun, State.advanceEnd, State.memories]
  | cons i rest ih =>
    rw [State.advanceRun]
    split
    · exact ih _ _
    · split
      · exact (ih _ _).trans (advanceTake_memories _ _ _)
      · rfl

/-- A region's digest goes to the advance or the boot check (05 R70). -/
theorem regionDone_memories (s : State) (m : Measuring) : (s.regionDone m).memories = s.memories := by
  simp only [State.regionDone]
  split
  · rfl
  · split
    · exact (advanceRun_memories _ _ _).trans (advanceTake_memories _ _ _)
    · split
      · exact ((take_stands ..).trans (passRun_stands _ _ _)).memories
      · exact (recovery_stands _ _ _).memories
      · rfl

theorem measureChunk_memories (s : State) (bs : Bytes) : (s.measureChunk bs).memories = s.memories := by
  simp only [State.measureChunk]
  split
  · rfl
  · split
    · rfl
    · exact regionDone_memories _ _

@[simp] theorem verifyRun_memories (targets : List Target) (s : State) (m : Manifest) (hashed : Nat) :
    (s.verifyRun m hashed targets).memories = s.memories := by
  induction targets with
  | nil => rfl
  | cons t rest ih =>
    rw [State.verifyRun]
    split
    · split
      · exact ih
      · rfl
    · rfl

theorem verifyChunk_memories (s : State) (bs : Bytes) : (s.verifyChunk bs).memories = s.memories := by
  simp only [State.verifyChunk]
  split
  · split
    · rfl
    · split
      · rfl
      · split
        · exact verifyRun_memories _ _ _ _
        · rfl
  · rfl

end Sys2Proof.Machine
end

section
namespace Sys2Proof.Machine

/-! ### Answers leave the memories -/

@[simp] theorem finishIf_memories (s : State) (live : Bool) (r : Result) (body : Bytes) :
    (s.finishIf live r body).memories = s.memories := by
  cases live <;> simp [State.finishIf, State.memories]

theorem answered_memories (s : State) (live : Bool) (r : Result) (body : Bytes) :
    (s.answered live r.code body).memories = s.memories :=
  finishIf_eq_answered s live r body ▸ finishIf_memories s live r body

theorem removeCred_memories (s : State) (id : Nat) : (s.removeCred id).memories = s.memories :=
  removeCred_eq s id ▸ (recordSet_stands s id none).memories

theorem credStored_memories (s : State) (live : Bool) (id : Nat) (c : Credential) (epoch : Word32) :
    (s.credStored live id c epoch).memories = s.memories := by
  simp only [credStored_eq]
  split
  · exact (answered_memories (s.recordSet _ _) live .ok _).trans (recordSet_stands _ _ _).memories
  · exact answered_memories s live .ok _

theorem countWritten_memories (s : State) (live : Bool) (id : Nat) (count : Byte) (epoch : Word32) (candidate : Bytes) :
    (s.countWritten live id count epoch candidate).memories = s.memories := by
  simp only [State.countWritten]
  split
  · exact finishIf_memories ..
  · split
    · exact ((offerCount_stands s _ _ _ _ _).trans (.of (place_only _ _ _))).memories
    · exact (finishIf_memories ..).trans
        ((offerCount_stands s _ _ _ _ _).trans (startDelay_stands _ _)).memories

theorem matchWritten_memories (s : State) (live : Bool) (id : Nat) (epoch : Word32) :
    (s.matchWritten live id epoch).memories = s.memories := by
  simp only [State.matchWritten, offerCount_to_zero]
  split
  · exact finishIf_memories ..
  · rw [finishIf_memories, State.matchGrant]
    split <;> rfl

/-- The answer OK: the command that waits completes, and a check that waits goes on (06 R90). -/
theorem answeredOk_memories (s before : State) (q : StoreRequest) : (s.answeredOk before q).memories = s.memories := by
  simp only [State.answeredOk]
  cases q.purpose with
  | credCount id count epoch candidate => exact countWritten_memories s _ _ _ _ _
  | credMatch id epoch => exact matchWritten_memories s _ _ _
  | credStore id c epoch => exact credStored_memories s _ _ _ _
  | credErase id epoch => exact (finishIf_memories ..).trans (removeCred_memories s id)
  | responseErase id epoch => exact removeCred_memories s id
  | trialAttempt => exact (trial_stands s _ _ _).memories
  | trialTimeout => exact (trial_stands s _ _ _).memories
  | bootFallback => exact (fellBack_stands s _ _ _ _).memories
  | keyCreate n k =>
    refine (finishIf_memories ..).trans ?_
    split <;> rfl
  | updateOpen m =>
    simp only [State.opened]
    split <;> simp [State.memories]
  | updateConfirm => exact finishIf_memories ..
  | keyDestroy n => exact finishIf_memories ..
  | provisionAuthority key => exact finishIf_memories ..
  | _ => simp

/-- The answer STORE_FAULT: the command that waits completes, and a check that waits goes on (06 R92). -/
theorem answeredFault_memories (s : State) (q : StoreRequest) : (s.answeredFault q).memories = s.memories := by
  simp only [State.answeredFault]
  cases q.purpose with
  | trialAttempt => exact (trial_stands s _ _ _).memories
  | trialTimeout => exact (trial_stands s _ _ _).memories
  | bootFallback => exact (fellBack_stands s _ _ _ _).memories
  | credCount id count epoch candidate => exact (finishIf_memories ..).trans (startDecay_stands s id).memories
  | credMatch id epoch => exact (finishIf_memories ..).trans (startDecay_stands s id).memories
  | _ => simp

theorem answerStore_memories (s : State) (q : StoreRequest) (ok : Bool) :
    (s.answerStore q ok).memories = s.memories := by
  have taken : (s.takeRecord q).memories = s.memories := by
    rw [State.takeRecord]
    split <;> rfl
  refine (after_stands _).memories.trans ?_
  split
  · exact (answeredOk_memories _ _ _).trans taken
  · exact answeredFault_memories s q

/-! ### The request in progress -/

theorem failRequest_memories (s : State) (job : Job) : (s.failRequest job).memories = s.memories :=
  (answerStore_memories _ _ _).trans
    (contain_only { s with journal := { s.journal with job := none, state := .fault } } .storeFault).memories

theorem passRequest_memories (s : State) (job : Job) : (s.passRequest job).memories = s.memories :=
  answerStore_memories _ _ _

theorem beginWrite_memories (s : State) (job : Job) (k : WriteKind) (w : Writing) :
    (s.beginWrite job k w).memories = s.memories := by
  rw [State.beginWrite]
  cases splitPages w.bytes.length (s.writingBase w) w.bytes <;> rfl

/-- The next entry of a request, or what follows its last (06 R91). -/
theorem nextEntry_memories (s : State) (job : Job) : (s.nextEntry job).memories = s.memories := by
  rw [State.nextEntry]
  split
  · simp only [State.entriesDone]
    split
    · rfl
    · exact passRequest_memories s job
  · simp only [State.beginEntry]
    split
    · exact failRequest_memories s job
    · split
      · rfl
      · split
        · exact beginWrite_memories _ _ _ _
        · rfl

theorem durable_memories (s : State) (e : StoreEntry) (g : Word32) (w : Writing) :
    (s.durable e g w).memories = s.memories := by
  by_cases kind : e.kind = .ownerEpoch
  · rw [(durable_of_ownerEpoch kind s g w).1]
    rfl
  · rw [durable_of_plain kind]
    rfl

theorem writeDone_memories (s : State) (job : Job) (k : WriteKind) (w : Writing) :
    (s.writeDone job k w).memories = s.memories := by
  cases k with
  | entry g =>
    cases todo : job.todo with
    | nil =>
      have last : s.writeDone job (.entry g) w = s.nextEntry job := by
        simp only [State.writeDone, State.entryWritten, State.nextEntry, todo]
      exact last ▸ nextEntry_memories s job
    | cons e rest =>
      rw [State.writeDone, entryWritten_eq todo]
      exact (nextEntry_memories _ _).trans (durable_memories s e g w)
  | copy r rest copied => exact copyNext_memories _ _ _ _
  | checkpoint copied => exact nextEntry_memories (s.checkpointed w copied) job

theorem compactionFailed_memories (s : State) (job : Job) (w : Option Writing) :
    (s.compactionFailed job w).memories = s.memories := by
  simp only [State.compactionFailed]
  split
  · cases w with
    | some w => rfl
    | none => exact failRequest_memories s job
  · rfl

theorem writeFailed_memories (s : State) (job : Job) (k : WriteKind) (w : Writing) :
    (s.writeFailed job k w).memories = s.memories := by
  cases k with
  | entry g => rfl
  | copy r rest copied => exact compactionFailed_memories s job (some w)
  | checkpoint copied => exact compactionFailed_memories s job (some w)

theorem spoilRead_memories (s : State) (job : Job) (w : Writing) (final : Bool) (got : Bytes) :
    (s.spoilRead job w final got).memories = s.memories := by
  rw [State.spoilRead]
  split
  · exact failRequest_memories s job
  · split
    · exact nextEntry_memories _ _
    · rfl

theorem copyRead_memories (s : State) (job : Job) (r : IndexRecord) (rest copied : List IndexRecord) (got : Bytes) :
    (s.copyRead job r rest copied got).memories = s.memories := by
  rw [State.copyRead]
  split
  · exact beginWrite_memories _ _ _ _
  · exact compactionFailed_memories s job none

/-- A read chunk of the request in progress completes (06 R91 ~ R94). -/
theorem journalChunk_memories (s : State) (bs : Bytes) : (s.journalChunk bs).memories = s.memories := by
  simp only [State.journalChunk]
  split
  · rfl
  · rename_i job _
    split
    · split
      · rfl
      · split
        · exact writeDone_memories s job _ _
        · exact writeFailed_memories s job _ _
    · exact spoilRead_memories s job _ _ bs
    · split
      · rfl
      · exact copyRead_memories s job _ _ _ _
    all_goals rfl

/-- The oldest request is taken, or refused (06 R90, R100). -/
theorem takeRequest_memories (s : State) : s.takeRequest.memories = s.memories := by
  have refused (u : State) (q : StoreRequest) : ((u.contain .storeFault).answerStore q false).memories = u.memories :=
    (answerStore_memories _ _ _).trans (contain_only u _).memories
  rw [State.takeRequest]
  split
  · rename_i q rest _ _
    cases s.journal.state with
    | scanning => rfl
    | ready => exact nextEntry_memories (s.dequeued rest) q.begun
    | stale => exact refused (s.dequeued rest) q
    | fault => exact refused (s.dequeued rest) q
  · rfl

/-- A write to anchor memory completes, and may end its request (06 R86, R91, 12 R178). -/
theorem anchorWritten_memories (s : State) : s.anchorWritten.memories = s.memories := by
  rw [State.anchorWritten]
  split
  · rfl
  · rw [State.finishProvisioning]
    repeat' split
    all_goals simp [State.memories]
  · simp only
    split
    · split
      · exact passRequest_memories _ _
      · rfl
    · rfl

end Sys2Proof.Machine
end

section
namespace Sys2Proof.Machine

/-! ### Start-up keeps the canonical form -/

theorem startRestored_memories (s : State) : s.startRestored.memories = s.memories := by
  rw [State.startRestored]
  refine List.foldlRecOn (motive := fun u => State.memories u = s.memories) _ _ rfl fun u same id _ => ?_
  split
  · split
    · exact same
    · exact (startDelay_stands u id).memories.trans same
  · exact same

/-- With the scan over no half is held any more. -/
theorem startupComplete_memoriesWf {s : State} (wf : s.memoriesWf) (outcome : StoreState) :
    (s.startupComplete outcome).memoriesWf := by
  obtain ⟨flash, request, -⟩ := wf
  have restored := startRestored_memories { s with journal := { s.journal with state := outcome, scan := none } }
  have ended : State.memoriesWf { s with journal := { s.journal with state := outcome, scan := none } } :=
    ⟨flash, request, trivial⟩
  simp only [State.startupComplete]
  revert restored
  generalize State.startRestored { s with journal := { s.journal with state := outcome, scan := none } } = u
  intro restored
  have stays (v : State) (same : v.memories = u.memories) : v.memoriesWf :=
    memoriesWf_of_same (same.trans restored) ended
  split
  · exact stays _ rfl
  · exact stays _ (enterCheck_stands _).memories

theorem handNext_memoriesWf {s : State} (wf : s.memoriesWf) (outcome : StoreState) (todo : List IndexRecord) :
    (s.handNext outcome todo).memoriesWf := by
  cases todo with
  | nil => exact startupComplete_memoriesWf wf outcome
  | cons r rest =>
    obtain ⟨flash, request, -⟩ := wf
    exact ⟨flash, request, trivial⟩

theorem handOver_memories (s : State) (e : FoundEntry) : (s.handOver e).memories = s.memories := by
  simp only [State.handOver, State.takeBank, State.takeAuthority, State.takeCred, State.takeCount]
  repeat' split
  all_goals rfl

theorem contain_memoriesWf {s : State} (wf : s.memoriesWf) (c : ContainCause) : (s.contain c).memoriesWf :=
  memoriesWf_of_same (contain_only s c).memories wf

theorem scanned_memoriesWf {s : State} (wf : s.memoriesWf) (outcome : StoreState) (index : List IndexRecord) :
    (s.scanned outcome index).memoriesWf := by
  simp only [State.scanned]
  split
  · exact handNext_memoriesWf (contain_memoriesWf wf _) _ _
  · exact handNext_memoriesWf wf _ _

theorem probesFailed_memoriesWf {s : State} (wf : s.memoriesWf) (f : Option Found) (neither : Bool) :
    (s.probesFailed f neither).memoriesWf := by
  cases f with
  | some f => exact scanned_memoriesWf (s := s.withFound f) wf _ _
  | none =>
    simp only [State.probesFailed]
    split <;> exact scanned_memoriesWf wf _ _

theorem probeSucceeded_memoriesWf {s : State} (wf : s.memoriesWf) (area : Capacity) (f : Found) :
    (s.probeSucceeded area f).memoriesWf := by
  let found : State := { s.withFound f with journal := { (s.withFound f).journal with provisioning := some area } }
  simp only [State.probeSucceeded]
  split
  · exact scanned_memoriesWf (s := found) wf _ _
  · split
    · exact scanned_memoriesWf (s := { found with anchor := { found.anchor with generation := f.newest } }) wf _ _
    · exact scanned_memoriesWf (s := found) wf _ _

/-- A probe goes on with the halves it holds (06 R96, 12 R174). -/
theorem probe_memoriesWf {s : State} (wf : s.memoriesWf) (area : Capacity) {half0 half1 : Memory} (k : Nat)
    (wf0 : half0.wf = true) (wf1 : half1.wf = true) : (s.probe area half0 half1 k).memoriesWf := by
  obtain ⟨flash, request, -⟩ := wf
  exact ⟨flash, request, wf0, wf1⟩

theorem areaRead_memoriesWf {s : State} (wf : s.memoriesWf) (area : Capacity) (half0 half1 : Memory) :
    (s.areaRead area half0 half1).memoriesWf := by
  have second : (s.probe .mib32 [] [] 0).memoriesWf := probe_memoriesWf wf _ _ rfl rfl
  simp only [State.areaRead]
  split
  · split
    · exact probeSucceeded_memoriesWf wf _ _
    · split
      · exact second
      · exact probesFailed_memoriesWf wf _ _
  · split
    · exact second
    · exact probesFailed_memoriesWf wf _ _

/-- A chunk of the scan completes (06 R96 ~ R99): its bytes join the half they were read from. -/
theorem scanChunk_memoriesWf {s : State} (wf : s.memoriesWf) (bs : Bytes) : (s.scanChunk bs).memoriesWf := by
  simp only [State.scanChunk]
  split
  · exact wf
  · rename_i area half0 half1 k scan
    have halves : half0.wf = true ∧ half1.wf = true := by
      have held := wf.2.2
      rwa [scan] at held
    obtain ⟨wf0, wf1⟩ := halves
    split
    · refine probe_memoriesWf wf _ _ ?_ ?_
      · split
        · exact Memory.writeBytes_wf _ _ _ wf0
        · exact wf0
      · split
        · exact wf1
        · exact Memory.writeBytes_wf _ _ _ wf1
    · exact areaRead_memoriesWf wf _ _ _
  · exact wf
  · split
    · obtain ⟨flash, request, -⟩ := wf
      exact ⟨flash, request, trivial⟩
    · rw [State.handRead]
      split
      · exact handNext_memoriesWf (memoriesWf_of_same (handOver_memories s _) wf) _ _
      · exact handNext_memoriesWf (contain_memoriesWf wf _) _ _

theorem storeChunk_memoriesWf {s : State} (wf : s.memoriesWf) (bs : Bytes) : (s.storeChunk bs).memoriesWf := by
  rw [State.storeChunk]
  split
  · exact scanChunk_memoriesWf wf bs
  · exact memoriesWf_of_same (journalChunk_memories s bs) wf

/-! ### The Reset Controller -/

theorem abandonSession_memories (s : State) : s.abandonSession.memories = s.memories := by
  simp only [State.abandonSession]
  split
  · exact (place_only _ _ _).memories
  · rfl

/-- A SoC reset clears the request buffer (03 R48). -/
theorem assertReset_memoriesWf {s : State} (wf : s.memoriesWf) : s.assertReset.memoriesWf := by
  obtain ⟨flash, -, halves⟩ := wf
  exact memoriesWf_of_same (abandonSession_memories _) ⟨flash, rfl, halves⟩

theorem startPulse_memoriesWf {s : State} (wf : s.memoriesWf) (c : ResetCause) : (s.startPulse c).memoriesWf :=
  assertReset_memoriesWf (s := s.recordCause c) wf

theorem requestAsserted_memoriesWf {s : State} (wf : s.memoriesWf) : s.requestAsserted.memoriesWf := by
  rw [State.requestAsserted]
  split
  · exact wf
  · exact assertReset_memoriesWf wf
  all_goals exact wf

theorem ownerReset_memoriesWf {s : State} (wf : s.memoriesWf) : s.ownerReset.memoriesWf := by
  let recorded := State.recordCause { s with rst := { s.rst with hold := none } } .ownerReset
  have asked : State.memoriesWf (if s.isField then (recorded.place .ownerEpoch false).clearGrant else recorded) := by
    split
    · exact memoriesWf_of_same (s := recorded) (place_only recorded .ownerEpoch false).memories wf
    · exact wf
  simp only [State.ownerReset]
  split
  · exact assertReset_memoriesWf asked
  all_goals exact asked

theorem resetSoc_memoriesWf {s : State} (wf : s.memoriesWf) (body : Bytes) : (s.resetSoc body).memoriesWf := by
  rw [State.resetSoc]
  split
  · split
    · exact startPulse_memoriesWf wf _
    · exact wf
  · exact memoriesWf_of_same (by simp [State.memories]) wf

/-! ### Supply -/

/-- At power-on the flash stands, the request buffer is clear and the scan begins with empty halves (04 R57). -/
theorem powerOn_memoriesWf {s : State} (flash : s.flash.wf = true) : s.powerOn.memoriesWf := ⟨flash, rfl, rfl, rfl⟩

/-- Bytes torn by the loss of supply leave the canonical form (06 R100). -/
theorem loseSupply_memoriesWf {s : State} (flash : s.flash.wf = true) (torn : FlashCells) :
    (s.loseSupply torn).memoriesWf := ⟨Memory.patch_wf _ _ _ flash, rfl, rfl, rfl⟩

end Sys2Proof.Machine
end

section
namespace Sys2Proof.Machine

/-! ### Commands of the control window -/

/-- The Signature Unit completes its operation (07 R106, 08 R123, 09 R144). -/
theorem signatureDone_memories (s : State) (job : SignatureJob) : (s.signatureDone job).memories = s.memories := by
  have used (u : State) (n : Nat) (k : KeyRecord) (result : Bytes) :
      (u.completeUse n k result).memories = u.memories := by
    rw [State.completeUse]
    split <;> simp [State.memories]
  cases job with
  | manifest body =>
    simp only [State.signatureDone, State.manifestDone]
    split <;> simp [State.memories]
  | attest report => simp [State.signatureDone, State.memories]
  | sign slot key digest => exact used (s.draw signDraws) _ _ _
  | derive slot key message => exact used s _ _ _
  | createKey slot cls sign mask needsGrant containedOk bind => exact (place_only (s.draw 1) _ _).memories
  | salt id content value => exact (place_only (s.draw 1) _ _).memories

theorem stageAdvance_memories (s : State) (body : Bytes) : (s.stageAdvance body).memories = s.memories := by
  simp only [State.stageAdvance]
  split
  · split
    · simp [State.memories]
    · rw [foldl_freeze_eq]
      exact advanceRun_memories _ _ _
  · simp [State.memories]

theorem updateVerify_memories (s : State) (body : Bytes) : (s.updateVerify body).memories = s.memories := by
  simp only [State.updateVerify]
  split
  · split
    · rw [verifyRun_memories]
      simp [State.memories]
    · simp [State.memories]
  · simp [State.memories]

theorem take_memoriesWf {s : State} (wf : s.memoriesWf) (c : Command) {f : Bytes → State}
    (kept : ∀ body, (f body).memoriesWf) : (s.take c f).memoriesWf := by
  rw [State.take]
  split
  · split
    · exact kept _
    · exact wf
  · exact wf

theorem whenPowered_memoriesWf {s u : State} (wf : s.memoriesWf) (kept : u.memoriesWf) :
    (s.whenPowered u).memoriesWf := by
  rw [State.whenPowered]
  split
  · exact kept
  · exact wf

/-! ### Every command -/

/-- Every command keeps the memories in canonical form (01 section 1.7, 03 section 3.1, 06 section 6.8). -/
theorem exec_memoriesWf (i : Instr) {s : State} (wf : s.memoriesWf) (t : State) (run : exec i s = .next t) :
    t.memoriesWf := by
  have next {u : State} (kept : u.memoriesWf) :
      ∀ t, Host.Outcome.next (φ := Fault) (ρ := Refusal) u = .next t → t.memoriesWf :=
    fun t same => Host.Outcome.next.inj same ▸ kept
  have powered {u : State} (kept : u.memoriesWf) := next (whenPowered_memoriesWf wf kept)
  have same {u : State} (stands : u.memories = s.memories) : u.memoriesWf := memoriesWf_of_same stands wf
  have taken {c : Command} {f : Bytes → State} (kept : ∀ body, (f body).memoriesWf) :=
    next (take_memoriesWf wf c kept)
  have reports {c : Command} {f : Bytes → State} (stands : ∀ body, (f body).memories = s.memories) :=
    next (take_memoriesWf wf c fun body => same (stands body))
  revert t run
  cases i with
  | powerOn => exact next (powerOn_memoriesWf wf.1)
  | lossOfSupply torn => exact powered (loseSupply_memoriesWf wf.1 torn)
  | uptimeTick => exact powered wf
  | transactionStart =>
    refine next ?_
    simp only [State.startTransaction]
    split <;> exact wf
  | transactionEnd =>
    refine next ?_
    simp only [State.endTransaction]
    repeat' split
    all_goals exact wf
  | suspendComplete =>
    refine powered ?_
    split <;> exact wf
  | read opcode received | fastRead opcode received =>
    refine next ?_
    simp only [State.openRead]
    split <;> exact wf
  | statusRead opcode n | idRead opcode n =>
    refine next ?_
    simp only [State.answer]
    split <;> exact wf
  | readDataByte misread => exact powered (same (readDataByte_memories s misread))
  | program opcode received => exact next (programTransaction_memoriesWf wf _ _)
  | erase4k opcode received | erase64k opcode received => exact next (eraseTransaction_memoriesWf wf _ _ _ _)
  | eraseChip bare =>
    refine next (same (plainTransaction_memories s _ _ _ fun u => ?_))
    split
    · exact violate_memories ..
    · rfl
  | writeEnable bare | writeDisable bare => exact next (same (plainTransaction_memories s _ _ _ fun u => rfl))
  | refusedOpcode opcode n => exact next (same (refuseOpcode_memories s _ _))
  | internalGrant =>
    refine powered ?_
    repeat' split
    all_goals exact wf
  | readChunkComplete misread =>
    refine powered (same ?_)
    split
    · exact measureChunk_memories _ _
    · split
      · exact verifyChunk_memories _ _
      · rw [State.withdrawnDone]
        split <;> rfl
  | storeReadChunkComplete misread =>
    refine powered ?_
    split
    · exact storeChunk_memoriesWf (s := s.chunkDone .journal) wf _
    · exact wf
  | flashOperationComplete failed =>
    refine powered ?_
    split
    · obtain ⟨flash, request, halves⟩ := wf
      exact ⟨operated_wf flash _ _, request, halves⟩
    · exact wf
    · exact internalDone_memoriesWf wf _ _ _
    all_goals exact wf
  | storeRequestTaken => exact powered (same (takeRequest_memories s))
  | signatureUnitComplete =>
    refine powered (same ?_)
    split
    · exact signatureDone_memories _ _
    · rfl
  | anchorMemoryWriteComplete => exact powered (same (anchorWritten_memories s))
  | rstReqAsserted =>
    let low : State := { s with lines := { s.lines with rstReq := true } }
    refine next ?_
    split
    · exact wf
    · exact whenPowered_memoriesWf (s := low) wf (requestAsserted_memoriesWf (s := low) wf)
  | rstReqDeasserted =>
    let high : State := { s with lines := { s.lines with rstReq := false } }
    refine next ?_
    split
    · refine whenPowered_memoriesWf (s := high) wf ?_
      split
      · exact same (enterCheck_stands high).memories
      · exact wf
    · exact wf
  | pulseEnd =>
    refine powered ?_
    split
    · exact same (endPulse_stands { s with rst := { s.rst with pulse := none } }).memories
    · exact wf
  | ownerClrAsserted =>
    refine next ?_
    split
    · exact wf
    · refine whenPowered_memoriesWf (s := { s with lines := { s.lines with ownerClr := true } }) wf ?_
      split <;> exact wf
  | ownerClrDeasserted =>
    refine next ?_
    split
    · exact whenPowered_memoriesWf (s := { s with lines := { s.lines with ownerClr := false } }) wf wf
    · exact wf
  | ownerReset =>
    refine powered ?_
    split
    · exact ownerReset_memoriesWf wf
    · exact wf
  | trialTimerExpiry =>
    refine powered ?_
    split
    · exact startPulse_memoriesWf wf _
    · exact wf
  | grantExpiry =>
    refine powered ?_
    split <;> exact wf
  | delayExpiry id =>
    refine powered (same ?_)
    repeat' split
    · exact (startDecay_stands (s.putCred id _) id).memories
    all_goals rfl
  | decayExpiry id =>
    refine powered (same ?_)
    split
    · split
      · simp only
        split
        · exact ((offerCount_stands s id _ _ _ _).trans (startDecay_stands _ id)).memories
        · rfl
      · rfl
    · rfl
  | resetSoc => exact taken (resetSoc_memoriesWf wf)
  | stageAdvance => exact reports (stageAdvance_memories s)
  | updateVerify => exact reports (updateVerify_memories s)
  | status | keyList | credList | grantDrop | updateStatus | violationRead =>
    exact reports fun body => by simp [State.credList, State.memories]
  | _ =>
    -- Each branch of the others refuses, answers, waits or places one request.
    refine reports fun body => ?_
    simp only [State.events, State.causeClear, State.measureExtend, State.measureRead, State.logRead, State.attest,
      State.keyCreate, State.keyPublic, State.keySign, State.keyDerive, State.keyDestroy, State.credStore,
      State.credRelease, State.credVerify, State.credErase, State.updateOpen, State.updateCommit,
      State.updateAbort, State.updateConfirm, State.layoutRead, State.provisionLayout, State.provisionAuthority,
      State.provisionBank, State.provisionFinish, State.endSession]
    repeat' split
    all_goals simp [State.memories]

end Sys2Proof.Machine

open Sys2Proof Sys2Proof.Machine

/-- Settles O2: every command keeps the memories canonical, and a millisecond that passes leaves them. -/
theorem stepKeepsMemoriesCanonical : Obligations.StepKeepsMemoriesCanonical := by
  intro s t wf run
  rw [step] at run
  split at run
  · cases run
    rw [State.idle]
    split <;> exact wf
  · rename_i c rest _
    exact exec_memoriesWf c (s := { s with pending := rest }) wf t run

end

section
namespace Sys2Proof.Machine

/-! ### The step -/

/-- On an empty queue the clock alone moves, within the second (log entry 2). -/
theorem idle_eq (s : State) : s.idle = { s with time := { s.time with
    clock := if s.powered = true ∧ (s.time.clock + 1) % 1000 ≠ 0 then s.time.clock + 1 else s.time.clock } } := by
  rw [State.idle]
  split <;> rfl

end Sys2Proof.Machine

open Sys2Proof Sys2Proof.Machine

/-- Settles O1: by whether a command waits. -/
theorem stepRunsTheFrontCommand : Obligations.StepRunsTheFrontCommand := by
  refine ⟨fun s c rest front => ?_, fun s empty => ?_⟩
  · rw [step, front]
  · have idles : step s = .next s.idle := by rw [step, empty]
    exact idles.trans (congrArg Host.Outcome.next (idle_eq s))

end

section
namespace Sys2Proof.Machine

/-! ### KEY CREATE -/

/-- The form of a KEY CREATE body, field by field (07 R107 (1)). -/
theorem keyCreateFormOk_iff (slot cls usage mask flags bind : Byte) :
    keyCreateFormOk [slot, cls, usage, mask, flags, bind] = true ↔
      ¬(15 < slot.toNat ∨ 1 < cls.toNat ∨ 1 < usage.toNat ∨ 3 < flags.toNat ∨
        ¬(bind = 0xFF ∨ bind.toNat ≤ 7 ∧ usage = 1)) := by
  simp [keyCreateFormOk, byteAt, and_assoc]
  exact fun _ _ _ _ => Decidable.or_iff_not_imp_left

/-- The slots of the identity and the authority key come before the general ones (07 section 7.1). -/
theorem lt_general_iff (n : Nat) : n < 2 ↔ n ≤ 1 := Nat.lt_succ_iff

/-- A class byte that is not 00h is that of OWNER (07 R107 (1), (6)). -/
theorem ownerClass_iff {cls : Byte} (low : cls.toNat ≤ 1) :
    ((if cls = 0 then KeyClass.platform else .owner) == .owner) = true ↔ cls = 1 := by
  by_cases zero : cls = 0
  · simp [zero]
  · have one : cls = 1 := by bv_omega
    simp [one]

/-- A body of another length or form is refused (07 R107 (1)). -/
theorem keyCreate_of_malformed {s : State} {body : Bytes} (hands : s.hands .keyCreate body)
    (wrong : ¬keyCreateFormOk body = true) : s.keyCreate body = s.posted 0x10 [] := by
  rw [State.keyCreate, if_neg wrong]
  exact refuse_of_hands hands (by decide) .malformed

/-- Past its form KEY CREATE is tested in order: slot, state of the slot, stage, containment, grant (07 R107). -/
theorem keyCreate_of_formed {s : State} {slot cls usage mask flags bind : Byte}
    (hands : s.hands .keyCreate [slot, cls, usage, mask, flags, bind])
    (formed : keyCreateFormOk [slot, cls, usage, mask, flags, bind] = true) (low : cls.toNat ≤ 1) :
    s.keyCreate [slot, cls, usage, mask, flags, bind] =
      if slot.toNat < 2 then s.posted 0x17 []
      else if s.keys.disabled.getLsbD slot.toNat = true ∨ (s.keys.held slot.toNat).isSome = true then s.posted 0x22 []
      else if mask.getLsbD s.measure.stage.toNat = false then s.posted 0x13 []
      else if s.response.causes ≠ 0 then s.posted 0x15 []
      else if cls = 1 ∧ s.creds.grant = none then s.posted 0x18 []
      else { s.waiting .keyCreate [slot, cls, usage, mask, flags, bind] with
        signature := some (.createKey slot.toNat (if cls = 0 then .platform else .owner) (usage == 0) mask
          (flags.getLsbD 0) (flags.getLsbD 1) (if bind = 0xFF then none else some bind.toNat)) } := by
  have refused (r : Result) : s.refuse r = s.posted r.code [] := refuse_of_hands hands (by decide) r
  have bytes : byteAt [slot, cls, usage, mask, flags, bind] 0 = slot ∧
      byteAt [slot, cls, usage, mask, flags, bind] 1 = cls ∧ byteAt [slot, cls, usage, mask, flags, bind] 2 = usage ∧
      byteAt [slot, cls, usage, mask, flags, bind] 3 = mask ∧ byteAt [slot, cls, usage, mask, flags, bind] 4 = flags ∧
      byteAt [slot, cls, usage, mask, flags, bind] 5 = bind := ⟨rfl, rfl, rfl, rfl, rfl, rfl⟩
  obtain ⟨slotAt, clsAt, usageAt, maskAt, flagsAt, bindAt⟩ := bytes
  simp only [State.keyCreate, if_pos formed, slotAt, clsAt, usageAt, maskAt, flagsAt, bindAt, refused,
    wait_of_hands hands, Keys.isDisabled, inSet, Bool.or_eq_true, not_stageIn_iff, contained_iff, Bool.and_eq_true,
    ownerClass_iff low, not_granted_iff, lt_general_iff]
  rfl

/-! ### KEY DESTROY -/

/-- A slot that holds no key, or is none of the general ones, is refused (07 R112). -/
theorem keyDestroy_of_malformed {s : State} {body : Bytes} (hands : s.hands .keyDestroy body)
    (wrong : ∀ slot : Byte, body = [slot] → 15 < slot.toNat) : s.keyDestroy body = s.posted 0x10 [] := by
  simp only [State.keyDestroy, keySlot_of_malformed wrong]
  exact refuse_of_hands hands (by decide) .malformed

/-- KEY DESTROY of a slot is tested in order, and past the last test its removal entry is placed (07 R112). -/
theorem keyDestroy_of_slot {s : State} {slot : Byte} (hands : s.hands .keyDestroy [slot]) (low : slot.toNat ≤ 15)
    (free : s.journal.freeFor .engine) :
    s.keyDestroy [slot] =
      if slot.toNat < 2 then s.posted 0x17 []
      else (s.keys.held slot.toNat).elim (s.posted 0x16 []) fun k =>
        if s.keys.disabled.getLsbD slot.toNat = true then s.posted 0x22 []
        else if k.stageMask.getLsbD s.measure.stage.toNat = false then s.posted 0x13 []
        else if s.response.causes ≠ 0 ∧ (k.cls = .owner ∨ k.containedOk = false) then s.posted 0x15 []
        else if (k.cls = .owner ∨ k.needsGrant = true) ∧ s.creds.grant = none then s.posted 0x18 []
        else (s.waiting .keyDestroy [slot]).queued
          (plainRequest (.keyDestroy slot.toNat) true ⟨.key, slot.toNat, 0, false, []⟩) := by
  have refused (r : Result) : s.refuse r = s.posted r.code [] := refuse_of_hands hands (by decide) r
  have placed : s.wait.place (.keyDestroy slot.toNat) true = (s.waiting .keyDestroy [slot]).queued
      (plainRequest (.keyDestroy slot.toNat) true ⟨.key, slot.toNat, 0, false, []⟩) := wait_place_free hands free
  simp only [State.keyDestroy, keySlot_of_slot low, lt_general_iff]
  cases s.keys.held slot.toNat with
  | none =>
    simp only [refused]
    rfl
  | some k =>
    simp only [refused, placed, Keys.isDisabled, inSet, not_stageIn_iff, contained_iff, stoppedByContainment_iff,
      Bool.and_eq_true, Bool.or_eq_true, beq_iff_eq, not_granted_iff, Option.elim_some]
    rfl

end Sys2Proof.Machine

open Sys2Proof Sys2Proof.Machine

/-- Settles O48: the form of the body first, then the tests of each command in its order. -/
theorem keyCreateAndDestroyAreTestedInOrder : Obligations.KeyCreateAndDestroyAreTestedInOrder := by
  intro s
  have create {body : Bytes} (hands : s.hands .keyCreate body) : exec .keyCreate s = .next (s.keyCreate body) :=
    congrArg Host.Outcome.next (take_of_hands hands _)
  have destroy {body : Bytes} (hands : s.hands .keyDestroy body) : exec .keyDestroy s = .next (s.keyDestroy body) :=
    congrArg Host.Outcome.next (take_of_hands hands _)
  refine ⟨fun body length hands => ?shortCreate, fun slot cls usage mask flags bind hands => ?create,
    fun body length hands => ?shortDestroy, fun slot hands free => ?destroy⟩
  case shortCreate =>
    have wrong : ¬keyCreateFormOk body = true := by simp [keyCreateFormOk, length]
    rw [create hands, keyCreate_of_malformed hands wrong]
  case create =>
    have form := keyCreateFormOk_iff slot cls usage mask flags bind
    rw [create hands]
    refine congrArg Host.Outcome.next ?_
    by_cases formed : keyCreateFormOk [slot, cls, usage, mask, flags, bind] = true
    · have low : cls.toNat ≤ 1 := by
        have := form.1 formed
        omega
      exact (keyCreate_of_formed hands formed low).trans (if_neg (form.1 formed)).symm
    · exact (keyCreate_of_malformed hands formed).trans (if_pos (not_not.1 (mt form.2 formed))).symm
  case shortDestroy =>
    rw [destroy hands, keyDestroy_of_malformed hands]
    rintro slot rfl
    exact absurd rfl length
  case destroy =>
    rw [destroy hands]
    refine congrArg Host.Outcome.next ?_
    by_cases high : 15 < slot.toNat
    · refine (keyDestroy_of_malformed hands ?_).trans (if_pos high).symm
      rintro _ ⟨⟩
      exact high
    · refine ((keyDestroy_of_slot hands (Nat.le_of_not_lt high) free).trans ?_).trans (if_neg high).symm
      cases s.keys.held slot.toNat <;> rfl

end

section
namespace Sys2Proof.Machine

/-! ### KEY SIGN and KEY DERIVE -/

/-- The usage that a use of a key asks for (07 R105 (4)). -/
def KeyUsage.fits (sign : Bool) : KeyUsage → Bool
  | .sign _ => sign
  | .derive _ => !sign

/-- The operation that a use asks of the Signature Unit (07 R110, R111). -/
def State.useJob (s : State) (sign : Bool) (n : Nat) (tail : Bytes) (k : KeyRecord) : SignatureJob :=
  if sign then .sign n k (BitVec.ofNat 256 (beNat tail)) else .derive n k (s.deriveMessage k tail)

/-- A use that passed its tests waits for its operation; one that did not is refused (07 R105). -/
def State.useTaken (s : State) (job : KeyRecord → SignatureJob) : Except Result KeyRecord → State
  | .ok k => { s.wait with signature := some (job k) }
  | .error r => s.refuse r

theorem useTaken_ok (s : State) (job : KeyRecord → SignatureJob) (k : KeyRecord) :
    s.useTaken job (.ok k) = { s.wait with signature := some (job k) } := rfl

theorem useTaken_error (s : State) (job : KeyRecord → SignatureJob) (r : Result) :
    s.useTaken job (.error r) = s.refuse r := rfl

theorem keySign_eq (s : State) (body : Bytes) : s.keySign body =
    if body.length = 33 ∧ (byteAt body 0).toNat ≤ 15 then
      s.useTaken (fun k => .sign (byteAt body 0).toNat k (digestAt body 1))
        (s.keyUse (byteAt body 0).toNat KeyUsage.isSign)
    else s.refuse .malformed := rfl

theorem keyDerive_eq (s : State) (body : Bytes) : s.keyDerive body =
    if 2 ≤ body.length ∧ body.length ≤ 257 ∧ (byteAt body 0).toNat ≤ 15 then
      s.useTaken (fun k => .derive (byteAt body 0).toNat k (s.deriveMessage k (body.drop 1)))
        (s.keyUse (byteAt body 0).toNat KeyUsage.isDerive)
    else s.refuse .malformed := rfl

theorem isSign_eq_fits : KeyUsage.isSign = KeyUsage.fits true := by
  funext u
  cases u <;> rfl

theorem isDerive_eq_fits : KeyUsage.isDerive = KeyUsage.fits false := by
  funext u
  cases u <;> rfl

/-- The bodies of the two rows: a slot with a digest, or with a label of 1 to 256 bytes (07 R110, R111). -/
theorem use_rows {s : State} {i : Instr} {c : Command} {sign : Bool}
    (row : (i, c, sign) ∈ [(Instr.keySign, Command.keySign, true), (Instr.keyDerive, Command.keyDerive, false)]) :
    c ≠ .events ∧ (s.hands c [] → exec i s = .next (s.refuse .malformed)) ∧
    ∀ slot tail, s.hands c (slot :: tail) → exec i s = .next (
      if 15 < slot.toNat ∨ (sign = true ∧ tail.length ≠ 32) ∨ (sign = false ∧ (tail.length < 1 ∨ 256 < tail.length)) then
        s.refuse .malformed
      else s.useTaken (s.useJob sign slot.toNat tail) (s.keyUse slot.toNat (KeyUsage.fits sign))) := by
  have taken {i : Instr} {c : Command} {f : Bytes → State} {body : Bytes} (run : exec i s = .next (s.take c f))
      (hands : s.hands c body) : exec i s = .next (f body) := run.trans (congrArg _ (take_of_hands hands f))
  simp only [List.mem_cons, Prod.mk.injEq, List.not_mem_nil, or_false] at row
  obtain ⟨rfl, rfl, rfl⟩ | ⟨rfl, rfl, rfl⟩ := row
  · refine ⟨by decide, taken (f := s.keySign) rfl, fun slot tail hands =>
      (taken (f := s.keySign) rfl hands).trans (congrArg _ ?_)⟩
    rw [keySign_eq, isSign_eq_fits]
    by_cases formed : tail.length = 32 ∧ slot.toNat ≤ 15
    · have digest : digestAt (slot :: tail) 1 = BitVec.ofNat 256 (beNat tail) := digestAt_cons formed.1 slot
      rw [if_pos (by simpa [byteAt] using formed), if_neg (by simp; omega), digest]
      rfl
    · rw [if_neg (by simpa [byteAt] using formed), if_pos (by simp; omega)]
  · refine ⟨by decide, taken (f := s.keyDerive) rfl, fun slot tail hands =>
      (taken (f := s.keyDerive) rfl hands).trans (congrArg _ ?_)⟩
    rw [keyDerive_eq, isDerive_eq_fits]
    by_cases formed : 1 ≤ tail.length ∧ tail.length ≤ 256 ∧ slot.toNat ≤ 15
    · rw [if_pos (by simp [byteAt]; omega), if_neg (by simp only [reduceCtorEq, false_and, false_or, true_and]; omega)]
      rfl
    · rw [if_neg (by simp [byteAt]; omega), if_pos (by simp only [reduceCtorEq, false_and, false_or, true_and]; omega)]

/-- A use of a slot without a key is refused (07 R105 (2), (3)). -/
theorem useTaken_of_empty {s : State} {c : Command} {body : Bytes} (hands : s.hands c body) (other : c ≠ .events)
    {n : Nat} (empty : s.keys.held n = none) (usage : KeyUsage → Bool) (job : KeyRecord → SignatureJob) :
    s.useTaken job (s.keyUse n usage) =
      if n < 2 then s.posted 0x17 [] else if s.keys.disabled.getLsbD n then s.posted 0x22 [] else s.posted 0x16 [] := by
  have refused (r : Result) : s.refuse r = s.posted r.code [] := refuse_of_hands hands other r
  simp only [State.keyUse, empty, lt_general_iff, apply_ite (s.useTaken job), useTaken_error, refused]
  rfl

/-- A use of a slot with a key is tested in order, and past the last test waits for its operation (07 R105). -/
theorem useTaken_of_held {s : State} {c : Command} {body : Bytes} (hands : s.hands c body) (other : c ≠ .events)
    {n : Nat} {k : KeyRecord} (held : s.keys.held n = some k) (usage : KeyUsage → Bool) (job : KeyRecord → SignatureJob) :
    s.useTaken job (s.keyUse n usage) =
      if n < 2 then s.posted 0x17 []
      else if s.keys.disabled.getLsbD n then s.posted 0x22 []
      else if usage k.usage = false then s.posted 0x17 []
      else if k.stageMask.getLsbD s.measure.stage.toNat = false then s.posted 0x13 []
      else if s.response.causes ≠ 0 ∧ (k.cls = .owner ∨ k.containedOk = false) then s.posted 0x15 []
      else if k.needsGrant = true ∧ s.creds.grant = none then s.posted 0x18 []
      else { s.waiting c body with signature := some (job k) } := by
  have refused (r : Result) : s.refuse r = s.posted r.code [] := refuse_of_hands hands other r
  have unfit : (!usage k.usage) = true ↔ usage k.usage = false := by rw [Bool.not_eq_true']
  simp only [State.keyUse, held, lt_general_iff, Keys.isDisabled, inSet, unfit, not_stageIn_iff, Bool.and_eq_true,
    contained_iff, stoppedByContainment_iff, not_granted_iff, apply_ite (s.useTaken job), useTaken_error,
    useTaken_ok, refused, wait_of_hands hands]
  rfl

end Sys2Proof.Machine

open Sys2Proof Sys2Proof.Machine

/-- Settles O49: the form by the row, then the tests by whether the slot holds a key. -/
theorem keyUseIsTestedInOrder : Obligations.KeyUseIsTestedInOrder := by
  intro s i c sign row
  obtain ⟨other, bare, formed⟩ := use_rows (s := s) row
  refine ⟨fun hands => (bare hands).trans (congrArg _ (refuse_of_hands hands other .malformed)),
    fun slot tail hands => (formed slot tail hands).trans (congrArg Host.Outcome.next ?_)⟩
  refine ite_congr rfl (fun _ => refuse_of_hands hands other .malformed) fun _ => ?_
  cases held : s.keys.held slot.toNat with
  | none => exact useTaken_of_empty hands other held _ _
  | some k => exact useTaken_of_held hands other held _ _

end

section
namespace Sys2Proof.Machine

/-! ### Reports -/

/-- A block that reports at once posts its report (03 R47). -/
theorem take_of_report {s : State} {c : Command} {body : Bytes} (hands : s.hands c body) (other : c ≠ .events)
    (f : Bytes → State) (r : Result) {out : Bytes} (report : f body = s.finish r out) :
    s.take c f = s.posted r.code out := by
  rw [take_of_hands hands, report]
  exact finish_eq_posted hands.2 other r out

/-! ### UPDATE STATUS -/

/-- UPDATE STATUS answers DIGEST exactly while REJECTED stands (09 R149). -/
theorem updateStatus_of_hands {s : State} {body : Bytes} (hands : s.hands .updateStatus body) :
    exec .updateStatus s =
      .next (s.posted (if s.update.verification.isRejected then 0x1F else 0) s.updateStatusBody) := by
  have taken := take_of_report hands (by decide) (fun _ => s.finish _ s.updateStatusBody)
    (if s.update.verification.isRejected then .digest else .ok) rfl
  rw [apply_ite Result.code] at taken
  exact congrArg Host.Outcome.next taken

/-! ### LAYOUT READ -/

/-- With no layout to report LAYOUT READ is refused (02 R40). -/
theorem layoutRead_of_none {s : State} {body : Bytes} (hands : s.hands .layoutRead body)
    (none : s.reportedLayout = none) : s.layoutRead body = s.posted 0x16 [] := by
  rw [State.layoutRead, none]
  exact refuse_of_hands hands (by decide) .notFound

/-- LAYOUT READ reports the layout behind its source, the bank, the sets and the latch (02 R40). -/
theorem layoutRead_of_some {s : State} {body : Bytes} (hands : s.hands .layoutRead body) {l : Layout}
    (reported : s.reportedLayout = some l) : s.layoutRead body = s.posted 0
      ([s.layoutSource, if s.checker.openMapping then 0 else s.update.presented.code] ++
        beBytes 2 s.checker.freezeSet.toNat ++ beBytes 2 s.checker.hideSet.toNat ++ [flagByte s.contained] ++
        beBytes 2 l.block.length ++ l.block) := by
  rw [State.layoutRead, reported]
  refine (finish_eq_posted hands.2 (show Command.layoutRead ≠ .events by decide) .ok _).trans ?_
  simp only [apply_ite Bank.code]
  rfl

/-- The source of the layout behind a report: 2 under the open mapping, 1 for the trial layout (02 R40). -/
theorem layoutSource_eq (s : State) : s.layoutSource =
    if s.checker.openMapping then 2 else if s.checker.source = .trial then 1 else 0 := by
  rw [State.layoutSource]
  cases s.checker.source <;> rfl

/-! ### CRED LIST -/

/-- What stands under the keys of a list, by the keys under which something stands. -/
theorem flatMap_filterMap_eq {α β γ : Type} (keys : List α) (get : α → Option β) (g : β → α → List γ) :
    (keys.filterMap fun a => (get a).map fun b => (a, b)).flatMap (fun x => g x.2 x.1) =
      (keys.filter fun a => (get a).isSome).flatMap (fun a => (get a).elim [] (g · a)) := by
  induction keys with
  | nil => rfl
  | cons a rest ih => cases found : get a <;> simp [found, ih]

/-- A VERIFIER as it is listed (08 R135). -/
theorem listBytes_of_verifier {r : CredRecord} {v : Verifier} (content : r.content = .verifier v) (n clock : Nat) :
    r.listBytes n clock = [BitVec.ofNat 8 n, 0, if v.ownerGate then 1 else 0, v.verifyMask] ++ v.label ++ [r.count] ++
      beBytes 4 (remainingSeconds r.delayTimer clock) ++ [BitVec.ofNat 8 v.free, BitVec.ofNat 8 v.delay] ++
      beBytes 4 v.ceiling ++ beBytes 2 v.decay := by
  simp [CredRecord.listBytes, content, bytes1, Credential.kindCode, Credential.flags, Credential.stageMask,
    Credential.label, flagByte]

/-- A SECRET as it is listed, with no value (08 R135). -/
theorem listBytes_of_secret {r : CredRecord} {v : Secret} (content : r.content = .secret v) (n clock : Nat) :
    r.listBytes n clock = [BitVec.ofNat 8 n, 1, if v.needsGrant then 2 else 0, v.releaseMask] ++ v.label ++
      List.replicate 13 0 := by
  have flags : flagByte v.needsGrant <<< 1 = if v.needsGrant then 2 else 0 := by cases v.needsGrant <;> rfl
  simp [CredRecord.listBytes, content, bytes1, Credential.kindCode, Credential.flags, Credential.stageMask,
    Credential.label, flags]

/-- CRED LIST reports each record held behind the number of them (08 R135). -/
theorem credList_of_hands {s : State} {body : Bytes} (hands : s.hands .credList body) :
    let listed := (List.range 32).filter (fun n => (s.creds.get n).isSome)
    exec .credList s = .next (s.posted 0 ([s.ownership] ++ beBytes 4 s.journal.epoch.toNat ++
      beBytes 2 s.grantSeconds ++ [BitVec.ofNat 8 listed.length] ++
      listed.flatMap (fun n => (s.creds.get n).elim [] (·.listBytes n s.time.clock)))) := by
  intro listed
  have length : s.creds.listed.length = listed.length := by
    rw [Creds.listed, List.length_filterMap_eq_countP, List.countP_eq_length_filter]
    simp only [Option.isSome_map, listed]
  have records := flatMap_filterMap_eq (List.range 32) s.creds.get (fun r n => r.listBytes n s.time.clock)
  rw [← records, ← length]
  exact congrArg Host.Outcome.next (take_of_report hands (by decide) s.credList .ok rfl)

end Sys2Proof.Machine

open Sys2Proof Sys2Proof.Machine

/-- Settles O58: each report is the model's own, its timers rounded up to the second. -/
theorem reportsGiveTheStateInOrder : Obligations.ReportsGiveTheStateInOrder := by
  intro s body seconds u r
  have timers (tm : Option Timer) : remainingSeconds tm s.time.clock = seconds tm := by
    cases tm <;> rfl
  refine ⟨fun hands => ?updateStatus, fun hands => ?violationRead, fun hands => ?layoutRead, fun hands => ?credList⟩
  case updateStatus =>
    rw [updateStatus_of_hands hands]
    refine congrArg Host.Outcome.next (congrArg₂ s.posted ?_ ?_)
    · show (if u.verification.isRejected then _ else _) = _
      cases u.verification <;> rfl
    · simp only [State.updateStatusBody, State.trialCode, bytes1, bytes32, List.append_assoc, List.cons_append,
        List.nil_append, u, r]
      rw [timers]
      cases s.update.verification <;> cases s.update.session <;> rfl
  case violationRead =>
    exact congrArg Host.Outcome.next
      (take_of_report hands (by decide) (fun _ => s.finish .ok s.checker.violationBody) .ok rfl)
  case layoutRead =>
    intro open_
    have reported : s.reportedLayout = if open_ then s.layoutNow else s.checker.layout := by
      rw [State.reportedLayout, currentLayout_eq]
    refine congrArg Host.Outcome.next ((take_of_hands hands _).trans ?_)
    rw [← reported]
    cases layout : s.reportedLayout with
    | none => exact layoutRead_of_none hands layout
    | some l =>
      rw [layoutRead_of_some hands layout, layoutSource_eq, flagByte_contained]
  case credList =>
    intro listed entry
    rw [credList_of_hands hands]
    have entries : entry = fun n => (s.creds.get n).elim [] (·.listBytes n s.time.clock) := by
      funext n
      simp only [entry]
      cases s.creds.get n with
      | none => rfl
      | some x =>
        cases content : x.content with
        | verifier v =>
          simp only [content]
          rw [← timers]
          exact (listBytes_of_verifier content n s.time.clock).symm
        | secret v =>
          simp only [content]
          exact (listBytes_of_secret content n _).symm
    rw [← entries, State.grantSeconds, timers]
    rfl

end

section
namespace Sys2Proof.Machine

/-! ### PROVISION LAYOUT -/

/-- A block is of good form: its version and the length its counts give (12 R175 (1)). -/
theorem blockFormOk_iff (bs : Bytes) : blockFormOk bs = true ↔
    bs.getD 0 0 = 1 ∧ bs.length = 85 + 25 * (bs.getD 19 0).toNat + 6 * (bs.getD 20 0).toNat := by
  rw [blockFormOk, Bool.and_eq_true, decide_eq_true_iff, decide_eq_true_iff]
  rfl

/-- A layout passes behind the stored one: of its capacity, and with its BANKED regions where a BANK object is live
(12 R175 (2)). -/
theorem acceptLayout_iff (s : State) (l : Layout) : s.acceptLayout l = true ↔
    l.valid = true ∧ ∀ old, s.layoutNow = some old →
      l.capacity = old.capacity ∧ (s.journal.hasBank = true → l.sameBanked old = true) := by
  rw [State.acceptLayout, Bool.and_eq_true, State.stored, currentLayout_eq]
  refine and_congr_right fun _ => ?_
  cases s.layoutNow with
  | none => simp
  | some old => cases s.journal.hasBank <;> simp

/-- A body of another form is refused (12 R175 (1)). -/
theorem provisionLayout_of_malformed {s : State} {body : Bytes} (hands : s.hands .provisionLayout body)
    (wrong : ¬blockFormOk body = true) : s.provisionLayout body = s.posted 0x10 [] := by
  rw [State.provisionLayout, if_pos (by simpa using wrong)]
  exact refuse_of_hands hands (by decide) .malformed

/-- A body that holds no layout that passes is refused (12 R175 (2)). -/
theorem provisionLayout_of_unfit {s : State} {body : Bytes} (hands : s.hands .provisionLayout body)
    (formed : blockFormOk body = true) (unfit : ∀ l, Layout.parse body = some l → ¬s.acceptLayout l = true) :
    s.provisionLayout body = s.posted 0x1C [] := by
  have refused : s.refuse .layout = s.posted 0x1C [] := refuse_of_hands hands (by decide) .layout
  rw [State.provisionLayout, if_neg (by simpa using formed)]
  cases parsed : Layout.parse body with
  | none => exact refused
  | some l => exact (if_neg (unfit l parsed)).trans refused

/-- The request of PROVISION LAYOUT: the layout, and the bank record with its digest where one is live (12 R175). -/
theorem makeRequest_provisionLayout (s : State) (l : Layout) :
    let digested : BankRecord := { s.update.record with layoutDigest := sha256 l.block }
    s.makeRequest (.provisionLayout l) true =
      { purpose := .provisionLayout l, live := true
        entries := if s.journal.hasBank then [layoutEntry l, bankEntry digested] else [layoutEntry l]
        floorRaise := none, authorityHash := none
        record := if s.journal.hasBank then some digested else none } := by
  simp only [State.makeRequest]
  cases s.journal.hasBank <;> rfl

/-- A layout that passes sets the provisioning state where it was unset and is placed (12 R175). -/
theorem provisionLayout_of_fit {s : State} {body : Bytes} (hands : s.hands .provisionLayout body)
    (free : s.journal.freeFor .engine) (formed : blockFormOk body = true) {l : Layout}
    (parsed : Layout.parse body = some l) (fit : s.acceptLayout l = true) :
    let t : State := { s with journal := { s.journal with
      provisioning := some (s.journal.provisioning.getD l.capacity) } }
    s.provisionLayout body = (t.waiting .provisionLayout body).queued (t.makeRequest (.provisionLayout l) true) := by
  intro t
  rw [State.provisionLayout, if_neg (by simpa using formed), parsed, wait_of_hands hands]
  exact (if_pos fit).trans (place_free (s := t.waiting .provisionLayout body) (p := .provisionLayout l) free)

/-! ### PROVISION AUTHORITY -/

/-- PROVISION AUTHORITY is tested in order, and past the last test its key is placed (12 R176). -/
theorem provisionAuthority_of_hands {s : State} {body : Bytes} (hands : s.hands .provisionAuthority body)
    (free : s.journal.freeFor .engine) : s.provisionAuthority body =
      if body.length ≠ 64 ∨ onCurve (pairAt body 0) = false then s.posted 0x10 []
      else if s.layoutNow = none then s.posted 0x16 []
      else if s.anchor.authorityHash ≠ 0 then s.posted 0x22 []
      else (s.waiting .provisionAuthority body).queued
        (s.makeRequest (.provisionAuthority (pairAt body 0)) true) := by
  have refused (r : Result) : s.refuse r = s.posted r.code [] := refuse_of_hands hands (by decide) r
  have placed : s.wait.place (.provisionAuthority (pairAt body 0)) true =
    (s.waiting .provisionAuthority body).queued (s.makeRequest (.provisionAuthority (pairAt body 0)) true) :=
    wait_place_free hands free
  have malformed : (!(decide (body.length = 64) && onCurve (pairAt body 0))) = true ↔
      body.length ≠ 64 ∨ onCurve (pairAt body 0) = false := by
    simp
  simp only [State.provisionAuthority, malformed, State.stored, currentLayout_eq, Option.isNone_iff_eq_none, refused,
    placed]
  rfl

/-! ### PROVISION BANK -/

/-- What the record of PROVISION BANK has of its body and of the layout, and what it starts with (12 R177). -/
theorem provisionedRecord_fields {l : Layout} {body : Bytes} {r : BankRecord} (given : provisionedRecord l body = some r) :
    r.trialPending = false ∧ r.attempts = 0 ∧ r.trialLayout = false ∧ r.raiseFloor = false ∧ r.outcome = .none ∧
      r.floor = word32At body 1 ∧ r.layoutDigest = sha256 l.block ∧
      r.recoveryDigest = digestAt body (15 + 72 * l.banked.length) := by
  simp only [provisionedRecord, Option.bind_eq_bind, Option.bind_eq_some_iff, Option.pure_def, Option.some.injEq] at given
  obtain ⟨active, -, bankA, -, bankB, -, rfl⟩ := given
  exact ⟨rfl, rfl, rfl, rfl, rfl, rfl, rfl, rfl⟩

/-- A bank is GOOD, or EMPTY with nothing in it, and each image is within its region (12 R177 (2)). -/
theorem provisionOk_iff (i : BankInfo) (l : Layout) : i.provisionOk l = true ↔
    (i.state = .good ∨ (i.state = .empty ∧ i.version = 0 ∧ ∀ x ∈ i.images, x.length = 0 ∧ x.digest = 0)) ∧
      ∀ x ∈ i.images.zip l.banked, ∃ g, l.region? x.2 = some g ∧ x.1.length ≤ g.length := by
  simp only [BankInfo.provisionOk, Bool.and_eq_true, Bool.or_eq_true, beq_iff_eq, List.all_eq_true, and_assoc]
  refine and_congr_right fun _ => forall₂_congr fun x _ => ?_
  cases l.region? x.2 <;> simp

/-- Without a layout stored PROVISION BANK is refused (12 R177). -/
theorem provisionBank_of_none {s : State} {body : Bytes} (hands : s.hands .provisionBank body)
    (none : s.layoutNow = none) : s.provisionBank body = s.posted 0x16 [] := by
  rw [State.provisionBank, State.stored, currentLayout_eq, none]
  exact refuse_of_hands hands (by decide) .notFound

section
variable {s : State} {body : Bytes} (hands : s.hands .provisionBank body) {l : Layout} (stored : s.layoutNow = some l)
include hands stored

/-- A body of another length than the layout's BANKED regions give is refused (12 R177 (1)). -/
theorem provisionBank_of_length (length : body.length ≠ 47 + 72 * l.banked.length) :
    s.provisionBank body = s.posted 0x10 [] := by
  rw [State.provisionBank, State.stored, currentLayout_eq, stored]
  exact (if_neg length).trans (refuse_of_hands hands (by decide) .malformed)

variable (length : body.length = 47 + 72 * l.banked.length)
include length

/-- A body that holds no bank record is refused (12 R177 (1)). -/
theorem provisionBank_of_unreadable (unreadable : provisionedRecord l body = none) :
    s.provisionBank body = s.posted 0x10 [] := by
  rw [State.provisionBank, State.stored, currentLayout_eq, stored]
  refine (if_pos length).trans ?_
  rw [unreadable]
  exact refuse_of_hands hands (by decide) .malformed

/-- A bank record is tested in order, and past the last test it is placed with its floor raise (12 R177). -/
theorem provisionBank_of_record (free : s.journal.freeFor .engine) {r : BankRecord}
    (record : provisionedRecord l body = some r) : s.provisionBank body =
      if ¬(r.bankA.provisionOk l = true ∧ r.bankB.provisionOk l = true ∧ (r.bank r.active).state = .good) then
        s.posted 0x10 []
      else if ¬(s.anchor.floor.toNat ≤ r.floor.toNat ∧ r.floor.toNat ≤ (r.bank r.active).version.toNat) then
        s.posted 0x1B []
      else (s.waiting .provisionBank body).queued (s.makeRequest (.provisionBank r) true) := by
  have refused (r : Result) : s.refuse r = s.posted r.code [] := refuse_of_hands hands (by decide) r
  have placed : s.wait.place (.provisionBank r) true =
    (s.waiting .provisionBank body).queued (s.makeRequest (.provisionBank r) true) := wait_place_free hands free
  have unready (a b c : Bool) : (!(a && b && c)) = true ↔ ¬(a = true ∧ b = true ∧ c = true) := by
    rw [Bool.not_eq_true', ← Bool.not_eq_true, Bool.and_eq_true, Bool.and_eq_true, and_assoc]
  have low (a b c : Nat) : b < a ∨ c < b ↔ ¬(a ≤ b ∧ b ≤ c) := by omega
  rw [State.provisionBank, State.stored, currentLayout_eq, stored]
  refine (if_pos length).trans ?_
  simp only [record, unready, beq_iff_eq, low, refused, placed]
  rfl

end

end Sys2Proof.Machine

open Sys2Proof Sys2Proof.Machine

/-- Settles O59: the form of each body first, then the tests of each command in its order. -/
theorem provisionCommandsPlaceTheirRequest : Obligations.ProvisionCommandsPlaceTheirRequest := by
  intro s body free stored bank
  refine ⟨fun hands => ?layout, fun hands => ?authority, fun hands => ⟨fun none => ?unstored, fun l stored => ?bank⟩⟩
  case layout =>
    intro formed live fits
    have run : exec .provisionLayout s = .next (s.provisionLayout body) :=
      congrArg Host.Outcome.next (take_of_hands hands _)
    have fits_iff (l : Layout) : s.acceptLayout l = true ↔ fits l := acceptLayout_iff s l
    refine ⟨fun wrong => ?_, fun form unfit => ?_, fun l form parsed fit => ?_⟩
    · rw [run, provisionLayout_of_malformed hands (mt (blockFormOk_iff body).1 wrong)]
    · rw [run, provisionLayout_of_unfit hands ((blockFormOk_iff body).2 form)
        fun l parsed => mt (fits_iff l).1 (unfit l parsed)]
    · rw [run, provisionLayout_of_fit hands free ((blockFormOk_iff body).2 form) parsed ((fits_iff l).2 fit),
        makeRequest_provisionLayout]
      rfl
  case authority =>
    have taken : s.take .provisionAuthority s.provisionAuthority = s.provisionAuthority body := take_of_hands hands _
    exact congrArg Host.Outcome.next (taken.trans (provisionAuthority_of_hands hands free))
  case unstored =>
    have taken : s.take .provisionBank s.provisionBank = s.provisionBank body := take_of_hands hands _
    exact congrArg Host.Outcome.next (taken.trans (provisionBank_of_none hands none))
  case bank =>
    have run : exec .provisionBank s = .next (s.provisionBank body) := congrArg Host.Outcome.next (take_of_hands hands _)
    refine ⟨fun other => ?_, fun length => ⟨fun unreadable => ?_, fun r record => ?_⟩⟩
    · rw [run, provisionBank_of_length hands stored other]
    · rw [run, provisionBank_of_unreadable hands stored length unreadable]
    · intro sound ready floors
      obtain ⟨pending, attempts, trialLayout, raiseFloor, outcome, floor, layoutDigest, recoveryDigest⟩ :=
        provisionedRecord_fields record
      have ready_iff : (r.bankA.provisionOk l = true ∧ r.bankB.provisionOk l = true ∧
          (r.bank r.active).state = .good) ↔ ready :=
        and_congr (provisionOk_iff _ l) (and_congr_left fun _ => provisionOk_iff _ l)
      have tests := provisionBank_of_record hands stored length free record
      refine ⟨pending, attempts, trialLayout, raiseFloor, outcome, floor, layoutDigest, recoveryDigest,
        fun unready => ?_, fun good low => ?_, fun good high => ?_⟩
      · rw [run, tests, if_pos (mt ready_iff.1 unready)]
      · rw [run, tests, if_neg (not_not.2 (ready_iff.2 good)), if_pos low]
      · rw [run, tests, if_neg (not_not.2 (ready_iff.2 good)), if_neg (not_not.2 high)]
        rfl

end

section
namespace Sys2Proof.Machine

/-! ### PROVISION FINISH -/

/-- No BANK object is live exactly when the index names none (12 R178). -/
theorem not_hasBank_iff (j : Journal) : (!j.hasBank) = true ↔ j.index.all (fun x => x.kind != .bank) = true := by
  simp [Journal.hasBank]

/-- PROVISION FINISH is tested in order; past the last test FIELD is being written (12 R178). -/
theorem provisionFinish_of_hands {s : State} {body : Bytes} (hands : s.hands .provisionFinish body) :
    s.provisionFinish body =
      if body ≠ [] then s.posted 0x10 []
      else if s.layoutNow = none ∨ s.keys.authority = none ∨ s.journal.index.all (fun x => x.kind != .bank) = true then
        s.posted 0x16 []
      else if s.journal.state ≠ .ready then s.posted 0x21 []
      else { s.waiting .provisionFinish body with anchor := { s.anchor with writes := s.anchor.writes ++ [.field] } } := by
  have refused (r : Result) : s.refuse r = s.posted r.code [] := refuse_of_hands hands (by decide) r
  simp only [State.provisionFinish, State.stored, currentLayout_eq, Bool.or_eq_true, Option.isNone_iff_eq_none,
    not_hasBank_iff, or_assoc, refused, wait_of_hands hands]
  rfl

/-! ### Writes to anchor memory -/

/-- The write of FIELD completes: the life cycle is FIELD, and the command that waits is answered (12 R178). -/
theorem anchorWritten_of_field {s : State} {rest : List AnchorWrite} (writes : s.anchor.writes = .field :: rest) :
    s.anchorWritten =
      State.finishProvisioning { s with anchor := { s.anchor with lifeCycle := .field, writes := rest } } := by
  rw [State.anchorWritten, writes]

/-- The command that waits for FIELD is answered OK (12 R178). -/
theorem finishProvisioning_of_taken {s : State} {body : Bytes}
    (taken : s.window.command = some { command := .provisionFinish, body := body, taken := true }) :
    s.finishProvisioning = s.posted 0 [] := by
  simp only [State.finishProvisioning, taken, and_self, if_true]
  exact finish_eq_posted taken (show Command.provisionFinish ≠ .events by decide) .ok []

/-- With no command in the engine none is answered. -/
theorem finishProvisioning_of_none {s : State} (none : s.window.command = none) : s.finishProvisioning = s := by
  rw [State.finishProvisioning, none]

/-- The state past the oldest writes to anchor memory, those of a request (06 R91). -/
def State.pastWrites (s : State) (floor : Option Word32) (hash : Option Digest) (rest : List AnchorWrite) : State :=
  { s with anchor := { s.anchor with writes := rest }.written floor hash }

/-- The writes of a request complete; a request in progress that waits for them is then answered OK (06 R91). -/
theorem anchorWritten_of_waiting {s : State} {floor : Option Word32} {hash : Option Digest} {rest : List AnchorWrite}
    (writes : s.anchor.writes = .request floor hash :: rest) {job : Job} (found : s.journal.job = some job)
    (waits : job.step = .anchorWriting) : s.anchorWritten = (s.pastWrites floor hash rest).passRequest job := by
  rw [State.anchorWritten, writes]
  simp only [found, if_pos waits]
  rfl

/-- Where no request waits for them the writes alone are done (06 R91). -/
theorem anchorWritten_of_unawaited {s : State} {floor : Option Word32} {hash : Option Digest} {rest : List AnchorWrite}
    (writes : s.anchor.writes = .request floor hash :: rest)
    (unawaited : ∀ job, s.journal.job = some job → job.step ≠ .anchorWriting) :
    s.anchorWritten = s.pastWrites floor hash rest := by
  rw [State.anchorWritten, writes]
  cases found : s.journal.job with
  | none => rfl
  | some job => exact if_neg (unawaited job found)

/-- A request answered OK leaves anchor memory, the halt count aside (06 R91). -/
theorem passRequest_anchor (s : State) (job : Job) :
    (s.passRequest job).anchor.floor = s.anchor.floor ∧
      (s.passRequest job).anchor.authorityHash = s.anchor.authorityHash ∧
      (s.passRequest job).anchor.lifeCycle = s.anchor.lifeCycle ∧
      (s.passRequest job).anchor.generation = s.anchor.generation := by
  have stands : StandsBehind { s with journal := { s.journal with job := none } } (s.passRequest job) :=
    answered_stands _ job.request
  rw [stands.anchor]
  exact ⟨rfl, rfl, rfl, rfl⟩

end Sys2Proof.Machine

open Sys2Proof Sys2Proof.Machine

/-- Settles O60: the tests of the command, then the completion of each kind of anchor memory write. -/
theorem provisionFinishWritesField : Obligations.ProvisionFinishWritesField := by
  refine ⟨fun s body hands => ?finish, fun s rest powered writes => ?field,
    fun s floor hash rest powered writes => ?request⟩
  case finish =>
    have taken : s.take .provisionFinish s.provisionFinish = s.provisionFinish body := take_of_hands hands _
    exact congrArg Host.Outcome.next (taken.trans (provisionFinish_of_hands hands))
  case field =>
    intro t
    have run : exec .anchorMemoryWriteComplete s = .next t.finishProvisioning :=
      congrArg Host.Outcome.next ((if_pos powered).trans (anchorWritten_of_field writes))
    exact ⟨fun body taken => run.trans (congrArg _ (finishProvisioning_of_taken (s := t) taken)),
      fun none => run.trans (congrArg _ (finishProvisioning_of_none (s := t) none))⟩
  case request =>
    have run : exec .anchorMemoryWriteComplete s = .next s.anchorWritten := congrArg Host.Outcome.next (if_pos powered)
    refine ⟨s.anchorWritten, run, ?_⟩
    by_cases waiting : ∃ job, s.journal.job = some job ∧ job.step = .anchorWriting
    · obtain ⟨job, found, waits⟩ := waiting
      rw [anchorWritten_of_waiting writes found waits]
      obtain ⟨floors, hashes, lifeCycle, generation⟩ := passRequest_anchor (s.pastWrites floor hash rest) job
      refine ⟨floors.trans (by cases floor <;> rfl), hashes.trans (by cases hash <;> rfl), lifeCycle, generation,
        fun other same _ => ?_⟩
      obtain rfl : job = other := Option.some.inj (found.symm.trans same)
      rw [floors, hashes]
      exact answerStore_ok { s.pastWrites floor hash rest with journal := { s.journal with job := none } } job.request
    · rw [anchorWritten_of_unawaited writes fun job found waits => waiting ⟨job, found, waits⟩]
      refine ⟨by cases floor <;> rfl, by cases hash <;> rfl, rfl, rfl, fun job found waits => ?_⟩
      exact absurd ⟨job, found, waits⟩ waiting

end

section
namespace Sys2Proof.Machine

/-! ### What the engine and the capacities speak of -/

/-- The engine with whether a command is in progress, the violation ring and the measurement log
(03 R45 ~ R47, 02 R37, 05 R68). -/
structure Watched where
  running : Bool
  engine : EngineState
  ring : List Violation
  log : List LogEntry

def State.watched (s : State) : Watched :=
  ⟨s.window.command.isSome, s.window.engine, s.checker.ring, s.measure.log⟩

/-- BUSY exactly while a command is in progress (03 R45 ~ R47). -/
def Watched.engineSafe (v : Watched) : Prop := v.running = true ↔ v.engine = .busy

/-- Ring and log within their capacities (02 R37, 05 R68). -/
def Watched.capacitiesSafe (v : Watched) : Prop := v.ring.length ≤ 16 ∧ v.log.length ≤ logCapacity

theorem engineSafe_iff (s : State) : s.engineSafe ↔ s.watched.engineSafe := Iff.rfl

theorem capacitiesSafe_iff (s : State) : s.capacitiesSafe ↔ s.watched.capacitiesSafe := Iff.rfl

/-- What a change keeps of them: each of the two where it held before. -/
structure Watched.Kept (v w : Watched) : Prop where
  engine : v.engineSafe → w.engineSafe
  capacities : v.capacitiesSafe → w.capacitiesSafe

namespace Watched.Kept

theorem refl (v : Watched) : v.Kept v := ⟨id, id⟩

theorem trans {u v w : Watched} (first : u.Kept v) (second : v.Kept w) : u.Kept w :=
  ⟨second.engine ∘ first.engine, second.capacities ∘ first.capacities⟩

theorem of_eq {v w : Watched} (same : w = v) : v.Kept w := same ▸ .refl v

/-- An engine that is done, no command in progress, with ring and log as they were (03 R47). -/
theorem of_done (v : Watched) : v.Kept { v with running := false, engine := .done } :=
  ⟨fun _ => ⟨nofun, nofun⟩, id⟩

/-- What each of several changes keeps they all keep. -/
theorem foldl {α : Type} {change : State → α → State}
    (each : ∀ (u : State) x, u.watched.Kept (change u x).watched) (xs : List α) (s : State) :
    s.watched.Kept (xs.foldl change s).watched := by
  induction xs generalizing s with
  | nil => exact .refl _
  | cons x rest ih => exact (each s x).trans (ih _)

/-- A command that left what is watched as it was, or completed. -/
theorem of_outcome {v w : Watched}
    (outcome : w = v ∨ w = { v with running := false, engine := .done }) : v.Kept w := by
  rcases outcome with same | done
  · exact .of_eq same
  · exact done ▸ .of_done v

end Watched.Kept

/-- The Response Unit reaches none of them (11 R170). -/
theorem ResponseOnly.watched {s t : State} (only : ResponseOnly s t) : t.watched = s.watched := by
  rw [State.watched, only.window, only.checker, only.measure]
  rfl

theorem ResponseOnly.watchedKept {s t : State} (only : ResponseOnly s t) : s.watched.Kept t.watched :=
  .of_eq only.watched

theorem place_watched (s : State) (p : Purpose) (live : Bool) : (s.place p live).watched = s.watched :=
  (place_only s p live).watched

@[simp] theorem place_window (s : State) (p : Purpose) (live : Bool) : (s.place p live).window = s.window := by
  obtain ⟨queue, held, placed⟩ := place_eq s p live
  exact placed ▸ rfl

@[simp] theorem place_checker (s : State) (p : Purpose) (live : Bool) : (s.place p live).checker = s.checker := by
  obtain ⟨queue, held, placed⟩ := place_eq s p live
  exact placed ▸ rfl

@[simp] theorem place_measure (s : State) (p : Purpose) (live : Bool) : (s.place p live).measure = s.measure := by
  obtain ⟨queue, held, placed⟩ := place_eq s p live
  exact placed ▸ rfl

@[simp] theorem complete_command (w : Window) (r : Result) (body : Bytes) : (w.complete r body).command = none := by
  simp only [Window.complete]
  split <;> split <;> rfl

@[simp] theorem complete_engine (w : Window) (r : Result) (body : Bytes) : (w.complete r body).engine = .done := by
  simp only [Window.complete]
  split <;> split <;> rfl

/-- A completion leaves the engine done with no command in progress (03 R47). -/
theorem finish_watched (s : State) (r : Result) (body : Bytes) :
    (s.finish r body).watched = { s.watched with running := false, engine := .done } := by
  obtain ⟨done, -, -, none, -⟩ := finish_window s r body
  simp only [State.watched, done, none]
  rfl

/-- A command that waits stays in progress (03 R47). -/
theorem wait_watched (s : State) : s.wait.watched = s.watched := by
  simp [State.watched]

theorem finish_watchedKept (s : State) (r : Result) (body : Bytes) : s.watched.Kept (s.finish r body).watched :=
  finish_watched s r body ▸ .of_done _

theorem finishIf_watchedKept (s : State) (live : Bool) (r : Result) (body : Bytes) :
    s.watched.Kept (s.finishIf live r body).watched := by
  cases live
  · exact .refl _
  · exact finish_watchedKept s r body

/-- The log takes an entry only below its capacity (05 R68). -/
theorem extend_watchedKept (s : State) (n : Nat) (kind : ExtendKind) (index stage : Nat) (d : Digest) :
    s.watched.Kept (s.extend n kind index stage d).watched := by
  refine ⟨id, fun ⟨ring, log⟩ => ⟨ring, ?_⟩⟩
  show List.length (if s.measure.log.length < logCapacity then _ else s.measure.log) ≤ logCapacity
  split
  · rename_i below
    rw [List.length_append]
    exact below
  · exact log

/-- The ring with a record more is within its capacity: full, it loses its oldest (02 R37). -/
theorem pushViolation_length {ring : List Violation} (within : ring.length ≤ 16) (v : Violation) :
    (pushViolation ring v).length ≤ 16 := by
  rw [pushViolation]
  split
  · simp only [List.length_append, List.length_singleton]
    omega
  · simp only [List.length_append, List.length_drop, List.length_singleton]
    omega

/-- A violation recorded (02 R36). -/
theorem violate_watchedKept (s : State) (kind : ViolationKind) (cls : OpClass) (p : Nat) (region : Option Nat) :
    s.watched.Kept (s.violate kind cls p region).watched := by
  refine Watched.Kept.trans ?_ (violate_only s kind cls p region).watchedKept
  exact ⟨id, fun ⟨ring, log⟩ => ⟨pushViolation_length ring _, log⟩⟩

/-! ### The boot check -/

theorem mismatch_watched (s : State) : s.mismatch.watched = s.watched :=
  (offerChange_only { s with measure := { s.measure with mismatches := bump s.measure.mismatches } } _ _ _).watched

theorem takeDigest_watchedKept (s : State) (r : Region) (n : Nat) (kind : ExtendKind) (stage : Nat) (d : Digest) :
    s.watched.Kept (s.takeDigest r n kind stage d).watched := by
  let taken : State := { s with measure := { s.measure with current := none } }
  have extended : s.watched.Kept (taken.extend n kind r.index stage d).watched :=
    extend_watchedKept taken n kind r.index stage d
  simp only [State.takeDigest]
  split
  · exact extended.trans (.of_eq (mismatch_watched _))
  · exact extended

theorem recoveryDone_watchedKept (s : State) (r : Region) (d : Digest) :
    s.watched.Kept (s.recoveryDone r d).watched := by
  simp only [State.recoveryDone]
  split <;> exact takeDigest_watchedKept s _ _ _ _ _

theorem checkOutcome_watchedKept (s : State) : s.watched.Kept s.checkOutcome.watched := by
  rw [State.checkOutcome]
  split
  · rw [State.measureRecovery]
    split
    · exact .of_eq (mismatch_watched s)
    · split
      · exact recoveryDone_watchedKept (s.freeze _) _ _
      · exact .refl _
  · exact .refl _

theorem containBoot_watchedKept (s : State) : s.watched.Kept s.containBoot.watched :=
  (contain_only s .bootMismatch).watchedKept.trans (checkOutcome_watchedKept _)

theorem passEnd_watchedKept (s : State) (p : Pass) : s.watched.Kept (s.passEnd p).watched := by
  rw [State.passEnd]
  split
  · exact checkOutcome_watchedKept s.passPassed
  · split
    · exact .of_eq (place_watched { s with rst := { s.rst with check := .waitFallback } } _ _)
    · exact containBoot_watchedKept s

theorem passRun_watchedKept (todo : List Nat) (s : State) (p : Pass) : s.watched.Kept (s.passRun p todo).watched := by
  induction todo generalizing s p with
  | nil => exact passEnd_watchedKept s _
  | cons i rest ih =>
    rw [State.passRun]
    split
    · exact ih s _
    · split
      · exact (takeDigest_watchedKept (s.freeze i) _ _ _ _ _).trans (ih _ _)
      · exact .refl _

/-- A bank presented and a layout in force (09 R152, 11 R169). -/
theorem present_watched (s : State) (bank : Bank) (trial : Bool) (l : Option Layout) (source : LayoutSource) :
    (s.present bank trial l source).watched = s.watched :=
  (installLayout_only { s with update := { s.update with presented := bank, trialBoot := trial } } l source).watched

theorem decideBoot_watchedKept (s : State) : s.watched.Kept s.decideBoot.watched := by
  let opened : State := { s with checker := { s.checker with openMapping := !s.isField } }
  simp only [State.decideBoot]
  split
  · split
    · exact .of_eq (place_watched { opened with rst := { s.rst with check := .waitEntry } } _ _)
    · exact (Watched.Kept.of_eq (present_watched opened _ _ _ _)).trans (passRun_watchedKept _ _ _)
  · exact .of_eq (present_watched opened _ _ _ _)

theorem proceedCheck_watchedKept (s : State) : s.watched.Kept s.proceedCheck.watched := by
  rw [State.proceedCheck]
  split
  · exact decideBoot_watchedKept s
  · exact .refl _

/-- An entry into CHECK empties the log (04 R58, 05 R68). -/
theorem enterCheck_watchedKept (s : State) : s.watched.Kept s.enterCheck.watched := by
  refine Watched.Kept.trans ?_ (proceedCheck_watchedKept _)
  exact ⟨id, fun ⟨ring, _⟩ => ⟨ring, Nat.zero_le _⟩⟩

theorem endPulse_watchedKept (s : State) : s.watched.Kept s.endPulse.watched := by
  rw [State.endPulse]
  split
  · exact enterCheck_watchedKept s
  · exact .refl _

/-! ### The SoC reset -/

/-- The assertion of SOC_RST leaves the engine idle with no command in progress (03 R48); ring and log stay. -/
theorem assertReset_watchedKept (s : State) : s.watched.Kept s.assertReset.watched := by
  have done := assertReset_done s
  have after : s.assertReset.watched = { s.watched with running := false, engine := .idle } := by
    rw [State.watched, done.window, done.ring, done.measure]
    rfl
  exact after ▸ ⟨fun _ => ⟨nofun, nofun⟩, id⟩

theorem startPulse_watchedKept (s : State) (c : ResetCause) : s.watched.Kept (s.startPulse c).watched :=
  assertReset_watchedKept (s.recordCause c)

theorem requestAsserted_watchedKept (s : State) : s.watched.Kept s.requestAsserted.watched := by
  rw [State.requestAsserted]
  split
  · exact .refl _
  · exact assertReset_watchedKept s
  all_goals exact .refl _

theorem ownerReset_watchedKept (s : State) : s.watched.Kept s.ownerReset.watched := by
  let recorded := State.recordCause { s with rst := { s.rst with hold := none } } .ownerReset
  have asked : s.watched.Kept
      (if s.isField then (recorded.place .ownerEpoch false).clearGrant else recorded).watched := by
    split
    · exact .of_eq (place_watched recorded _ _)
    · exact .refl _
  simp only [State.ownerReset]
  split
  · exact asked.trans (assertReset_watchedKept _)
  all_goals exact asked

/-- At power-on no command is in progress and nothing is recorded (04 R57). -/
theorem powerOn_watchedKept (s : State) : s.watched.Kept s.powerOn.watched :=
  ⟨fun _ => ⟨nofun, nofun⟩, fun _ => ⟨Nat.zero_le _, Nat.zero_le _⟩⟩

end Sys2Proof.Machine
end

section
namespace Sys2Proof.Machine

/-! ### Answers keep the engine and the capacities -/

theorem offerCount_watched (s : State) (id : Nat) (before after : Byte) :
    (s.offerCount id before after).watched = s.watched := by
  rw [State.offerCount]
  split
  · rfl
  · exact (offer_only s _ _ _).watched

theorem startDecay_watched (s : State) (id : Nat) : (s.startDecay id).watched = s.watched := by
  rw [State.startDecay]
  repeat' split
  all_goals rfl

theorem startDelay_watched (s : State) (id : Nat) : (s.startDelay id).watched = s.watched := by
  simp only [State.startDelay]
  repeat' split
  all_goals first | rfl | exact startDecay_watched s id

theorem recordSet_watched (s : State) (id : Nat) (r : Option CredRecord) : (s.recordSet id r).watched = s.watched := by
  simp only [State.recordSet]
  split <;> rfl

theorem removeCred_watched (s : State) (id : Nat) : (s.removeCred id).watched = s.watched :=
  removeCred_eq s id ▸ recordSet_watched s id none

theorem countFallback_watched (s : State) : s.countFallback.watched = s.watched :=
  (offerChange_only { s with update := { s.update with fallbacks := bump s.update.fallbacks } } _ _ _).watched

theorem answered_watchedKept (s : State) (live : Bool) (r : Result) (body : Bytes) :
    s.watched.Kept (s.answered live r.code body).watched :=
  finishIf_eq_answered s live r body ▸ finishIf_watchedKept s live r body

theorem credStored_watchedKept (s : State) (live : Bool) (id : Nat) (c : Credential) (epoch : Word32) :
    s.watched.Kept (s.credStored live id c epoch).watched := by
  simp only [credStored_eq]
  split
  · exact (Watched.Kept.of_eq (recordSet_watched s _ _)).trans (answered_watchedKept (s.recordSet _ _) live .ok _)
  · exact answered_watchedKept s live .ok _

theorem countWritten_watchedKept (s : State) (live : Bool) (id : Nat) (count : Byte) (epoch : Word32)
    (candidate : Bytes) : s.watched.Kept (s.countWritten live id count epoch candidate).watched := by
  simp only [State.countWritten]
  split
  · exact finishIf_watchedKept s _ _ _
  · rename_i r v _
    have offered := Watched.Kept.of_eq
      (offerCount_watched (s.putCred id (some { r with count := count })) id r.count count)
    split
    · exact offered.trans (.of_eq (place_watched _ _ _))
    · exact (offered.trans (.of_eq (startDelay_watched _ id))).trans (finishIf_watchedKept _ _ _ _)

theorem matchWritten_watchedKept (s : State) (live : Bool) (id : Nat) (epoch : Word32) :
    s.watched.Kept (s.matchWritten live id epoch).watched := by
  simp only [State.matchWritten, offerCount_to_zero]
  split
  · exact finishIf_watchedKept s _ _ _
  · refine Watched.Kept.trans (.of_eq ?_) (finishIf_watchedKept _ _ _ _)
    rw [State.matchGrant]
    split <;> rfl

theorem trialDecided_watchedKept (s : State) (live ok attempt : Bool) :
    s.watched.Kept (s.trialDecided live ok attempt).watched := by
  have presented : (if (ok && attempt) = true then s.presentTrial else s.presentActive).watched = s.watched := by
    simp only [State.presentTrial, State.presentActive]
    repeat' split
    all_goals exact present_watched s _ _ _ _
  have counted (u : State) : (if (ok && !attempt) = true then u.countFallback else u).watched = u.watched := by
    split
    · exact countFallback_watched u
    · rfl
  simp only [State.trialDecided]
  split
  · exact (Watched.Kept.of_eq ((counted _).trans presented)).trans (passRun_watchedKept _ _ _)
  · exact .of_eq (counted s)

theorem fellBack_watchedKept (s : State) (live ok trial : Bool) (bank : Bank) :
    s.watched.Kept (s.fellBack live ok trial bank).watched := by
  simp only [State.fellBack]
  cases ok with
  | false =>
    simp only [Bool.false_eq_true, if_false]
    split
    · exact containBoot_watchedKept s
    · exact .refl _
  | true =>
    simp only [if_true]
    cases live && s.rst.check == .waitFallback <;> cases trial <;> simp only [Bool.false_eq_true, if_true, if_false]
    · exact .refl _
    · exact .of_eq (countFallback_watched s)
    · exact passRun_watchedKept _ { s with update := { s.update with presented := bank } } _
    · exact (Watched.Kept.of_eq ((countFallback_watched _).trans (present_watched s _ _ _ _))).trans
        (passRun_watchedKept _ _ _)

/-- The answer OK: the command that waits completes, and a check that waits goes on (06 R90). -/
theorem answeredOk_watchedKept (s before : State) (q : StoreRequest) :
    s.watched.Kept (s.answeredOk before q).watched := by
  simp only [State.answeredOk]
  cases q.purpose with
  | credCount id count epoch candidate => exact countWritten_watchedKept s _ _ _ _ _
  | credMatch id epoch => exact matchWritten_watchedKept s _ _ _
  | credStore id c epoch => exact credStored_watchedKept s _ _ _ _
  | credErase id epoch => exact (Watched.Kept.of_eq (removeCred_watched s id)).trans (finishIf_watchedKept _ _ _ _)
  | responseErase id epoch => exact .of_eq (removeCred_watched s id)
  | trialAttempt => exact trialDecided_watchedKept s _ _ _
  | trialTimeout => exact trialDecided_watchedKept s _ _ _
  | bootFallback => exact fellBack_watchedKept s _ _ _ _
  | keyCreate n k =>
    refine Watched.Kept.trans (.of_eq ?_) (finishIf_watchedKept _ _ _ _)
    split <;> rfl
  | updateOpen m =>
    simp only [State.opened]
    split
    · exact finish_watchedKept { s with update := { s.update with session := .staging m, verification := .none } } _ _
    · exact .refl _
  | sessionAbandon => exact .refl _
  | ownerEpoch => exact .refl _
  | updateConfirm =>
    exact finishIf_watchedKept (State.raise { s with update := { s.update with running := false } } .trial) _ _ _
  | keyDestroy n => exact finishIf_watchedKept (s.putKey n none) _ _ _
  | provisionAuthority key => exact finishIf_watchedKept { s with keys := { s.keys with authority := some key } } _ _ _
  | _ => exact finishIf_watchedKept s _ _ _

/-- The answer STORE_FAULT: the command that waits completes, and a check that waits goes on (06 R92). -/
theorem answeredFault_watchedKept (s : State) (q : StoreRequest) : s.watched.Kept (s.answeredFault q).watched := by
  simp only [State.answeredFault]
  have decayed (id : Nat) : s.watched.Kept ((s.startDecay id).finishIf q.live .storeFault []).watched :=
    (Watched.Kept.of_eq (startDecay_watched s id)).trans (finishIf_watchedKept _ _ _ _)
  cases q.purpose with
  | trialAttempt => exact trialDecided_watchedKept s _ _ _
  | trialTimeout => exact trialDecided_watchedKept s _ _ _
  | bootFallback => exact fellBack_watchedKept s _ _ _ _
  | credCount id count epoch candidate => exact decayed id
  | credMatch id epoch => exact decayed id
  | sessionAbandon => exact .refl _
  | ownerEpoch => exact .refl _
  | responseErase id epoch => exact .refl _
  | _ => exact finishIf_watchedKept s _ _ _

/-- What follows an answer (06 R90). -/
theorem afterAnswer_watchedKept (s : State) : s.watched.Kept s.afterAnswer.watched := by
  obtain ⟨queue, held, placed⟩ := pumpRequests_eq s
  rw [State.afterAnswer, placed]
  have erased := (pumpErase_only (s.withRequests queue held)).watchedKept
  exact (erased.trans (proceedCheck_watchedKept _)).trans (endPulse_watchedKept _)

theorem answerStore_watchedKept (s : State) (q : StoreRequest) (ok : Bool) :
    s.watched.Kept (s.answerStore q ok).watched := by
  have taken : (s.takeRecord q).watched = s.watched := by
    rw [State.takeRecord]
    split <;> rfl
  refine Watched.Kept.trans ?_ (afterAnswer_watchedKept _)
  split
  · exact taken ▸ answeredOk_watchedKept (s.takeRecord q) s q
  · exact answeredFault_watchedKept s q

/-! ### The request in progress -/

theorem failRequest_watchedKept (s : State) (job : Job) : s.watched.Kept (s.failRequest job).watched :=
  (contain_only { s with journal := { s.journal with job := none, state := .fault } } .storeFault).watchedKept.trans
    (answerStore_watchedKept _ _ _)

theorem passRequest_watchedKept (s : State) (job : Job) : s.watched.Kept (s.passRequest job).watched :=
  answerStore_watchedKept { s with journal := { s.journal with job := none } } _ _

theorem beginWrite_watched (s : State) (job : Job) (k : WriteKind) (w : Writing) :
    (s.beginWrite job k w).watched = s.watched := by
  rw [State.beginWrite]
  cases splitPages w.bytes.length (s.writingBase w) w.bytes <;> rfl

theorem copyNext_watched (s : State) (job : Job) (todo copied : List IndexRecord) :
    (s.copyNext job todo copied).watched = s.watched := by
  cases todo with
  | nil => exact beginWrite_watched _ _ _ _
  | cons r rest => rfl

/-- The next entry of a request, or what follows its last (06 R91). -/
theorem nextEntry_watchedKept (s : State) (job : Job) : s.watched.Kept (s.nextEntry job).watched := by
  rw [State.nextEntry]
  split
  · simp only [State.entriesDone]
    split
    · exact .refl _
    · exact passRequest_watchedKept s job
  · simp only [State.beginEntry]
    split
    · exact failRequest_watchedKept s job
    · split
      · exact .refl _
      · split
        · exact .of_eq (beginWrite_watched _ _ _ _)
        · exact .refl _

theorem durable_watched (s : State) (e : StoreEntry) (g : Word32) (w : Writing) :
    (s.durable e g w).watched = s.watched := by
  by_cases kind : e.kind = .ownerEpoch
  · rw [(durable_of_ownerEpoch kind s g w).1]
    rfl
  · rw [durable_of_plain kind]
    rfl

theorem writeDone_watchedKept (s : State) (job : Job) (k : WriteKind) (w : Writing) :
    s.watched.Kept (s.writeDone job k w).watched := by
  cases k with
  | entry g =>
    cases todo : job.todo with
    | nil =>
      have last : s.writeDone job (.entry g) w = s.nextEntry job := by
        simp only [State.writeDone, State.entryWritten, State.nextEntry, todo]
      exact last ▸ nextEntry_watchedKept s job
    | cons e rest =>
      rw [State.writeDone, entryWritten_eq todo]
      exact (Watched.Kept.of_eq (durable_watched s e g w)).trans (nextEntry_watchedKept _ _)
  | copy r rest copied => exact .of_eq (copyNext_watched _ _ _ _)
  | checkpoint copied => exact nextEntry_watchedKept (s.checkpointed w copied) job

theorem compactionFailed_watchedKept (s : State) (job : Job) (w : Option Writing) :
    s.watched.Kept (s.compactionFailed job w).watched := by
  simp only [State.compactionFailed]
  split
  · cases w with
    | some w => exact .refl _
    | none => exact failRequest_watchedKept s job
  · exact .refl _

theorem writeFailed_watchedKept (s : State) (job : Job) (k : WriteKind) (w : Writing) :
    s.watched.Kept (s.writeFailed job k w).watched := by
  cases k with
  | entry g => exact .refl _
  | copy r rest copied => exact compactionFailed_watchedKept s job (some w)
  | checkpoint copied => exact compactionFailed_watchedKept s job (some w)

theorem spoilRead_watchedKept (s : State) (job : Job) (w : Writing) (final : Bool) (got : Bytes) :
    s.watched.Kept (s.spoilRead job w final got).watched := by
  rw [State.spoilRead]
  split
  · exact failRequest_watchedKept s job
  · split
    · exact nextEntry_watchedKept { s with journal := { s.journal with appendPoint := w.offset + w.bytes.length } } _
    · exact .refl _

theorem copyRead_watchedKept (s : State) (job : Job) (r : IndexRecord) (rest copied : List IndexRecord) (got : Bytes) :
    s.watched.Kept (s.copyRead job r rest copied got).watched := by
  rw [State.copyRead]
  split
  · exact .of_eq (beginWrite_watched _ _ _ _)
  · exact compactionFailed_watchedKept s job none

/-- A read chunk of the request in progress completes (06 R91 ~ R94). -/
theorem journalChunk_watchedKept (s : State) (bs : Bytes) : s.watched.Kept (s.journalChunk bs).watched := by
  simp only [State.journalChunk]
  split
  · exact .refl _
  · rename_i job _
    split
    · split
      · exact .refl _
      · split
        · exact writeDone_watchedKept s job _ _
        · exact writeFailed_watchedKept s job _ _
    · exact spoilRead_watchedKept s job _ _ bs
    · split
      · exact .refl _
      · exact copyRead_watchedKept s job _ _ _ _
    all_goals exact .refl _

/-- A program or erase of an internal agent completes (01 R13, 06 R91, R93). -/
theorem internalDone_watched (s : State) (r : Requester) (op : FlashOp) (failed : FlashCells) :
    (s.internalDone r op failed).watched = s.watched := by
  have journal (u : State) : u.journalOpDone.watched = u.watched := by
    rw [State.journalOpDone]
    split
    · rfl
    · split
      · rename_i pages _
        cases pages.tail <;> rfl
      · rfl
      · rfl
      · exact copyNext_watched _ _ _ _
      all_goals rfl
  rw [internalDone_eq]
  split
  · exact journal _
  · rfl

/-- The oldest request is taken, or refused (06 R90, R100). -/
theorem takeRequest_watchedKept (s : State) : s.watched.Kept s.takeRequest.watched := by
  have refused (u : State) (q : StoreRequest) : u.watched.Kept ((u.contain .storeFault).answerStore q false).watched :=
    (contain_only u _).watchedKept.trans (answerStore_watchedKept _ _ _)
  rw [State.takeRequest]
  split
  · rename_i q rest _ _
    cases s.journal.state with
    | scanning => exact .refl _
    | ready => exact nextEntry_watchedKept (s.dequeued rest) q.begun
    | stale => exact refused (s.dequeued rest) q
    | fault => exact refused (s.dequeued rest) q
  · exact .refl _

/-- A write to anchor memory completes, and may end its request or PROVISION FINISH (06 R86, R91, 12 R178). -/
theorem anchorWritten_watchedKept (s : State) : s.watched.Kept s.anchorWritten.watched := by
  rw [State.anchorWritten]
  split
  · exact .refl _
  · rw [State.finishProvisioning]
    split
    · split
      · exact finish_watchedKept { s with anchor := _ } _ _
      · exact .refl _
    · exact .refl _
  · rename_i floor hash rest _
    simp only
    split
    · split
      · exact passRequest_watchedKept { s with anchor := Anchor.written { s.anchor with writes := rest } floor hash } _
      · exact .refl _
    · exact .refl _

end Sys2Proof.Machine
end

section
namespace Sys2Proof.Machine

/-! ### Start-up keeps the engine and the capacities -/

theorem startRestored_watchedKept (s : State) : s.watched.Kept s.startRestored.watched := by
  rw [State.startRestored]
  refine Watched.Kept.foldl (fun u id => ?_) _ s
  split
  · split
    · exact .refl _
    · exact .of_eq (startDelay_watched u id)
  · exact .refl _

theorem startupComplete_watchedKept (s : State) (outcome : StoreState) :
    s.watched.Kept (s.startupComplete outcome).watched := by
  have restored := startRestored_watchedKept { s with journal := { s.journal with state := outcome, scan := none } }
  simp only [State.startupComplete]
  revert restored
  generalize State.startRestored { s with journal := { s.journal with state := outcome, scan := none } } = u
  intro restored
  let held : State :=
    { u with rst := { u.rst with hold := if u.lines.ownerClr then some (u.seconds holdSeconds) else none } }
  split
  · exact restored
  · exact restored.trans (enterCheck_watchedKept held)

theorem handNext_watchedKept (s : State) (outcome : StoreState) (todo : List IndexRecord) :
    s.watched.Kept (s.handNext outcome todo).watched := by
  cases todo with
  | nil => exact startupComplete_watchedKept s outcome
  | cons r rest => exact .refl _

/-- What an object brings goes to its owner (06 R99). -/
theorem handOver_watched (s : State) (e : FoundEntry) : (s.handOver e).watched = s.watched := by
  simp only [State.handOver, State.takeBank, State.takeAuthority, State.takeCred, State.takeCount]
  repeat' split
  all_goals rfl

theorem scanned_watchedKept (s : State) (outcome : StoreState) (index : List IndexRecord) :
    s.watched.Kept (s.scanned outcome index).watched := by
  simp only [State.scanned]
  split
  · exact (contain_only s _).watchedKept.trans (handNext_watchedKept _ _ _)
  · exact handNext_watchedKept s _ _

theorem probesFailed_watchedKept (s : State) (f : Option Found) (neither : Bool) :
    s.watched.Kept (s.probesFailed f neither).watched := by
  cases f with
  | some f => exact scanned_watchedKept (s.withFound f) _ _
  | none =>
    simp only [State.probesFailed]
    split <;> exact scanned_watchedKept s _ _

theorem probeSucceeded_watchedKept (s : State) (area : Capacity) (f : Found) :
    s.watched.Kept (s.probeSucceeded area f).watched := by
  let found : State := { s.withFound f with journal := { (s.withFound f).journal with provisioning := some area } }
  simp only [State.probeSucceeded]
  split
  · exact scanned_watchedKept found _ _
  · split
    · exact scanned_watchedKept { found with anchor := { found.anchor with generation := f.newest } } _ _
    · exact scanned_watchedKept found _ _

theorem areaRead_watchedKept (s : State) (area : Capacity) (half0 half1 : Memory) :
    s.watched.Kept (s.areaRead area half0 half1).watched := by
  simp only [State.areaRead]
  split
  · split
    · exact probeSucceeded_watchedKept s _ _
    · split
      · exact .refl _
      · exact probesFailed_watchedKept s _ _
  · split
    · exact .refl _
    · exact probesFailed_watchedKept s _ _

/-- A chunk of the scan completes (06 R96 ~ R99). -/
theorem scanChunk_watchedKept (s : State) (bs : Bytes) : s.watched.Kept (s.scanChunk bs).watched := by
  simp only [State.scanChunk]
  split
  · exact .refl _
  · split
    · exact .refl _
    · exact areaRead_watchedKept s _ _ _
  · exact .refl _
  · split
    · exact .refl _
    · rw [State.handRead]
      split
      · exact (Watched.Kept.of_eq (handOver_watched s _)).trans (handNext_watchedKept _ _ _)
      · exact (contain_only s _).watchedKept.trans (handNext_watchedKept _ _ _)

theorem storeChunk_watchedKept (s : State) (bs : Bytes) : s.watched.Kept (s.storeChunk bs).watched := by
  rw [State.storeChunk]
  split
  · exact scanChunk_watchedKept s bs
  · exact journalChunk_watchedKept s bs

/-! ### Measurement and verification -/

theorem advanceTake_watchedKept (s : State) (r : Region) (d : Digest) :
    s.watched.Kept (s.advanceTake r d).watched := by
  simp only [State.advanceTake]
  split
  · exact (takeDigest_watchedKept s _ _ _ _ _).trans (contain_only _ _).watchedKept
  · exact takeDigest_watchedKept s _ _ _ _ _

/-- An advance whose regions are all done completes (05 R80). -/
theorem advanceRun_watchedKept (todo : List Nat) (s : State) (a : Advance) :
    s.watched.Kept (s.advanceRun a todo).watched := by
  induction todo generalizing s a with
  | nil =>
    exact finish_watchedKept (State.enterStage { s with measure := { s.measure with advance := none } } a.target) _ _
  | cons i rest ih =>
    rw [State.advanceRun]
    split
    · exact ih s _
    · split
      · exact (advanceTake_watchedKept s _ _).trans (ih _ _)
      · exact .refl _

theorem stageAdvance_watchedKept (s : State) (body : Bytes) : s.watched.Kept (s.stageAdvance body).watched := by
  simp only [State.stageAdvance]
  split
  · split
    · exact finish_watchedKept s _ _
    · rw [foldl_freeze_eq]
      have frozen (f : BitVec 16) :
          State.watched { s.wait with checker := { s.wait.checker with freezeSet := f } } = s.watched := wait_watched s
      exact (Watched.Kept.of_eq (frozen _)).trans (advanceRun_watchedKept _ _ _)
  · exact finish_watchedKept s _ _

/-- A region's digest goes to the advance or the boot check (05 R70). -/
theorem regionDone_watchedKept (s : State) (m : Measuring) : s.watched.Kept (s.regionDone m).watched := by
  simp only [State.regionDone]
  split
  · exact .refl _
  · split
    · exact (advanceTake_watchedKept s _ _).trans (advanceRun_watchedKept _ _ _)
    · split
      · exact (takeDigest_watchedKept s _ _ _ _ _).trans (passRun_watchedKept _ _ _)
      · exact recoveryDone_watchedKept s _ _
      · exact .refl _

theorem measureChunk_watchedKept (s : State) (bs : Bytes) : s.watched.Kept (s.measureChunk bs).watched := by
  simp only [State.measureChunk]
  split
  · exact .refl _
  · rename_i m _
    split
    · exact .refl _
    · exact regionDone_watchedKept
        { s with measure := { s.measure with current := some { m with fed := m.fed ++ bs } } } _

/-- The verification ends with VERIFIED or REJECTED and an event (09 R148, R149). -/
theorem verifyRun_watchedKept (targets : List Target) (s : State) (m : Manifest) (hashed : Nat) :
    s.watched.Kept (s.verifyRun m hashed targets).watched := by
  induction targets with
  | nil => exact .refl _
  | cons t rest ih =>
    rw [State.verifyRun]
    split
    · split
      · exact ih
      · exact .refl _
    · exact .refl _

theorem verifyChunk_watchedKept (s : State) (bs : Bytes) : s.watched.Kept (s.verifyChunk bs).watched := by
  simp only [State.verifyChunk]
  split
  · split
    · exact .refl _
    · split
      · exact .refl _
      · split
        · exact verifyRun_watchedKept _ _ _ _
        · exact .refl _
  · exact .refl _

theorem updateVerify_watchedKept (s : State) (body : Bytes) : s.watched.Kept (s.updateVerify body).watched := by
  simp only [State.updateVerify]
  split
  · split
    · refine Watched.Kept.trans ?_ (verifyRun_watchedKept _ _ _ _)
      exact .of_outcome (.inr (finish_watched _ _ _))
    · exact finish_watchedKept s _ _
  · exact finish_watchedKept s _ _

/-! ### The SoC Port -/

theorem readDataByte_watchedKept (s : State) (misread : FlashCells) :
    s.watched.Kept (s.readDataByte misread).watched := by
  rw [State.readDataByte]
  split
  · split
    · split
      · split
        · exact .refl _
        · simp only [State.serveFlash]
          repeat' split
          all_goals exact .refl _
        · simp only [State.serveFill]
          split
          · split
            · exact .refl _
            · exact violate_watchedKept (s.serve _ _ _) _ _ _ _
          · exact .refl _
      · exact .refl _
    · exact .refl _
  · exact .refl _

/-- The header examined: the command completes at once, or is in progress (03 R46). -/
theorem examine_watched (s : State) : s.examine.watched = { s.watched with running := false, engine := .done } ∨
    s.examine.watched = { s.watched with running := true } := by
  simp only [State.examine]
  split
  · exact .inl (finish_watched s _ _)
  · split
    · exact .inl (finish_watched s _ _)
    · split
      · exact .inr rfl
      · exact .inl (finish_watched s _ _)

/-- A submission leaves the engine done with no command, or BUSY with one (03 R45, R46). -/
theorem submit_watchedKept (s : State) : s.watched.Kept s.submit.watched := by
  rw [State.submit]
  split
  · exact .refl _
  · rcases examine_watched { s with window := { s.window with
      engine := .busy, overrun := false, tag := s.window.request.read 1, result := 0xFF, body := [],
      command := none } } with done | handed
    · exact done ▸ ⟨fun _ => ⟨nofun, nofun⟩, id⟩
    · exact handed ▸ ⟨fun _ => ⟨fun _ => rfl, fun _ => rfl⟩, id⟩

theorem handWrite_watched (s : State) (w : SocWrite) : (s.handWrite w).watched = s.watched := by
  rw [State.handWrite]
  split <;> rfl

/-- A PROGRAM in the window leaves the engine as it is (03 R43, R44). -/
theorem windowProgram_watchedKept (s : State) (p : Nat) (page : List (Option Byte)) :
    s.watched.Kept (s.windowProgram p page).watched := by
  by_cases low : p < responseBase
  · by_cases busy : s.window.engine = .busy
    · rw [windowProgram_of_busy low busy]
      exact .refl _
    · rw [windowProgram_of_ready low busy]
      exact .refl _
  · rw [windowProgram_of_response (Nat.not_lt.1 low)]
    exact violate_watchedKept s _ _ _ _

theorem placeProgram_watchedKept (s : State) (e : OpcodeEntry) (p : Nat) (page : List (Option Byte)) :
    s.watched.Kept (s.placeProgram e p page).watched := by
  rw [State.placeProgram]
  split
  · exact windowProgram_watchedKept s _ _
  · exact violate_watchedKept s _ _ _ _
  · exact .of_eq (handWrite_watched s _)

theorem placeErase_watchedKept (s : State) (e : OpcodeEntry) (p size : Nat) :
    s.watched.Kept (s.placeErase e p size).watched := by
  rw [State.placeErase]
  split
  · exact submit_watchedKept s
  · exact violate_watchedKept s _ _ _ _
  · exact .of_eq (handWrite_watched s _)

theorem judgeWrite_watchedKept (s : State) (cls : OpClass) (p : Nat) {act : State → State}
    (kept : ∀ u : State, u.watched.Kept (act u).watched) : s.watched.Kept (s.judgeWrite cls p act).watched := by
  let latched : State := { s with port := { s.port with wel := false } }
  simp only [State.judgeWrite]
  split
  · split
    · exact violate_watchedKept latched _ _ _ _
    · exact kept latched
  · exact .refl _

theorem programTransaction_watchedKept (s : State) (opcode : Byte) (received : Bytes) :
    s.watched.Kept (s.programTransaction opcode received).watched := by
  simp only [State.programTransaction]
  split
  · split
    · exact .refl _
    · exact judgeWrite_watchedKept (s.withDecode _ _) _ _ fun u => placeProgram_watchedKept u _ _ _
  · exact .refl _

theorem eraseTransaction_watchedKept (s : State) (cls : OpClass) (size : Nat) (opcode : Byte) (received : Bytes) :
    s.watched.Kept (s.eraseTransaction cls size opcode received).watched := by
  simp only [State.eraseTransaction]
  split
  · split
    · exact .refl _
    · exact judgeWrite_watchedKept (s.withDecode _ _) _ _ fun u => placeErase_watchedKept u _ _ _
  · exact .refl _

theorem plainTransaction_watchedKept (s : State) (cls : OpClass) (opcode : Byte) (n : Nat) {f : State → State}
    (kept : ∀ u : State, u.watched.Kept (f u).watched) :
    s.watched.Kept (s.plainTransaction cls opcode n f).watched := by
  simp only [State.plainTransaction]
  split
  · exact kept (s.withDecode _ _)
  · exact .refl _

theorem refuseOpcode_watchedKept (s : State) (opcode : Byte) (n : Nat) :
    s.watched.Kept (s.refuseOpcode opcode n).watched := by
  simp only [State.refuseOpcode]
  split
  · split
    · split
      · exact violate_watchedKept (s.withDecode _ _) _ _ _ _
      · split <;> exact .refl _
    · exact .refl _
  · exact .refl _

/-! ### Commands of the control window -/

theorem take_watchedKept {s : State} (c : Command) {f : Bytes → State}
    (kept : ∀ body, s.watched.Kept (f body).watched) : s.watched.Kept (s.take c f).watched := by
  rw [State.take]
  split
  · split
    · exact kept _
    · exact .refl _
  · exact .refl _

theorem whenPowered_watchedKept {s u : State} (kept : s.watched.Kept u.watched) :
    s.watched.Kept (s.whenPowered u).watched := by
  rw [State.whenPowered]
  split
  · exact kept
  · exact .refl _

/-- The Signature Unit completes its operation (07 R106, 08 R123, 09 R144). -/
theorem signatureDone_watchedKept (s : State) (job : SignatureJob) :
    s.watched.Kept (s.signatureDone job).watched := by
  have used (u : State) (n : Nat) (k : KeyRecord) (result : Bytes) :
      u.watched.Kept (u.completeUse n k result).watched := by
    rw [State.completeUse]
    split <;> exact finish_watchedKept u _ _
  cases job with
  | manifest body =>
    simp only [State.signatureDone, State.manifestDone]
    split
    · exact finish_watchedKept s _ _
    · exact .of_eq (place_watched s _ _)
  | attest report => exact finish_watchedKept (s.draw signDraws) _ _
  | sign slot key digest => exact used (s.draw signDraws) _ _ _
  | derive slot key message => exact used s _ _ _
  | createKey slot cls sign mask needsGrant containedOk bind => exact .of_eq (place_watched (s.draw 1) _ _)
  | salt id content value => exact .of_eq (place_watched (s.draw 1) _ _)

theorem resetSoc_watchedKept (s : State) (body : Bytes) : s.watched.Kept (s.resetSoc body).watched := by
  rw [State.resetSoc]
  split
  · split
    · exact startPulse_watchedKept s _
    · exact .refl _
  · exact finish_watchedKept s _ _

/-- The log takes the digest of the SoC (05 R82). -/
theorem measureExtend_watchedKept (s : State) (body : Bytes) : s.watched.Kept (s.measureExtend body).watched := by
  simp only [State.measureExtend]
  split
  · split
    · exact (extend_watchedKept s _ _ _ _ _).trans (finish_watchedKept _ _ _)
    · exact finish_watchedKept s _ _
  · exact finish_watchedKept s _ _

/-! ### Every command -/

/-- Every command keeps BUSY, ring and log as they have to be (03 R45 ~ R47, 02 R37, 05 R68). -/
theorem exec_watchedKept (i : Instr) (s t : State) (run : exec i s = .next t) : s.watched.Kept t.watched := by
  have next {u : State} (kept : s.watched.Kept u.watched) :
      ∀ t, Host.Outcome.next (φ := Fault) (ρ := Refusal) u = .next t → s.watched.Kept t.watched :=
    fun t same => Host.Outcome.next.inj same ▸ kept
  have powered {u : State} (kept : s.watched.Kept u.watched) := next (whenPowered_watchedKept kept)
  have taken {c : Command} {f : Bytes → State} (kept : ∀ body, s.watched.Kept (f body).watched) :=
    next (take_watchedKept c kept)
  revert t run
  cases i with
  | powerOn => exact next (powerOn_watchedKept s)
  | lossOfSupply torn => exact powered (powerOn_watchedKept s)
  | uptimeTick => exact powered (.refl _)
  | transactionStart =>
    refine next ?_
    simp only [State.startTransaction]
    split <;> exact .refl _
  | transactionEnd =>
    refine next ?_
    simp only [State.endTransaction]
    repeat' split
    all_goals exact .refl _
  | suspendComplete =>
    refine powered ?_
    split <;> exact .refl _
  | read opcode received | fastRead opcode received =>
    refine next ?_
    simp only [State.openRead]
    split <;> exact .refl _
  | statusRead opcode n | idRead opcode n =>
    refine next ?_
    simp only [State.answer]
    split <;> exact .refl _
  | readDataByte misread => exact powered (readDataByte_watchedKept s misread)
  | program opcode received => exact next (programTransaction_watchedKept s _ _)
  | erase4k opcode received | erase64k opcode received => exact next (eraseTransaction_watchedKept s _ _ _ _)
  | eraseChip bare =>
    refine next (plainTransaction_watchedKept s _ _ _ fun u => ?_)
    split
    · exact violate_watchedKept { u with port := { u.port with wel := false } } _ _ _ _
    · exact .refl _
  | writeEnable bare | writeDisable bare => exact next (plainTransaction_watchedKept s _ _ _ fun u => .refl _)
  | refusedOpcode opcode n => exact next (refuseOpcode_watchedKept s _ _)
  | internalGrant =>
    refine powered ?_
    repeat' split
    all_goals exact .refl _
  | readChunkComplete misread =>
    refine powered ?_
    split
    · exact measureChunk_watchedKept (s.chunkDone .measure) _
    · split
      · exact verifyChunk_watchedKept (s.chunkDone .update) _
      · rw [State.withdrawnDone]
        split <;> exact .refl _
  | storeReadChunkComplete misread =>
    refine powered ?_
    split
    · exact storeChunk_watchedKept (s.chunkDone .journal) _
    · exact .refl _
  | flashOperationComplete failed =>
    refine powered ?_
    split
    · exact .refl _
    · exact .refl _
    · exact .of_eq (internalDone_watched s _ _ _)
    all_goals exact .refl _
  | storeRequestTaken => exact powered (takeRequest_watchedKept s)
  | signatureUnitComplete =>
    refine powered ?_
    split
    · exact signatureDone_watchedKept { s with signature := none } _
    · exact .refl _
  | anchorMemoryWriteComplete => exact powered (anchorWritten_watchedKept s)
  | rstReqAsserted =>
    refine next ?_
    split
    · exact .refl _
    · let low : State := { s with lines := { s.lines with rstReq := true } }
      exact whenPowered_watchedKept (s := low) (requestAsserted_watchedKept low)
  | rstReqDeasserted =>
    let high : State := { s with lines := { s.lines with rstReq := false } }
    refine next ?_
    split
    · refine whenPowered_watchedKept (s := high) ?_
      split
      · exact enterCheck_watchedKept high
      · exact .refl _
    · exact .refl _
  | pulseEnd =>
    refine powered ?_
    split
    · exact endPulse_watchedKept { s with rst := { s.rst with pulse := none } }
    · exact .refl _
  | ownerClrAsserted =>
    refine next ?_
    split
    · exact .refl _
    · refine whenPowered_watchedKept (s := { s with lines := { s.lines with ownerClr := true } }) ?_
      split <;> exact .refl _
  | ownerClrDeasserted =>
    refine next ?_
    split
    · exact whenPowered_watchedKept (s := { s with lines := { s.lines with ownerClr := false } }) (.refl _)
    · exact .refl _
  | ownerReset =>
    refine powered ?_
    split
    · exact ownerReset_watchedKept s
    · exact .refl _
  | trialTimerExpiry =>
    refine powered ?_
    split
    · exact startPulse_watchedKept s _
    · exact .refl _
  | grantExpiry =>
    refine powered ?_
    split <;> exact .refl _
  | delayExpiry id =>
    refine powered ?_
    repeat' split
    · exact .of_eq (startDecay_watched (s.putCred id _) id)
    all_goals exact .refl _
  | decayExpiry id =>
    refine powered (.of_eq ?_)
    split
    · rename_i r _
      split
      · simp only
        split
        · refine (startDecay_watched _ _).trans ?_
          exact offerCount_watched (s.putCred id (some { r with count := _, decayTimer := none })) _ _ _
        · rfl
      · rfl
    · rfl
  | resetSoc => exact taken (resetSoc_watchedKept s)
  | stageAdvance => exact taken (stageAdvance_watchedKept s)
  | measureExtend => exact taken (measureExtend_watchedKept s)
  | updateVerify => exact taken (updateVerify_watchedKept s)
  | status | keyList | credList | grantDrop | updateStatus | violationRead =>
    exact taken fun body => .of_outcome (.inr (finish_watched _ _ _))
  | _ =>
    -- Each branch of the others refuses, answers, waits or places one request.
    refine taken fun body => .of_outcome ?_
    simp only [State.events, State.causeClear, State.measureRead, State.logRead, State.attest,
      State.keyCreate, State.keyPublic, State.keySign, State.keyDerive, State.keyDestroy, State.credStore,
      State.credRelease, State.credVerify, State.credErase, State.updateOpen, State.updateCommit,
      State.updateAbort, State.updateConfirm, State.layoutRead, State.provisionLayout, State.provisionAuthority,
      State.provisionBank, State.provisionFinish, State.endSession]
    repeat' split
    all_goals simp [State.watched]

/-- Every step keeps them, a millisecond that passes among them. -/
theorem step_watchedKept (s t : State) (run : step s = .next t) : s.watched.Kept t.watched := by
  rw [step] at run
  split at run
  · cases run
    rw [State.idle]
    split <;> exact .refl _
  · rename_i i rest _
    exact exec_watchedKept i { s with pending := rest } t run

end Sys2Proof.Machine

open Sys2Proof Sys2Proof.Machine

/-- Settles O5: completions, submissions and the SoC reset set engine and command together; ring and log take a record
only within their capacities. -/
theorem stepKeepsEngineAndCapacities : Obligations.StepKeepsEngineAndCapacities :=
  ⟨fun s t safe run => (engineSafe_iff t).2 ((step_watchedKept s t run).engine ((engineSafe_iff s).1 safe)),
    fun s t safe run =>
      (capacitiesSafe_iff t).2 ((step_watchedKept s t run).capacities ((capacitiesSafe_iff s).1 safe))⟩

end

section
namespace Sys2Proof.Machine

/-! ### The page image of a PROGRAM -/

/-- A position that none of the bytes lands on stays as it was (02 R27). -/
theorem placeBytes_of_unreached {page : List (Option Byte)} (size : page.length = 256) (pos : Nat) (data : Bytes)
    {j : Nat} (low : j < 256) (beyond : data.length ≤ j) :
    (placeBytes page pos data)[(pos + j) % 256]? = page[(pos + j) % 256]? := by
  induction data generalizing page pos j with
  | nil => rfl
  | cons v vs ih =>
    rw [List.length_cons] at beyond
    obtain ⟨i, rfl⟩ : ∃ i, j = i + 1 := ⟨j - 1, by omega⟩
    have other : pos % 256 ≠ (pos + (i + 1)) % 256 := by omega
    have kept := ih (page := page.set (pos % 256) (some v)) (by rw [List.length_set, size]) (pos + 1)
      (j := i) (by omega) (by omega)
    rw [Nat.add_right_comm, Nat.add_assoc] at kept
    rw [placeBytes, kept, List.getElem?_set_ne other]

/-- The last of the bytes for a position stands there (02 R27). -/
theorem placeBytes_of_last {page : List (Option Byte)} (size : page.length = 256) (pos : Nat) (data : Bytes)
    {k : Nat} (h : k < data.length) (last : data.length ≤ k + 256) :
    (placeBytes page pos data)[(pos + k) % 256]? = some (some data[k]) := by
  induction data generalizing page pos k with
  | nil => exact absurd h (Nat.not_lt_zero k)
  | cons v vs ih =>
    have grown : (page.set (pos % 256) (some v)).length = 256 := by rw [List.length_set, size]
    rw [placeBytes]
    rw [List.length_cons] at h last
    cases k with
    | zero =>
      have kept := placeBytes_of_unreached grown (pos + 1) vs (j := 255) (by omega) (by omega)
      have around : (pos + 1 + 255) % 256 = (pos + 0) % 256 := Nat.add_mod_right pos 256
      rw [around] at kept
      rw [kept, Nat.add_zero, List.getElem?_set_self (by omega)]
      rfl
    | succ k =>
      have stands := ih grown (pos + 1) (k := k) (by omega) (by omega)
      rw [Nat.add_right_comm, Nat.add_assoc] at stands
      exact stands

/-- The last data byte for the position of data byte `k`. -/
def lastFor (data : Bytes) (k : Nat) : Nat := k + 256 * ((data.length - 1 - k) / 256)

theorem lastFor_lt {data : Bytes} {k : Nat} (reached : k < data.length) : lastFor data k < data.length := by
  rw [lastFor]
  omega

/-- A page further there is no data byte any more. -/
theorem length_le_lastFor (data : Bytes) (k : Nat) : data.length ≤ lastFor data k + 256 := by
  rw [lastFor]
  omega

theorem lastFor_of_page {data : Bytes} (short : data.length ≤ 256) (k : Nat) : lastFor data k = k := by
  rw [lastFor]
  omega

/-- A page image position by position from P mod 256 on (02 R27). -/
theorem pageImage_position (p : Nat) (data : Bytes) {k : Nat} (low : k < 256) :
    ((pageImage p data)[(p % 256 + k) % 256]?).join = data[lastFor data k]? := by
  have size : emptyPage.length = 256 := List.length_replicate
  rw [pageImage]
  by_cases reached : k < data.length
  · have within := lastFor_lt reached
    have stands := placeBytes_of_last size (p % 256) data within (length_le_lastFor data k)
    have same : (p % 256 + lastFor data k) % 256 = (p % 256 + k) % 256 := by rw [lastFor]; omega
    rw [← same, stands, List.getElem?_eq_getElem within]
    rfl
  · have beyond : data.length ≤ k := Nat.not_lt.1 reached
    rw [lastFor_of_page (by omega), placeBytes_of_unreached size _ data low beyond, List.getElem?_eq_none beyond,
      emptyPage, List.getElem?_replicate_of_lt (by omega)]
    rfl

/-- Values that stand first in a range and no others are what it filters to. -/
theorem filterMap_range_of_first {α : Type} {f : Nat → Option α} {g : Nat → α} {n m : Nat} (le : n ≤ m)
    (filled : ∀ k < n, f k = some (g k)) (empty : ∀ k < m, n ≤ k → f k = none) :
    (List.range m).filterMap f = (List.range n).map g := by
  induction m, le using Nat.le_induction with
  | base =>
    rw [← List.filterMap_eq_map]
    exact List.filterMap_congr fun k low => filled k (List.mem_range.1 low)
  | succ m le ih =>
    rw [List.range_succ, List.filterMap_append, ih fun k low => empty k (Nat.lt_succ_of_lt low)]
    simp [empty m (Nat.lt_succ_self m) le]

/-- The bytes sent: for each filled position, from P mod 256 onward, the last data byte for it (02 R27). -/
theorem imageData_eq_map (p : Nat) (data : Bytes) : imageData (pageImage p data) p =
    (List.range (min data.length 256)).map fun k => byteAt data (lastFor data k) := by
  refine filterMap_range_of_first (Nat.min_le_right _ _) (fun k low => ?_) fun k low high => ?_
  · have within : lastFor data k < data.length := lastFor_lt (by omega)
    rw [pageImage_position p data (by omega), List.getElem?_eq_getElem within, byteAt,
      List.getD_eq_getElem _ _ within]
  · have own : lastFor data k = k := lastFor_of_page (by omega) k
    rw [pageImage_position p data low, own, List.getElem?_eq_none (by omega)]

/-- A PROGRAM of at most a page sends its data bytes as they came (02 R27). -/
theorem imageData_of_page (p : Nat) {data : Bytes} (short : data.length ≤ 256) :
    imageData (pageImage p data) p = data := by
  rw [imageData_eq_map, Nat.min_eq_left short]
  refine List.ext_getElem (by simp) fun k _ within => ?_
  simp [lastFor_of_page short, byteAt, within]

end Sys2Proof.Machine

open Sys2Proof Sys2Proof.Machine

/-- Settles O26: each position holds the last data byte for it, and the bytes sent are read off in the order of P. -/
theorem pageImageKeepsTheLastByte : Obligations.PageImageKeepsTheLastByte := by
  intro p data _
  have size : emptyPage.length = 256 := List.length_replicate
  refine ⟨pageImage_length p data, fun k within last => placeBytes_of_last size _ data within last,
    fun j low beyond => ?_, ?_, imageData_of_page p⟩
  · refine (placeBytes_of_unreached size _ data low beyond).trans ?_
    exact List.getElem?_replicate_of_lt (Nat.mod_lt _ (by decide))
  · simp [imageData_eq_map]

end

section
namespace Sys2Proof.Machine

/-! ### A violation recorded -/

/-- The ring with a record appended: of at most 16 its last 16 (02 R37). -/
theorem pushViolation_eq_drop {ring : List Violation} (within : ring.length ≤ 16) (v : Violation) :
    pushViolation ring v = (ring ++ [v]).drop (ring.length + 1 - 16) := by
  rw [pushViolation]
  split
  · rw [Nat.sub_eq_zero_of_le (by omega)]
    rfl
  · rw [List.drop_append_of_le_length (by omega)]
    rfl

/-- A counter's change is offered unless it is saturated (02 R38). -/
theorem offerChange_bump (s : State) (src : Source) (x : Word16) :
    s.offerChange src x (bump x) = if x = 65535 then s else s.offer src x.toNat (x.toNat + 1) := by
  rw [State.offerChange, bump]
  by_cases full : x = 65535
  · rw [if_pos full, if_pos rfl, if_pos full]
  · have changed : x ≠ x + 1 := by bv_omega
    have next : (x + 1).toNat = x.toNat + 1 := by bv_omega
    rw [if_neg full, if_neg changed, if_neg full, next]

theorem regionCounter_of_lt (c : Checker) {r : Nat} (low : r < 16) : c.regionCounter r = c.regionCounters[r] := by
  simp [Checker.regionCounter, low]

/-- The region counters with that of a violation raised, up to 65535 (02 R38). -/
theorem record_regionCounters (c : Checker) (kind : ViolationKind) (cls : OpClass) (p r : Nat) (stage : BitVec 3)
    (uptime : Word32) {i : Nat} (low : i < 16) :
    (c.record kind cls p (some r) stage uptime).regionCounters[i] =
      if i = r ∧ c.regionCounters[i] ≠ 65535 then c.regionCounters[i] + 1 else c.regionCounters[i] := by
  simp only [Checker.record, Vector.getElem_setIfInBounds]
  by_cases same : r = i
  · subst same
    simp [regionCounter_of_lt c low, bump]
  · simp [same, Ne.symm same]

/-- A record changes sequence, ring and counters alone, and the Response Unit the hide set (02 R36 ~ R38, 11 R170). -/
theorem record_frame {c t : Checker} {kind : ViolationKind} {cls : OpClass} {p : Nat} {region : Option Nat}
    {stage : BitVec 3} {uptime : Word32}
    (recorded : t = { c.record kind cls p region stage uptime with hideSet := t.hideSet }) :
    t = { c with
      sequence := t.sequence, ring := t.ring, allCounter := t.allCounter
      unmappedCounter := t.unmappedCounter, regionCounters := t.regionCounters, hideSet := t.hideSet } := by
  rw [recorded]
  rfl

/-- The state with a violation recorded and raised, nothing offered yet (02 R36). -/
def State.violated (s : State) (kind : ViolationKind) (cls : OpClass) (p : Nat) (region : Option Nat) : State :=
  State.raise { s with checker := s.checker.record kind cls p region s.measure.stage s.time.uptime } .violation

/-- Beyond the record and its event only the Response Unit acts (02 R36). -/
theorem violate_violated (s : State) (kind : ViolationKind) (cls : OpClass) (p : Nat) (region : Option Nat) :
    ResponseOnly (s.violated kind cls p region) (s.violate kind cls p region) := violate_only s kind cls p region

/-- The offers of a violation in unmapped space (02 R38). -/
theorem violate_of_none (s : State) (kind : ViolationKind) (cls : OpClass) (p : Nat) :
    s.violate kind cls p none =
      ((s.violated kind cls p none).offerChange .unmapped s.checker.unmappedCounter
        (bump s.checker.unmappedCounter)).offerChange .all s.checker.allCounter (bump s.checker.allCounter) := rfl

/-- The offers of a violation in a region (02 R38). -/
theorem violate_of_region (s : State) (kind : ViolationKind) (cls : OpClass) (p : Nat) {r : Nat} (low : r < 16) :
    s.violate kind cls p (some r) =
      ((s.violated kind cls p (some r)).offerChange (.region r) s.checker.regionCounters[r]
        (bump s.checker.regionCounters[r])).offerChange .all s.checker.allCounter (bump s.checker.allCounter) := by
  rw [← regionCounter_of_lt s.checker low]
  rfl

end Sys2Proof.Machine

open Sys2Proof Sys2Proof.Machine

/-- Settles O9: the record is made first, its counters are offered in order, and an offer reaches no further than the
Response Unit's actions. -/
theorem violationIsRecordedOnce : Obligations.ViolationIsRecordedOnce := by
  intro s kind cls p region within v t
  have only : ResponseOnly (s.violated kind cls p region) t := violate_violated s kind cls p region
  have checker : t.checker = { s.checker.record kind cls p region s.measure.stage s.time.uptime with
    hideSet := t.checker.hideSet } := only.checker
  refine ⟨congrArg Checker.sequence checker, (congrArg Checker.ring checker).trans (pushViolation_eq_drop within _),
    (congrArg Checker.allCounter checker).trans (bump_eq _), ?unmapped, ?region,
    only.events 1 (addTo_has _ 1 (by decide)), record_frame checker, only.hides,
    { only with checker := rfl, hides := fun _ => id }, ?offers⟩
  case unmapped =>
    rintro rfl
    exact ⟨(congrArg Checker.unmappedCounter checker).trans (bump_eq _),
      (congrArg Checker.regionCounters checker).trans rfl⟩
  case region =>
    rintro r rfl
    refine ⟨(congrArg Checker.unmappedCounter checker).trans rfl, fun i low => ?_⟩
    exact Eq.trans (by rw [checker]) (record_regionCounters s.checker kind cls p r s.measure.stage s.time.uptime low)
  case offers =>
    intro marked offered
    have recorded : marked = s.violated kind cls p region := by
      simp only [marked]
      rw [checker]
      rfl
    refine ⟨?_, ?_⟩
    · rintro rfl
      rw [recorded]
      simp only [offered, ← offerChange_bump]
      exact violate_of_none s kind cls p
    · rintro r low rfl
      rw [recorded]
      simp only [offered, ← offerChange_bump]
      exact violate_of_region s kind cls p low

end

section
namespace Sys2Proof.Machine

/-! ### Writes under the factory open mapping -/

/-- Below the window the factory open mapping leads to the same physical address up to the end E, and to nothing from
there on (02 R35). -/
theorem lookup_of_open {s : State} {p : Nat} (below : p < 0xFFF000) (mapped : s.checker.openMapping = true) :
    s.lookup p = if p < s.openEnd then .openTo p else .unmapped := by
  simp only [State.lookup, if_neg (Nat.not_le.2 (show p < windowBase from below)), mapped, if_true]

/-- The open range ends at or below the window (02 R35). -/
theorem openEnd_le (s : State) : s.openEnd ≤ windowBase := Nat.min_le_right _ _

/-- A write of a unit of `size` bytes, presented at `p`, under the factory open mapping (02 R35): handed on where the
unit ends at or below E, UNMAPPED from E to the window, else STRADDLE. -/
def State.openWrite (s : State) (w : SocWrite) (p size : Nat) : State :=
  if w.address + size ≤ s.openEnd then s.handWrite w
  else if s.openEnd ≤ w.address ∧ w.address + size ≤ windowBase then s.violate .unmapped w.cls p none
  else s.violate .straddle w.cls p none

theorem openWrite_of_below {s : State} {w : SocWrite} {size : Nat} (low : w.address + size ≤ s.openEnd) (p : Nat) :
    s.openWrite w p size = s.handWrite w := if_pos low

theorem openWrite_of_above {s : State} {w : SocWrite} {size : Nat} (unit : 0 < size) (high : s.openEnd ≤ w.address)
    (low : w.address + size ≤ windowBase) (p : Nat) : s.openWrite w p size = s.violate .unmapped w.cls p none :=
  (if_neg (by omega)).trans (if_pos ⟨high, low⟩)

theorem openWrite_of_across {s : State} {w : SocWrite} {size : Nat} (reaches : s.openEnd < w.address + size)
    (across : w.address < s.openEnd ∨ windowBase < w.address + size) (p : Nat) :
    s.openWrite w p size = s.violate .straddle w.cls p none :=
  (if_neg (by omega)).trans (if_neg (by omega))

/-- A PROGRAM is a write of a unit of one byte (02 R35). -/
theorem placeProgram_of_open {s : State} {p : Nat} (below : p < 0xFFF000) (mapped : s.checker.openMapping = true)
    (e : OpcodeEntry) (page : List (Option Byte)) :
    s.placeProgram e p page = s.openWrite ⟨.program, e.flashOp, p, imageData page p⟩ p 1 := by
  have window : p < windowBase := below
  by_cases low : p < s.openEnd
  · rw [openWrite_of_below (Nat.succ_le_of_lt low)]
    simp only [State.placeProgram, State.judgeProgram, lookup_of_open below mapped, if_pos low]
  · rw [openWrite_of_above Nat.one_pos (Nat.not_lt.1 low) (Nat.succ_le_of_lt window)]
    simp only [State.placeProgram, State.judgeProgram, lookup_of_open below mapped, if_neg low]

/-- An erase is a write of its unit, which holds the address presented (02 R29, R35). -/
theorem placeErase_of_open {s : State} {p size : Nat} (unit : 0 < size) (below : p < 0xFFF000)
    (mapped : s.checker.openMapping = true) (e : OpcodeEntry) :
    s.placeErase e p size = s.openWrite ⟨e.cls, e.flashOp, p / size * size, []⟩ p size := by
  have first : p / size * size ≤ p := Nat.div_mul_le_self p size
  have last : p < p / size * size + size := Nat.lt_div_mul_add unit
  simp only [State.placeErase, State.judgeErase, lookup_of_open below mapped]
  by_cases low : p < s.openEnd
  · simp only [if_pos low]
    by_cases fits : p / size * size + size ≤ s.openEnd
    · rw [openWrite_of_below fits, if_pos fits]
    · rw [openWrite_of_across (Nat.not_le.1 fits) (.inl (Nat.lt_of_le_of_lt first low)), if_neg fits]
  · simp only [if_neg low, mapped, if_true, ← Bool.decide_and, decide_eq_true_eq]
    refine (?_ : _ = _).trans (if_neg (by simp only; omega)).symm
    by_cases between : s.openEnd ≤ p / size * size ∧ p / size * size + size ≤ windowBase
    · rw [if_pos between, if_pos between]
    · rw [if_neg between, if_neg between]

/-- The three classes of writes, complete and ready, under the factory open mapping (01 R7, 02 R35). -/
theorem open_rows {s : State} {op : Byte} {received : Bytes} {d : Decode} {e : OpcodeEntry} {i : Instr} {c : OpClass}
    {least size : Nat} (row : (i, c, least, size) ∈ [(Instr.program op received, OpClass.program, 4 + e.dummy, 1),
      (Instr.erase4k op received, OpClass.erase4k, 3, 4096), (Instr.erase64k op received, OpClass.erase64k, 3, 65536)])
    (h : s.opens op c d e) (long : least ≤ received.length) (latched : s.port.wel = true)
    (ready : s.arbiter.busy = false) (mapped : s.checker.openMapping = true)
    (below : beNat (received.take 3) < 0xFFF000) :
    let p := beNat (received.take 3)
    0 < size ∧ ∃ d' data, d'.phase = .ended ∧
      (c = .program → data = imageData (pageImage p (received.drop (3 + e.dummy))) p) ∧
      exec i s = .next ((s.ended d' false (List.replicate received.length 0xFF)).openWrite
        ⟨c, e.flashOp, p / size * size, data⟩ p size) := by
  obtain ⟨-, -, -, -, cls⟩ := id h
  simp only [List.mem_cons, Prod.mk.injEq, List.not_mem_nil, or_false] at row
  rcases row with ⟨rfl, rfl, rfl, rfl⟩ | ⟨rfl, rfl, rfl, rfl⟩ | ⟨rfl, rfl, rfl, rfl⟩
  · obtain ⟨d', past, judged⟩ := programTransaction_of_complete h long
    rw [judgeWrite_of_ready latched ready] at judged
    refine ⟨Nat.one_pos, d', _, past, fun _ => rfl, congrArg Host.Outcome.next (judged.trans ?_)⟩
    rw [Nat.div_one, Nat.mul_one]
    exact placeProgram_of_open (s := s.ended d' false _) below mapped e _
  all_goals
    obtain ⟨d', past, judged⟩ := eraseTransaction_of_complete h long _
    rw [judgeWrite_of_ready latched ready] at judged
    refine ⟨by decide, d', [], past, nofun, congrArg Host.Outcome.next (judged.trans ?_)⟩
    rw [← cls]
    exact placeErase_of_open (s := s.ended d' false _) (by decide) below mapped e

/-- The end of the open range by the capacity of the layout, 16 MiB with none (02 R35). -/
theorem openEnd_eq (s : State) : s.openEnd = min ((match s.checker.layout with
    | some l => l.capacity.bytes
    | none => 16777216) - 262144) 0xFFF000 := by
  rw [State.openEnd]
  cases s.checker.layout <;> rfl

end Sys2Proof.Machine

open Sys2Proof Sys2Proof.Machine

/-- Settles O28: a write under the open mapping, by where its unit lies. -/
theorem factoryOpenMappingAllowsWritesBelowE : Obligations.FactoryOpenMappingAllowsWritesBelowE := by
  intro s op received d e p i c least size row h long latched ready mapped hp below capacity E u
  subst hp
  obtain ⟨unit, d', data, ended, sent, run⟩ := open_rows row h long latched ready mapped below
  refine ⟨d', ended, ?_⟩
  intro past
  have run : exec i s = .next (past.openWrite ⟨c, e.flashOp, u, data⟩ (beNat (received.take 3)) size) := run
  have last : E = past.openEnd := (openEnd_eq s).symm
  clear_value E
  subst last
  refine ⟨fun low => ⟨⟨c, e.flashOp, u, data⟩, rfl, rfl, rfl, sent, ?_⟩, fun high low => ?_, fun low reaches => ?_,
    fun reaches => ?_⟩
  · rw [run, openWrite_of_below low]
    rfl
  · rw [run, openWrite_of_above unit high low]
  · rw [run, openWrite_of_across reaches (.inl low)]
  · rw [run, openWrite_of_across (Nat.lt_of_le_of_lt (openEnd_le past) reaches) (.inr reaches)]

end
